-- ==== Sys2Proof/Word.lean ====
section
/-! DEFINITION. The words of the part: bytes, 16-bit fields, 32-bit registers and timestamps, 64-bit host addresses. -/

namespace Sys2Proof

/-- One byte of a record, a frame or host memory. -/
abbrev Byte := BitVec 8

/-- A 16-bit field (tag, speed, signed coordinate, edition). -/
abbrev Half := BitVec 16

/-- A 32-bit register, or a timestamp of the free-running µs counter (taken modulo 2³²). -/
abbrev Word := BitVec 32

/-- A host address. -/
abbrev Addr := BitVec 64

end Sys2Proof
end

