-- ==== Sys2Proof/Syntax.lean ====
section
/-! DEFINITION. The commands the part takes, one constructor per row of spec/opcode_table.json.
The table gives the rows no operand bits; the operands are those the rows' rules name (log 1). -/

namespace Sys2Proof

/-- The two arms of the cell. -/
inductive Arm where
  | a
  | b
deriving DecidableEq, Repr

/-- "The other arm" of a statement about arm x. -/
def Arm.other : Arm → Arm
  | .a => .b
  | .b => .a

/-- The two base registers of R139. -/
inductive BaseRegister where
  | lo
  | hi
deriving DecidableEq, Repr

/-- What made an operation complete unsuccessfully (R151). -/
inductive MemoryFailure where
  | errorStatus
  | poisonedData
  | busMasteringDisabled
  | linkDown
deriving DecidableEq, Repr

/-- The two conditions of the PCI Express interface that an operation needs (R151, R182). -/
inductive PcieCondition where
  | busMastering
  | link
deriving DecidableEq, Repr

/-- The commands. `x` is the arm a row concerns; `first` is the arm the part takes first where one row
acts on both arms and the spec allows either order. -/
inductive Instr where
  /-- PIN_RESET (R176): release of the reset pin. -/
  | pinReset
  /-- SERVE_SET (R169): a CONTROL write with SERVE 1. -/
  | serveSet
  /-- SERVE_CLEAR (R169): a CONTROL write with SERVE 0. -/
  | serveClear (first : Arm)
  /-- HOLD_X_WRITE (R91): a CONTROL write with `value` in HOLD_x. -/
  | holdXWrite (x : Arm) (value : Bool)
  /-- PART_RESET (R175): a CONTROL write with PART_RESET 1. -/
  | partReset
  /-- ARM_RESET_X (R106): a CONTROL write with ARM_RESET_x 1. -/
  | armResetX (x : Arm)
  /-- CAUSE_WRITE (R180). -/
  | causeWrite (value : Word)
  /-- CAUSE_MASK_WRITE (R180, R181). -/
  | causeMaskWrite (value : Word)
  /-- NUDGE (R143). -/
  | nudge (value : Word) (first : Arm)
  /-- EXCHANGE_BASE_WRITE (R139). -/
  | exchangeBaseWrite (which : BaseRegister) (value : Word)
  /-- REGISTER_WRITE (R177): a write of `size` bytes at `offset` that has no row of its own. -/
  | registerWrite (offset : BitVec 6) (size : Nat) (value : Word)
  /-- SETUP_READ_COMPLETE (R170): byte n of the setup block is bits 8n+7..8n of `data`. -/
  | setupReadComplete (data : BitVec 1024) (first : Arm)
  /-- NEXT_READ_COMPLETE (R144 step 3). -/
  | nextReadComplete (next : Byte)
  /-- SLOT_READ_COMPLETE (R144 step 5, R145): byte n of the slot is bits 8n+7..8n of `data`. -/
  | slotReadComplete (data : BitVec 512)
  /-- MEMORY_WRITE_COMPLETE (R148, R150). -/
  | memoryWriteComplete
  /-- READ_TIMEOUT (R151). -/
  | readTimeout
  /-- MEMORY_FAULT (R151). -/
  | memoryFault (failure : MemoryFailure)
  /-- PCIE_CONDITION_LOST (R182). -/
  | pcieConditionLost (condition : PcieCondition)
  /-- POLL_TIMER_EXPIRY (R143). -/
  | pollTimerExpiry (first : Arm)
  /-- PUBLISH_TIMER_EXPIRY (R154). -/
  | publishTimerExpiry
  /-- RX_BYTE (R124): one byte of x's line, with its framing error if it has one. -/
  | rxByte (x : Arm) (value : Byte) (framingError : Bool)
  /-- BYTE_GAP_EXPIRY (R128). -/
  | byteGapExpiry (x : Arm)
  /-- LINE_FREE (R133). -/
  | lineFree (x : Arm)
  /-- HOLD_REPEAT_EXPIRY (R94). -/
  | holdRepeatExpiry (x : Arm)
  /-- MONITOR_TAKE_FRAME (R64 to R72). -/
  | monitorTakeFrame (x : Arm)
  /-- STALE_EXPIRY (R73). -/
  | staleExpiry (x : Arm)
  /-- LOSS_EXPIRY (R74). -/
  | lossExpiry (x : Arm)
  /-- ENVELOPE_REPORT (R26). -/
  | envelopeReport (x : Arm)
  /-- FRAME_NOTICE (R95). -/
  | frameNotice (x : Arm)
  /-- ADMISSION_ANSWER (R102). -/
  | admissionAnswer (x : Arm)
  /-- HOLD_ACK_EXPIRY (R96). -/
  | holdAckExpiry (x : Arm)
  /-- ADMIT_WINDOW_EXPIRY (R104). -/
  | admitWindowExpiry (x : Arm)
  /-- CELLSTOP_ASSERTED (R89): the input becomes asserted, or has been for the 10 µs of its filter. -/
  | cellstopAsserted (first : Arm)
  /-- CELLSTOP_RELEASED (R89): the input becomes released, or has been for the 10 µs of its filter. -/
  | cellstopReleased
  /-- FRAME_FIGURES (R112). -/
  | frameFigures (x : Arm)
  /-- TEST_WINDOW_EXPIRY (R115). -/
  | testWindowExpiry (x : Arm)
  /-- WAIT_TIMER_EXPIRY (R56). -/
  | waitTimerExpiry (x : Arm)
  /-- RESET_PIN_ASSERTED (R176). -/
  | resetPinAsserted
  /-- CONFIGURATION_SPACE_WRITE (R151, R181). -/
  | configurationSpaceWrite (busMaster : Bool) (messageEnable : Bool)
  /-- PCIE_LINK_UP (R182): the link-up indication takes the level `up`. -/
  | pcieLinkUp (up : Bool)
deriving DecidableEq, Repr

end Sys2Proof
end

