-- ==== Sys2Proof/Decode.lean ====
section
/-! DEFINITION. The command a table word spells. No row of spec/opcode_table.json gives bits (every row's
"fields" is empty), so every word is refused: none (log 20). -/

namespace Sys2Proof

/-- The rows of the table that give bits, as (width in bits, mask, pattern, command): there are none. -/
def tableRows : List (Nat × Nat × Nat × Instr) := []

/-- The command spelled by an `nbits`-bit word `w`: the first table row of that width whose pattern `w` has. -/
def decodeTableWord (nbits w : Nat) : Option Instr :=
  (tableRows.find? fun r => r.1 == nbits && (w &&& r.2.1) == r.2.2.1).map fun r => r.2.2.2

end Sys2Proof
end

