-- ==== Sys2Proof/Config.lean ====
section
/-! DEFINITION. The free values: what the spec leaves open and the part nevertheless does. -/

namespace Sys2Proof

/-- FREE VALUE (log 7): how many leading bytes of a write that is cut off (R152 "its remaining bytes not
sent", R175, R176) or that fails while in progress (R151) have reached host memory. It has no body;
a use is bounded by the length of the write. The argument is the state's counter of free values used. -/
opaque Config.bytesSent : Nat → Nat

end Sys2Proof
end

