-- ==== Sys2Proof/Machine/Types.lean ====
section
/-! DEFINITION. The records the blocks of the part keep, as plain data, each named after the rule that gives it. -/

namespace Sys2Proof.Machine

/-! ## Geometry (R1 to R11) -/

/-- A position in whole millimetres, three signed 16-bit coordinates. -/
structure Pos where
  x : Half
  y : Half
  z : Half
deriving DecidableEq, Repr

/-- A box of space in mm, both ends included (R8, R9). -/
structure Box where
  xlo : Int
  xhi : Int
  ylo : Int
  yhi : Int
  zlo : Int
  zhi : Int
deriving DecidableEq, Repr

/-- A cell box: lowest and highest index on each axis (R10, R11). -/
structure CellBox where
  xlo : Nat
  xhi : Nat
  ylo : Nat
  yhi : Nat
  zlo : Nat
  zhi : Nat
deriving DecidableEq, Repr

/-- An envelope: its box and its cell box, `none` for the mark outside (R8, R11). -/
structure Envelope where
  box : Box
  cells : Option CellBox
deriving DecidableEq, Repr

/-! ## The setup figures (R170) -/

/-- Fields 27..30 or 31..34: tool radius, reaction time, configured deceleration, pad (R3). -/
structure ArmFigures where
  radius : Nat
  reaction : Nat
  acfg : Nat
  pad : Nat
deriving DecidableEq, Repr

/-- The figures of an accepted setup block, fields 2 to 34 (R170). -/
structure Setup where
  ox : Int
  oy : Int
  oz : Int
  edge : Nat
  nx : Nat
  ny : Nat
  nz : Nat
  capGap : Nat
  uncapGap : Nat
  creep : Nat
  staleLimit : Nat
  lossLimit : Nat
  holdAckWindow : Nat
  holdRepeat : Nat
  admitCount : Nat
  admitWindow : Nat
  leaveCount : Nat
  parkLimit : Nat
  testWindow : Nat
  testMinSpeed : Nat
  stillSpeed : Nat
  publishInterval : Nat
  pollInterval : Nat
  linkRate : Nat
  entryA : Nat
  entryB : Nat
  armA : ArmFigures
  armB : ArmFigures
deriving DecidableEq, Repr

/-! ## The cell table and the claims (R19 to R21, R48) -/

/-- An entry of the cell table: owner and holder set, the set as a strictly rising list (R19). -/
structure CellEntry where
  owner : Option Arm
  holders : List Nat
deriving DecidableEq, Repr

/-- The cell table: the cell counts kept with it (R36) and its entries that are not free, by cell number. -/
structure CellTable where
  nx : Nat
  ny : Nat
  nz : Nat
  cells : List (Nat × CellEntry)
deriving DecidableEq, Repr

inductive ClaimState where
  | free
  | granted
  | leaving
deriving DecidableEq, Repr

inductive ClaimMode where
  | explicit
  | onLeave
deriving DecidableEq, Repr

/-- A numbered claim record (R20). -/
structure Claim where
  state : ClaimState
  tag : Half
  mode : ClaimMode
  box : CellBox
  count : Nat
  entered : Bool
  outside : Nat
  granted : Word
  slot : Nat
deriving DecidableEq, Repr

/-- A timer: stopped, or running to an expiry time of the µs counter. -/
abbrev Timer := Option Word

/-- Of two pending RESERVEs, which became pending first (R48, R52); what one that is pending alone stores: log 36. -/
inductive Age where
  | older
  | younger
deriving DecidableEq, Repr

/-- A pending RESERVE (R48). -/
structure PendingReserve where
  slot : Nat
  tag : Half
  mode : ClaimMode
  box : CellBox
  count : Nat
  conflicts : Nat
  firstConflict : Option Nat
  since : Word
  age : Age
  timer : Timer
deriving DecidableEq, Repr

/-! ## Drive states and the hand-offs between blocks (R26, R69, R102) -/

inductive DriveState where
  | moving
  | holding
  | standstill
  | fault
deriving DecidableEq, Repr

/-- An envelope report; `cells` is `none` for the mark outside (R26, R68). -/
structure Report where
  cells : Option CellBox
  seq : Byte
  time : Word
  restart : Bool
deriving DecidableEq, Repr

/-- A frame notice (R69). Its request to remove STALE is part of every notice. -/
structure Notice where
  drive : DriveState
  speed : Nat
  seq : Byte
  time : Word
deriving DecidableEq, Repr

/-- The arbiter's answer to an admission report (R31). -/
structure Answer where
  foreign : Bool
  cells : Option CellBox
  seq : Byte
  time : Word
deriving DecidableEq, Repr

/-- Frame figures (R69). -/
structure Figures where
  pos : Pos
  time : Word
  drive : DriveState
  speed : Nat
deriving DecidableEq, Repr

/-- An unpaired half of an admission frame (R102). -/
inductive AdmissionHalf where
  | notice (n : Notice)
  | answer (r : Answer)
deriving DecidableEq, Repr

/-! ## The reach monitor (R62) -/

/-- The record of a reach monitor (R62). `evaluationOwed` is the model's own mark (log 4). -/
structure Monitor where
  previous : Bool
  pos : Pos
  seq : Byte
  time : Word
  speed : Nat
  margin : Nat
  envelope : Option Envelope
  known : Bool
  stale : Bool
  restart : Bool
  staleTimer : Timer
  lossTimer : Timer
  capped : Bool
  minClearance : Nat
  maxSpeed : Nat
  maxMargin : Nat
  evaluationOwed : Bool
deriving DecidableEq, Repr

/-! ## The arm guard (R86) -/

inductive GuardState where
  | offline
  | admitting
  | running
  | held
  | stopped
deriving DecidableEq, Repr

/-- The names of the hold reasons (R90). -/
inductive HoldReason where
  | host
  | breach
  | stale
  | park
  | test
deriving DecidableEq, Repr

/-- The hold-reason set, one flag per reason (R86, R90). -/
structure Reasons where
  host : Bool
  breach : Bool
  stale : Bool
  park : Bool
  test : Bool
deriving DecidableEq, Repr

inductive HoldPhase where
  | none
  | awaiting
  | acknowledged
deriving DecidableEq, Repr

/-- Stop causes (R86, R98). -/
inductive StopCause where
  | none
  | holdAck
  | disobeyed
  | loss
  | driveFault
  | estop
  | cellStop
  | testDeficient
  | testOverrun
  | servingEnded
deriving DecidableEq, Repr

/-- Why an admission failed (R104). -/
inductive AdmissionFailure where
  | window
  | escalation (c : StopCause)
deriving DecidableEq, Repr

/-- The record of an arm guard (R86). -/
structure Guard where
  state : GuardState
  reasons : Reasons
  phase : HoldPhase
  ackTimer : Timer
  stopCause : StopCause
  admissionSlot : Option Nat
  prior : Option GuardState
  count : Nat
  windowTimer : Timer
  unpaired : List AdmissionHalf
  stopAsserted : Bool
deriving DecidableEq, Repr

/-! ## Verdicts (R160) -/

inductive Verdict where
  | granted
  | outside
  | blocked
  | expired
  | crossed
  | withdrawn
  | notAdmitted
  | badBox
  | badField
  | badKind
  | wrongArm
  | duplicateTag
  | noClaim
  | released
  | leaving
  | unknownTag
  | admitted
  | admitFailed
  | notAllowed
  | busy
  | parkReleased
  | testPassed
  | testDeficient
  | testOverrun
  | testAborted
  | tooSlow
  | acknowledged
  | stillBreaching
  | notBreached
  | cleared
deriving DecidableEq, Repr

/-! ## The stop test unit (R108, R119) -/

inductive TestPhase where
  | idle
  | braking
deriving DecidableEq, Repr

/-- The figures of an ended test (R119). -/
structure TestResult where
  verdict : Verdict
  stopCause : StopCause
  v0 : Nat
  distance : Nat
  elapsed : Word
  reaction : Nat
  braking : Int
  measured : Nat
  alrn : Nat
deriving DecidableEq, Repr

/-- The record of a stop test unit (R108); `seen` is the last frame figures it took (R110, R111; log 9). -/
structure TestUnit where
  phase : TestPhase
  slot : Option Nat
  p0 : Pos
  t0 : Word
  v0 : Nat
  slow : Nat
  timer : Timer
  alrn : Nat
  last : Option TestResult
  seen : Figures
deriving DecidableEq, Repr

/-! ## The drive link (R123) -/

inductive LinkState where
  | active
  | quiet
deriving DecidableEq, Repr

inductive RxPhase where
  | hunt
  | frame
deriving DecidableEq, Repr

/-- An entry of the receive FIFO (R123). -/
structure Frame where
  seq : Byte
  drive : Byte
  pos : Pos
  speed : Half
  time : Word
deriving DecidableEq, Repr

/-- What the stop-control place can hold (R132). -/
inductive StopFrame where
  | hold
  | resume
deriving DecidableEq, Repr

/-- What the speed place can hold (R132). -/
inductive SpeedFrame where
  | cap (speed : Half)
  | uncap
deriving DecidableEq, Repr

/-- An outbound frame (R134). -/
inductive OutFrame where
  | stop (f : StopFrame)
  | speed (f : SpeedFrame)
deriving DecidableEq, Repr

/-- The record of a drive link (R123); `received` is the partial frame. -/
structure Link where
  state : LinkState
  phase : RxPhase
  received : List Byte
  gapTimer : Timer
  fifo : List Frame
  stopPlace : Option StopFrame
  speedPlace : Option SpeedFrame
  onLine : Option OutFrame
  repeatTimer : Timer
deriving DecidableEq, Repr

/-! ## The exchange engine (R141, R150, R168) -/

inductive WalkPhase where
  | none
  | readingNext
  | readingSlot
deriving DecidableEq, Repr

/-- The per-arm record of the exchange engine (R141). -/
structure Chain where
  cursor : Option Nat
  openSlot : Option Nat
  answered : Bool
  walk : WalkPhase
  walkAgain : Bool
  publishDue : Bool
  changed : Bool
  blockQueued : Bool
  edition : Half
deriving DecidableEq, Repr

/-- The stages the part writes (R140). -/
inductive Stage where
  | taken
  | waiting
  | done
deriving DecidableEq, Repr

/-- The operations of the engine's queue (R150). Slot operations carry the arm whose chain they serve. -/
inductive MemOp where
  | setupRead
  | nextRead (x : Arm) (slot : Nat)
  | slotRead (x : Arm) (slot : Nat)
  | figureWrite (x : Arm) (slot : Nat) (offset : Nat) (bytes : List Byte)
  | stageWrite (x : Arm) (slot : Nat) (stage : Stage)
  | statusWrite (x : Arm)
deriving DecidableEq, Repr

/-- The operation in progress: the host address it reads from or writes to (R139), the bytes a write sends, the
50 ms limit of a read (R151), and whether it is the setup read of an abandoned load (R171). -/
structure RunningOp where
  op : MemOp
  addr : Addr
  bytes : List Byte
  limit : Timer
  abandoned : Bool
deriving DecidableEq, Repr

inductive EngineState where
  | idle
  | loading
  | serving
  | closing
  | faulted
deriving DecidableEq, Repr

inductive SetupOutcome where
  | none
  | accepted
  | refused
  | abandoned
deriving DecidableEq, Repr

inductive FaultKind where
  | none
  | readError
  | readTimeout
  | writeError
deriving DecidableEq, Repr

/-! ## Everything one arm has -/

/-- The blocks that exist once per arm, CONTROL.HOLD_x, the arm's share of the zone arbiter, and the
hand-offs to its blocks that are on their way, oldest first (log 5). -/
structure ArmPart where
  hold : Bool
  chain : Chain
  claims : List Claim
  parkCount : Nat
  waiting : Option PendingReserve
  monitor : Monitor
  guard : Guard
  test : TestUnit
  link : Link
  reports : List Report
  notices : List Notice
  answers : List Answer
  figures : List Figures
deriving DecidableEq, Repr

end Sys2Proof.Machine
end

