-- ==== Sys2Proof/Machine/Resets.lean ====
section
/-! DEFINITION. The reset state of each block's record, as its chapter gives it. -/

namespace Sys2Proof.Machine

/-- Position (0, 0, 0). -/
def originPos : Pos := ⟨0, 0, 0⟩

/-- A free entry of the cell table: owner NONE, empty holder set (R19). -/
def freeEntry : CellEntry := ⟨none, []⟩

/-- The cleared cell table (R22): no entry is held; cell counts as given (before the first start of serving log 8,
after a clearing with no setup block to go by log 35). -/
def clearedTable (nx ny nz : Nat) : CellTable := ⟨nx, ny, nz, []⟩

/-- A cell box of zeros, the value of a FREE record (R20). -/
def zeroBox : CellBox := ⟨0, 0, 0, 0, 0, 0⟩

/-- A FREE claim record holds 0 in every other field (R20). -/
def freeClaim : Claim := ⟨.free, 0, .explicit, zeroBox, 0, false, 0, 0, 0⟩

/-- The eight numbered claim records of an arm, all FREE (R22). -/
def freeClaims : List Claim :=
  [freeClaim, freeClaim, freeClaim, freeClaim, freeClaim, freeClaim, freeClaim, freeClaim]

/-- The reset state of a reach monitor (R63). -/
def resetMonitor : Monitor where
  previous := false
  pos := originPos
  seq := 0
  time := 0
  speed := 0
  margin := 0
  envelope := none
  known := false
  stale := false
  restart := true
  staleTimer := none
  lossTimer := none
  capped := false
  minClearance := 65535
  maxSpeed := 0
  maxMargin := 0
  evaluationOwed := false

/-- The empty hold-reason set. -/
def noReasons : Reasons := ⟨false, false, false, false, false⟩

/-- The reset state of an arm guard (R87), its stop line asserted. -/
def resetGuard : Guard where
  state := .offline
  reasons := noReasons
  phase := .none
  ackTimer := none
  stopCause := .none
  admissionSlot := none
  prior := none
  count := 0
  windowTimer := none
  unpaired := []
  stopAsserted := true

/-- The frame figures of a unit that has taken none (log 9). -/
def noFigures : Figures := ⟨originPos, 0, .moving, 0⟩

/-- A stop test unit in IDLE with an empty last result and the given learned deceleration (R108). -/
def resetTest (alrn : Nat) : TestUnit where
  phase := .idle
  slot := none
  p0 := originPos
  t0 := 0
  v0 := 0
  slow := 0
  timer := none
  alrn := alrn
  last := none
  seen := noFigures

/-- The reset state of a drive link (R123) with the given link state. -/
def resetLink (state : LinkState) : Link where
  state := state
  phase := .hunt
  received := []
  gapTimer := none
  fifo := []
  stopPlace := none
  speedPlace := none
  onLine := none
  repeatTimer := none

/-- The per-arm engine record after a reset and at the start of serving (R141). -/
def resetChain : Chain where
  cursor := none
  openSlot := none
  answered := false
  walk := .none
  walkAgain := false
  publishDue := false
  changed := false
  blockQueued := false
  edition := 0

/-- Everything of one arm after a pin reset or a part reset (R22, R50, R63, R87, R108, R123, R141, R178). -/
def resetArm : ArmPart where
  hold := false
  chain := resetChain
  claims := freeClaims
  parkCount := 0
  waiting := none
  monitor := resetMonitor
  guard := resetGuard
  test := resetTest 0
  link := resetLink .quiet
  reports := []
  notices := []
  answers := []
  figures := []

end Sys2Proof.Machine
end

