-- ==== Sys2Proof/Machine/State.lean ====
section
/-! DEFINITION. The state: everything the spec gives the part, and the queue of waiting commands. -/

namespace Sys2Proof.Machine

/-- No command of this part stops the machine with a fault: a memory fault (R151), an escalation (R98) and
every refusal of a request (R160) are effects on the state. The one constructor is raised by no meaning; it
is safe, since a stop proves nothing about what the part would do. -/
inductive Fault where
  /-- Raised by nothing; it keeps the type inhabited. Safe. -/
  | neverRaised
deriving DecidableEq, Repr

/-- Why the model has no meaning for a command. -/
inductive Refusal where
  /-- The command with this mnemonic has no meaning yet. Raised by no arm of exec; safe. -/
  | notModelled (mnemonic : String)
deriving DecidableEq, Repr

/-- The part: registers, pins and inputs, the exchange engine, the zone arbiter, and the two arms' blocks. -/
structure Part where
  /-- the free-running µs counter -/
  now : Word
  /-- RSTN is asserted (R176) -/
  inReset : Bool
  /-- bus-master enable, message enable, link-up indication (R151, R181) -/
  busMaster : Bool
  msgEnable : Bool
  pcieUp : Bool
  /-- level of the CELLSTOP input, true when asserted (R89, R179) -/
  cellstopPin : Bool
  /-- CELLSTOP as the guards see it, behind its 10 µs filter (R89) -/
  cellstop : Bool
  /-- when the filter passes a level of the input that the guards do not see yet -/
  cellstopFilter : Timer
  /-- CAUSE and CAUSE_MASK (R180) -/
  cause : Word
  causeMask : Word
  /-- EXCHANGE_BASE_LO and EXCHANGE_BASE_HI (R139) -/
  baseLo : Word
  baseHi : Word
  /-- the engine's record (R168) -/
  engine : EngineState
  serve : Bool
  outcome : SetupOutcome
  fieldNumber : Nat
  faultKind : FaultKind
  setup : Option Setup
  /-- the queue of memory operations and the one in progress (R150) -/
  opQueue : List MemOp
  inProgress : Option RunningOp
  pollTimer : Timer
  publishTimer : Timer
  /-- the cell table (R19) -/
  table : CellTable
  armA : ArmPart
  armB : ArmPart
  /-- interrupt messages sent (R181) -/
  messages : Nat
  /-- host memory as the part has written it, addresses strictly rising (log 7) -/
  hostMem : List Host.Cell
  /-- how many free values have been used (log 7) -/
  freeUsed : Nat
deriving DecidableEq, Repr

/-- The machine: the part and the commands that wait for it, first in, first out. -/
structure State where
  part : Part
  pending : List Instr
deriving DecidableEq, Repr

/-- The part right after a pin reset (R176), with the input levels and outside records of log 8. -/
def resetPart : Part where
  now := 0
  inReset := false
  busMaster := false
  msgEnable := false
  pcieUp := false
  cellstopPin := true
  cellstop := true
  cellstopFilter := none
  cause := 0
  causeMask := 0
  baseLo := 0
  baseHi := 0
  engine := .idle
  serve := false
  outcome := .none
  fieldNumber := 0
  faultKind := .none
  setup := none
  opQueue := []
  inProgress := none
  pollTimer := none
  publishTimer := none
  table := clearedTable 0 0 0
  armA := resetArm
  armB := resetArm
  messages := 0
  hostMem := []
  freeUsed := 0

/-- The machine right after reset: no command waits. -/
def State.reset : State where
  part := resetPart
  pending := []

end Sys2Proof.Machine
end

