-- ==== Sys2Proof/Machine/Ops.lean ====
section
/-! DEFINITION. The named operations over the records of the part: sparse lists, holder sets, the two arms,
timers, bytes and host memory, and the engine's queue. -/

namespace Sys2Proof.Machine

/-! ## Sparse lists: (key, value) pairs with strictly rising keys -/

/-- The value listed under `k`, if any. -/
def sparseFind {β : Type} (k : Nat) : List (Nat × β) → Option β
  | [] => none
  | (j, v) :: rest => if j = k then some v else sparseFind k rest

/-- The list with `v` under `k`, in order. -/
def sparseInsert {β : Type} (k : Nat) (v : β) : List (Nat × β) → List (Nat × β)
  | [] => [(k, v)]
  | (j, w) :: rest =>
    if k < j then (k, v) :: (j, w) :: rest
    else if j = k then (k, v) :: rest
    else (j, w) :: sparseInsert k v rest

/-- The list without an entry under `k`. -/
def sparseErase {β : Type} (k : Nat) : List (Nat × β) → List (Nat × β)
  | [] => []
  | (j, w) :: rest => if j = k then rest else (j, w) :: sparseErase k rest

/-- Every key of the list is above `k`. -/
def keysAbove {β : Type} (k : Nat) : List (Nat × β) → Bool
  | [] => true
  | (j, _) :: rest => decide (k < j) && keysAbove k rest

/-- The canonical form: keys strictly rising. -/
def sparseWf {β : Type} : List (Nat × β) → Bool
  | [] => true
  | (j, _) :: rest => keysAbove j rest && sparseWf rest

/-! ## Holder sets as strictly rising lists (R19) -/

/-- The set with `n` added. -/
def holderInsert (n : Nat) : List Nat → List Nat
  | [] => [n]
  | m :: rest => if n < m then n :: m :: rest else if n = m then m :: rest else m :: holderInsert n rest

/-- The set with `n` removed. -/
def holderErase (n : Nat) (l : List Nat) : List Nat := l.filter (fun m => m != n)

/-- The claim number of a park claim (R21). -/
def parkNumber : Nat := 8

/-! ## The two arms -/

/-- Everything of arm x. -/
def Part.arm (p : Part) : Arm → ArmPart
  | .a => p.armA
  | .b => p.armB

/-- Arm x's share of the part, changed by `f`. -/
def Part.updArm (p : Part) (x : Arm) (f : ArmPart → ArmPart) : Part :=
  match x with
  | .a => { p with armA := f p.armA }
  | .b => { p with armB := f p.armB }

def Part.updChain (p : Part) (x : Arm) (f : Chain → Chain) : Part :=
  p.updArm x fun r => { r with chain := f r.chain }

def Part.updMonitor (p : Part) (x : Arm) (f : Monitor → Monitor) : Part :=
  p.updArm x fun r => { r with monitor := f r.monitor }

def Part.updGuard (p : Part) (x : Arm) (f : Guard → Guard) : Part :=
  p.updArm x fun r => { r with guard := f r.guard }

def Part.updTest (p : Part) (x : Arm) (f : TestUnit → TestUnit) : Part :=
  p.updArm x fun r => { r with test := f r.test }

def Part.updLink (p : Part) (x : Arm) (f : Link → Link) : Part :=
  p.updArm x fun r => { r with link := f r.link }

/-- `f` for the arm `first` and then for the other one. -/
def Part.bothArms (p : Part) (first : Arm) (f : Part → Arm → Part) : Part :=
  f (f p first) first.other

/-! ## The µs counter and timers -/

/-- A timer that expires `us` microseconds after the time `t`, modulo 2³². -/
def timerAt (t : Word) (us : Nat) : Timer := some (t + BitVec.ofNat 32 us)

/-- A timer that expires `ms` milliseconds from now. -/
def Part.afterMs (p : Part) (ms : Nat) : Timer := timerAt p.now (ms * 1000)

/-- The timer runs and its expiry time has come: the counter is at it or less than half its range past it
(log 3). -/
def timerDue (now : Word) : Timer → Bool
  | none => false
  | some t => decide ((now - t).toNat < 2 ^ 31)

/-! ## Setup figures in force -/

/-- The arm's four setup figures (R3). -/
def Setup.arm (f : Setup) : Arm → ArmFigures
  | .a => f.armA
  | .b => f.armB

/-- The arm's entry slot (R143, R170). -/
def Setup.entry (f : Setup) : Arm → Nat
  | .a => f.entryA
  | .b => f.entryB

/-- Figures for a state with none in force; no block asks then (R3; log 23). -/
def noSetup : Setup where
  ox := 0
  oy := 0
  oz := 0
  edge := 0
  nx := 0
  ny := 0
  nz := 0
  capGap := 0
  uncapGap := 0
  creep := 0
  staleLimit := 0
  lossLimit := 0
  holdAckWindow := 0
  holdRepeat := 0
  admitCount := 0
  admitWindow := 0
  leaveCount := 0
  parkLimit := 0
  testWindow := 0
  testMinSpeed := 0
  stillSpeed := 0
  publishInterval := 0
  pollInterval := 0
  linkRate := 0
  entryA := 0
  entryB := 0
  armA := ⟨0, 0, 0, 0⟩
  armB := ⟨0, 0, 0, 0⟩

/-- The setup figures in force (R168). -/
def Part.figures (p : Part) : Setup := p.setup.getD noSetup

/-- SERVING or FAULTED: the engine states in which the blocks guard (R64, R88, R100, R122). -/
def Part.guarding (p : Part) : Bool := p.engine == .serving || p.engine == .faulted

/-! ## Bytes -/

/-- The two bytes of `n`, least significant first (R183). -/
def le16 (n : Nat) : List Byte := [BitVec.ofNat 8 n, BitVec.ofNat 8 (n / 256)]

/-- The four bytes of `n`, least significant first. -/
def le32 (n : Nat) : List Byte :=
  [BitVec.ofNat 8 n, BitVec.ofNat 8 (n / 256), BitVec.ofNat 8 (n / 65536), BitVec.ofNat 8 (n / 16777216)]

/-- The four bytes of the two's complement of `i`. -/
def le32s (i : Int) : List Byte := le32 (BitVec.ofInt 32 i).toNat

/-- One byte. -/
def byte1 (n : Nat) : List Byte := [BitVec.ofNat 8 n]

/-- `bytes` filled with zeros or cut to `n` bytes. -/
def padTo (n : Nat) (bytes : List Byte) : List Byte :=
  (bytes ++ List.replicate (n - bytes.length) 0).take n

/-! ## Host memory as the part writes it (log 7) -/

/-- The exchange base (R139). -/
def Part.base (p : Part) : Addr := p.baseHi ++ p.baseLo

/-- The host address of an offset in the exchange area (R139). -/
def Part.areaAddr (p : Part) (offset : Nat) : Addr := p.base + BitVec.ofNat 64 offset

/-- The offset of slot n (R139). -/
def slotOffset (n : Nat) : Nat := 0x400 + 64 * n

/-- The offset of an arm's status block (R139). -/
def statusOffset : Arm → Nat
  | .a => 0x100
  | .b => 0x200

/-- The canonical form of the memory list. -/
def Memory.wf (mem : List Host.Cell) : Bool := sparseWf mem

/-- The byte the part last wrote at an address, if it has written there. -/
def memRead (mem : List Host.Cell) (addr : Addr) : Option Byte := sparseFind addr.toNat mem

/-- `bytes` written from `addr` upward. -/
def memWrite (mem : List Host.Cell) (addr : Addr) : List Byte → List Host.Cell
  | [] => mem
  | b :: rest => memWrite (sparseInsert addr.toNat b mem) (addr + 1) rest

/-- The offset in the exchange area at which an operation starts (R139, R140, R144, R145, R155, R183): the setup block
at 0, a slot or its next field, the figures or the stage of a slot, a status block. -/
def MemOp.offset : MemOp → Nat
  | .setupRead => 0
  | .nextRead _ slot => slotOffset slot + 3
  | .slotRead _ slot => slotOffset slot
  | .figureWrite _ slot offset _ => slotOffset slot + offset
  | .stageWrite _ slot _ => slotOffset slot
  | .statusWrite x => statusOffset x

/-- Whether an operation is a read (R150). -/
def MemOp.isRead : MemOp → Bool
  | .setupRead => true
  | .nextRead _ _ => true
  | .slotRead _ _ => true
  | .figureWrite _ _ _ _ => false
  | .stageWrite _ _ _ => false
  | .statusWrite _ => false

/-- Whether an operation is a write to a slot: these CLOSING keeps (R153). -/
def MemOp.isSlotWrite : MemOp → Bool
  | .figureWrite _ _ _ _ => true
  | .stageWrite _ _ _ => true
  | .setupRead => false
  | .nextRead _ _ => false
  | .slotRead _ _ => false
  | .statusWrite _ => false

/-- The bytes of an operation are in host memory, from its address upward. DESIGN CHOICE (log 31): of a write in
progress host memory shows nothing until MEMORY_WRITE_COMPLETE lands it whole; R182 lets an earlier packet show
before a later one. -/
def Part.landWrite (p : Part) (r : RunningOp) : Part := { p with hostMem := memWrite p.hostMem r.addr r.bytes }

/-- The operation in progress is given up: a free number of a write's leading bytes has been sent (R152;
log 7), a read's data is ignored. -/
def Part.dropRunning (p : Part) : Part :=
  match p.inProgress with
  | some r =>
    if r.op.isRead then { p with inProgress := none }
    else
      { (p.landWrite { r with bytes := r.bytes.take (Config.bytesSent p.freeUsed) }) with
        inProgress := none, freeUsed := p.freeUsed + 1 }
  | none => p

/-! ## The engine's queue and the status block marks (R150, R154) -/

/-- A memory operation joins the queue (R150). -/
def Part.queueOp (p : Part) (op : MemOp) : Part := { p with opQueue := p.opQueue ++ [op] }

/-- Whether the marks of R154 are kept: they are not in IDLE and FAULTED (R152, R156). DEDUCED (log 34): nor in LOADING,
which R156 does not name. -/
def Part.marksKept (p : Part) : Bool := p.engine == .serving || p.engine == .closing

/-- Arm x's status block is marked publish due (R154). -/
def Part.markDue (p : Part) (x : Arm) : Part :=
  if p.marksKept then p.updChain x fun c => { c with publishDue := true } else p

/-- Arm x's status block is marked changed (R154). -/
def Part.markChanged (p : Part) (x : Arm) : Part :=
  if p.marksKept then p.updChain x fun c => { c with changed := true } else p

end Sys2Proof.Machine
end

