-- ==== Sys2Proof/Machine/Geometry.lean ====
section
/-! DEFINITION. The margin unit (R1 to R18): exact integer arithmetic, no state of its own. -/

namespace Sys2Proof.Machine

/-- ⌈a / b⌉ for b above 0 (0 for b = 0, which no caller gives). -/
def ceilDiv (a b : Nat) : Nat := (a + (b - 1)) / b

/-- Every speed that enters the unit is clamped to 12000 mm/s (R5). -/
def clampSpeed (v : Nat) : Nat := min v 12000

/-- term1 = ⌈v·tr / 1000⌉ (R6). -/
def reactionTerm (reaction v : Nat) : Nat := ceilDiv (v * reaction) 1000

/-- term2 = ⌈v² / (2·alrn)⌉ (R6). -/
def brakingTerm (alrn v : Nat) : Nat := ceilDiv (v * v) (2 * alrn)

/-- The margin at a clamped speed, saturated at 2047 mm (R6). -/
def marginOf (f : ArmFigures) (alrn v : Nat) : Nat :=
  min 2047 (reactionTerm f.reaction v + brakingTerm alrn v + f.pad)

/-- The half-width h = r + margin (R7). -/
def halfWidth (f : ArmFigures) (alrn v : Nat) : Nat := f.radius + marginOf f alrn v

/-- The box of half-width h around a position (R8). -/
def envelopeBox (pos : Pos) (h : Nat) : Box where
  xlo := pos.x.toInt - h
  xhi := pos.x.toInt + h
  ylo := pos.y.toInt - h
  yhi := pos.y.toInt + h
  zlo := pos.z.toInt - h
  zhi := pos.z.toInt + h

/-- The requested box widened by h on every side (R9). -/
def zoneBox (lo hi : Pos) (h : Nat) : Box where
  xlo := lo.x.toInt - h
  xhi := hi.x.toInt + h
  ylo := lo.y.toInt - h
  yhi := hi.y.toInt + h
  zlo := lo.z.toInt - h
  zhi := hi.z.toInt + h

/-- The clamped index range of one axis, or none when the range misses the axis (R10, R11). -/
def axisCells (bmin bmax origin : Int) (edge n : Nat) : Option (Nat × Nat) :=
  let lo := (bmin - origin) / (edge : Int)
  let hi := (bmax - origin) / (edge : Int)
  if hi < 0 ∨ (n : Int) ≤ lo then none
  else some ((max lo 0).toNat, (min hi ((n : Int) - 1)).toNat)

/-- The cell box of a box of space, or none for outside (R10, R11). -/
def cellBoxOf (f : Setup) (b : Box) : Option CellBox :=
  match axisCells b.xlo b.xhi f.ox f.edge f.nx, axisCells b.ylo b.yhi f.oy f.edge f.ny,
    axisCells b.zlo b.zhi f.oz f.edge f.nz with
  | some (xlo, xhi), some (ylo, yhi), some (zlo, zhi) => some ⟨xlo, xhi, ylo, yhi, zlo, zhi⟩
  | _, _, _ => none

/-- The cell count of a cell box (R11). -/
def CellBox.size (b : CellBox) : Nat :=
  (b.xhi - b.xlo + 1) * (b.yhi - b.ylo + 1) * (b.zhi - b.zlo + 1)

/-- The cell count of a cell box or of outside (R11). -/
def cellCount : Option CellBox → Nat
  | some b => b.size
  | none => 0

/-- Cell (i, j, k) lies in the cell box (R12). -/
def CellBox.containsIndex (b : CellBox) (i j k : Nat) : Bool :=
  decide (b.xlo ≤ i ∧ i ≤ b.xhi) && decide (b.ylo ≤ j ∧ j ≤ b.yhi) && decide (b.zlo ≤ k ∧ k ≤ b.zhi)

/-- Two cell boxes share a cell (R12). -/
def CellBox.shares (b c : CellBox) : Bool :=
  decide (max b.xlo c.xlo ≤ min b.xhi c.xhi) && decide (max b.ylo c.ylo ≤ min b.yhi c.yhi) &&
    decide (max b.zlo c.zlo ≤ min b.zhi c.zhi)

/-- A cell box and a report's cell box or outside share a cell; outside shares none (R12). -/
def CellBox.touchedBy (b : CellBox) : Option CellBox → Bool
  | some c => b.shares c
  | none => false

/-- The cell box of the shared cells (R51); a box of cells when the two share a cell. -/
def CellBox.meet (b c : CellBox) : CellBox where
  xlo := max b.xlo c.xlo
  xhi := min b.xhi c.xhi
  ylo := max b.ylo c.ylo
  yhi := min b.yhi c.yhi
  zlo := max b.zlo c.zlo
  zhi := min b.zhi c.zhi

/-- The cell number of cell (i, j, k) (R1). -/
def cellNumber (nx ny i j k : Nat) : Nat := i + nx * j + nx * ny * k

/-- lo, lo + 1, …, hi. -/
def indexRange (lo hi : Nat) : List Nat := List.range' lo (hi + 1 - lo)

/-- The cell numbers of a cell box, in cell-number order (R1). -/
def CellBox.cells (nx ny : Nat) (b : CellBox) : List Nat :=
  (indexRange b.zlo b.zhi).flatMap fun k =>
    (indexRange b.ylo b.yhi).flatMap fun j =>
      (indexRange b.xlo b.xhi).map fun i => cellNumber nx ny i j k

/-- The cell with number c lies in the cell box (R1, R12). -/
def CellBox.containsCell (nx ny : Nat) (b : CellBox) (c : Nat) : Bool :=
  b.containsIndex (c % nx) (c / nx % ny) (c / (nx * ny))

/-- The bits of a root tried from 2^(n-1) down: the largest r' at or above `r` reached with r'² ≤ s. -/
def rootBits (s : Nat) : Nat → Nat → Nat
  | 0, r => r
  | n + 1, r => rootBits s n (if (r + 2 ^ n) * (r + 2 ^ n) ≤ s then r + 2 ^ n else r)

/-- The smallest integer d with d² ≥ s, for s below 2^36 (R13; the sums of R13 are below 2^34). -/
def ceilRoot (s : Nat) : Nat :=
  let r := rootBits s 18 0
  if s ≤ r * r then r else r + 1

/-- The integer distance of two positions (R13). -/
def distance (a b : Pos) : Nat :=
  let dx := b.x.toInt - a.x.toInt
  let dy := b.y.toInt - a.y.toInt
  let dz := b.z.toInt - a.z.toInt
  ceilRoot (dx * dx + dy * dy + dz * dz).toNat

/-- Δt of two arrival times, at least 100 µs (R14). -/
def elapsed (t0 t1 : Word) : Nat := max 100 (t1 - t0).toNat

/-- vcomp of two frames (R14). -/
def computedSpeed (pos0 pos1 : Pos) (t0 t1 : Word) : Nat :=
  clampSpeed (ceilDiv (distance pos0 pos1 * 1000000) (elapsed t0 t1))

/-- The three cases of R15 with the inputs each takes besides the reported speed. -/
inductive SpeedCase where
  | continuing (pos0 pos1 : Pos) (t0 t1 : Word)
  | carried (previous : Nat)
  | first
deriving DecidableEq, Repr

/-- The speed used (R15). -/
def speedUsed (reported : Nat) : SpeedCase → Nat
  | .continuing pos0 pos1 t0 t1 => max (clampSpeed reported) (computedSpeed pos0 pos1 t0 t1)
  | .carried previous => max (clampSpeed reported) previous
  | .first => clampSpeed reported

/-- The gap of two ranges on one axis (R16). -/
def axisGap (aLo aHi bLo bHi : Int) : Nat := (max 0 (max (bLo - aHi) (aLo - bHi))).toNat

/-- The clearance of two envelope boxes (R16). -/
def clearance (a b : Box) : Nat :=
  min 65535 (max (axisGap a.xlo a.xhi b.xlo b.xhi)
    (max (axisGap a.ylo a.yhi b.ylo b.yhi) (axisGap a.zlo a.zhi b.zlo b.zhi)))

end Sys2Proof.Machine
end

