-- ==== Sys2Proof/Machine/Flags.lean ====
section
/-! DEFINITION. The cause flags and the interrupt (R180, R181). -/

namespace Sys2Proof.Machine

/-- The cause flags (R180). -/
inductive Cause where
  | verdict
  | armA
  | armB
  | breach
  | park
  | close
  | test
  | link
  | chain
  | setup
  | fault
deriving DecidableEq, Repr

/-- The bit position of a cause (R180). -/
def Cause.bit : Cause → Nat
  | .verdict => 0
  | .armA => 1
  | .armB => 2
  | .breach => 3
  | .park => 4
  | .close => 5
  | .test => 6
  | .link => 7
  | .chain => 8
  | .setup => 9
  | .fault => 10

/-- The bits the table of R180 names; the others of CAUSE and CAUSE_MASK read 0 and ignore writes (R177). -/
def causeBits : Word := 0x7FF

/-- Cause ARM_A or ARM_B. -/
def armCause : Arm → Cause
  | .a => .armA
  | .b => .armB

/-- A cause flag is set; setting one that is set changes nothing (R180). -/
def Part.setCause (p : Part) (c : Cause) : Part := { p with cause := p.cause ||| BitVec.twoPow 32 c.bit }

/-- Whether a cause flag is set. -/
def Part.causeSet (p : Part) (c : Cause) : Bool := p.cause.getLsbD c.bit

/-- The interrupt condition (R181). -/
def Part.interruptCondition (p : Part) : Bool := p.cause &&& p.causeMask != 0

/-- The level of the legacy interrupt (R181). -/
def Part.legacyInterrupt (p : Part) : Bool := !p.msgEnable && p.interruptCondition

/-- A message is sent when the condition has gone from false (in `before`) to true with messages enabled
(R181). -/
def Part.sendMessage (before p : Part) : Part :=
  if p.msgEnable && p.interruptCondition && !before.interruptCondition then
    { p with messages := p.messages + 1 }
  else p

end Sys2Proof.Machine
end

