-- ==== Sys2Proof/Machine/Operands.lean ====
section
/-! DEFINITION. The records of R183: the setup block, the slot and the position frame as the part reads them,
the outbound frames, the slot's result figures and the status block as it writes them. -/

namespace Sys2Proof.Machine

/-! ## Reading fields -/

/-- The byte at an offset of a record. -/
def byteAt {w : Nat} (data : BitVec w) (offset : Nat) : Byte := data.extractLsb' (8 * offset) 8

/-- The little-endian 16-bit field at an offset of a record. -/
def halfAt {w : Nat} (data : BitVec w) (offset : Nat) : Half := data.extractLsb' (8 * offset) 16

/-- Three signed 16-bit coordinates at an offset of a record. -/
def posAt {w : Nat} (data : BitVec w) (offset : Nat) : Pos :=
  ⟨halfAt data offset, halfAt data (offset + 2), halfAt data (offset + 4)⟩

/-! ## The setup block (R170, R183) -/

/-- The four figures of one arm from their offset. -/
def readArmFigures (data : BitVec 1024) (offset : Nat) : ArmFigures where
  radius := (halfAt data offset).toNat
  reaction := (halfAt data (offset + 2)).toNat
  acfg := (halfAt data (offset + 4)).toNat
  pad := (byteAt data (offset + 6)).toNat

/-- The figures of a setup block, field 1 apart. -/
def readSetup (data : BitVec 1024) : Setup where
  ox := (halfAt data 0x02).toInt
  oy := (halfAt data 0x04).toInt
  oz := (halfAt data 0x06).toInt
  edge := (halfAt data 0x08).toNat
  nx := (byteAt data 0x0A).toNat
  ny := (byteAt data 0x0B).toNat
  nz := (byteAt data 0x0C).toNat
  linkRate := (byteAt data 0x0D).toNat
  entryA := (byteAt data 0x0E).toNat
  entryB := (byteAt data 0x0F).toNat
  capGap := (halfAt data 0x10).toNat
  uncapGap := (halfAt data 0x12).toNat
  creep := (halfAt data 0x14).toNat
  staleLimit := (halfAt data 0x16).toNat
  lossLimit := (halfAt data 0x18).toNat
  holdAckWindow := (halfAt data 0x1A).toNat
  holdRepeat := (halfAt data 0x1C).toNat
  admitCount := (byteAt data 0x1E).toNat
  leaveCount := (byteAt data 0x1F).toNat
  admitWindow := (halfAt data 0x20).toNat
  parkLimit := (byteAt data 0x22).toNat
  testWindow := (halfAt data 0x24).toNat
  testMinSpeed := (halfAt data 0x26).toNat
  stillSpeed := (halfAt data 0x28).toNat
  publishInterval := (halfAt data 0x2A).toNat
  pollInterval := (halfAt data 0x2C).toNat
  armA := readArmFigures data 0x30
  armB := readArmFigures data 0x38

/-- lo ≤ v ≤ hi. -/
def inRange (lo hi v : Nat) : Bool := decide (lo ≤ v) && decide (v ≤ hi)

/-- The checks of one arm's figures, the first of them numbered `field` (R170). -/
def armChecks (field : Nat) (f : ArmFigures) : List (Nat × Bool) :=
  [(field, inRange 0 1000 f.radius), (field + 1, inRange 1 100 f.reaction),
   (field + 2, inRange 500 60000 f.acfg), (field + 3, inRange 0 255 f.pad)]

/-- The checks of the figures of fields 2 to 34, in field order (R170). -/
def Setup.checks (f : Setup) : List (Nat × Bool) :=
  [(2, decide (-32768 ≤ f.ox ∧ f.ox ≤ 32767 ∧ -32768 ≤ f.oy ∧ f.oy ≤ 32767 ∧ -32768 ≤ f.oz ∧ f.oz ≤ 32767)),
   (3, inRange 10 250 f.edge),
   (4, inRange 1 32 f.nx),
   (5, inRange 1 32 f.ny),
   (6, inRange 1 16 f.nz),
   (7, decide (f.nx * f.ny * f.nz ≤ 2048)),
   (8, inRange 0 2000 f.capGap),
   (9, decide (f.capGap < f.uncapGap) && decide (f.uncapGap ≤ 4000)),
   (10, inRange 10 1000 f.creep),
   (11, inRange 2 50 f.staleLimit),
   (12, decide (f.staleLimit < f.lossLimit) && decide (f.lossLimit ≤ 1000)),
   (13, inRange 5 500 f.holdAckWindow),
   (14, inRange 5 100 f.holdRepeat),
   (15, inRange 2 16 f.admitCount),
   (16, inRange 50 10000 f.admitWindow),
   (17, inRange 1 16 f.leaveCount),
   (18, inRange 0 255 f.parkLimit),
   (19, inRange 50 2000 f.testWindow),
   (20, inRange 100 12000 f.testMinSpeed),
   (21, inRange 0 100 f.stillSpeed),
   (22, inRange 1 100 f.publishInterval),
   (23, inRange 0 1000 f.pollInterval),
   (24, inRange 0 3 f.linkRate),
   (25, inRange 0 127 f.entryA),
   (26, inRange 0 127 f.entryB && decide (f.entryB ≠ f.entryA))] ++ armChecks 27 f.armA ++ armChecks 31 f.armB

/-- Every figure of fields 2 to 34 is accepted. -/
def Setup.valid (f : Setup) : Bool := f.checks.all fun c => c.2

/-- The number of the first field of a list of checks that fails. -/
def firstFailing (checks : List (Nat × Bool)) : Option Nat :=
  (checks.find? fun c => !c.2).map fun c => c.1

/-- The field that refuses a setup block, or none (R170). -/
def setupRefusal (data : BitVec 1024) : Option Nat :=
  firstFailing ((1, halfAt data 0 == 0x5A31) :: (readSetup data).checks)

/-! ## The slot (R183) -/

/-- The fields of a slot the part reads (R158). -/
structure SlotFields where
  stage : Byte
  kind : Byte
  arm : Byte
  tag : Half
  boxMin : Pos
  boxMax : Pos
  planned : Half
  wait : Half
  mode : Byte
deriving DecidableEq, Repr

/-- The fields of a slot record. -/
def readSlot (data : BitVec 512) : SlotFields where
  stage := byteAt data 0x00
  kind := byteAt data 0x01
  arm := byteAt data 0x02
  tag := halfAt data 0x04
  boxMin := posAt data 0x08
  boxMax := posAt data 0x0E
  planned := halfAt data 0x14
  wait := halfAt data 0x16
  mode := byteAt data 0x18

/-- The stage POSTED (R140). -/
def postedStage : Byte := 1

/-- The code of an arm (R183). -/
def armCode : Arm → Nat
  | .a => 0
  | .b => 1

/-- The stage codes the part writes (R140). -/
def Stage.code : Stage → Nat
  | .taken => 2
  | .waiting => 3
  | .done => 4

/-- The claim mode of a mode field, if it is 0 or 1 (R42). -/
def claimMode (mode : Byte) : Option ClaimMode :=
  if mode = 0 then some .explicit else if mode = 1 then some .onLeave else none

/-! ## Codes (R160, R179, R183) -/

def Verdict.code : Verdict → Nat
  | .granted => 1
  | .outside => 2
  | .blocked => 3
  | .expired => 4
  | .crossed => 5
  | .withdrawn => 6
  | .notAdmitted => 7
  | .badBox => 8
  | .badField => 9
  | .badKind => 10
  | .wrongArm => 11
  | .duplicateTag => 12
  | .noClaim => 13
  | .released => 14
  | .leaving => 15
  | .unknownTag => 16
  | .admitted => 17
  | .admitFailed => 18
  | .notAllowed => 19
  | .busy => 20
  | .parkReleased => 21
  | .testPassed => 22
  | .testDeficient => 23
  | .testOverrun => 24
  | .testAborted => 25
  | .tooSlow => 26
  | .acknowledged => 27
  | .stillBreaching => 28
  | .notBreached => 29
  | .cleared => 30

def EngineState.code : EngineState → Nat
  | .idle => 0
  | .loading => 1
  | .serving => 2
  | .closing => 3
  | .faulted => 4

def GuardState.code : GuardState → Nat
  | .offline => 0
  | .admitting => 1
  | .running => 2
  | .held => 3
  | .stopped => 4

def SetupOutcome.code : SetupOutcome → Nat
  | .none => 0
  | .accepted => 1
  | .refused => 2
  | .abandoned => 3

def FaultKind.code : FaultKind → Nat
  | .none => 0
  | .readError => 1
  | .readTimeout => 2
  | .writeError => 3

def HoldPhase.code : HoldPhase → Nat
  | .none => 0
  | .awaiting => 1
  | .acknowledged => 2

def StopCause.code : StopCause → Nat
  | .none => 0
  | .holdAck => 1
  | .disobeyed => 2
  | .loss => 3
  | .driveFault => 4
  | .estop => 5
  | .cellStop => 6
  | .testDeficient => 7
  | .testOverrun => 8
  | .servingEnded => 9

def AdmissionFailure.code : AdmissionFailure → Nat
  | .window => 10
  | .escalation c => c.code

def ClaimState.code : ClaimState → Nat
  | .free => 0
  | .granted => 1
  | .leaving => 2

def ClaimMode.code : ClaimMode → Nat
  | .explicit => 0
  | .onLeave => 1

/-- 1 for a set flag, 0 for a clear one. -/
def flagCode (b : Bool) : Nat := if b then 1 else 0

/-- The hold-reason set, one bit per reason (R183). -/
def Reasons.code (r : Reasons) : Nat :=
  flagCode r.host + 2 * flagCode r.breach + 4 * flagCode r.stale + 8 * flagCode r.park + 16 * flagCode r.test

/-- The drive state of a state code; a code above 3 is handed as FAULT (R69, R183). -/
def driveState (code : Byte) : DriveState :=
  if code = 0 then .moving else if code = 1 then .holding else if code = 2 then .standstill else .fault

/-! ## The result figures of a slot, 29h..3Fh (R61, R119, R164, R183) -/

/-- The figures a result or a waiting notice carries. `none` is a verdict without figures. -/
inductive ResultFigures where
  | none
  | reserve (claim : Option Nat) (waited : Bool) (zone : Option CellBox) (count conflicts : Nat)
      (first : Option Nat) (since : Word)
  | release (claim : Option Nat) (box : Option CellBox) (count freed : Nat) (outside : Option Nat)
      (slot : Nat) (granted : Word)
  | readmit (state : GuardState) (reasons : Reasons) (park : Nat) (prior : GuardState) (failure : Nat)
      (count : Nat) (cellstop : Bool)
  | park (letGo madeNone after : Nat)
  | test (r : TestResult)
  | testStarted (v0 : Nat) (t0 : Word)
  | testBusy (state : GuardState)
  | testTooSlow (speed minimum : Nat)
  | holdReasons (r : Reasons)
  | watermarks (minClearance maxSpeed maxMargin : Nat)
deriving DecidableEq, Repr

/-- The six bytes of a cell box, zeros for none (R183). -/
def cellBoxBytes : Option CellBox → List Byte
  | some b => byte1 b.xlo ++ byte1 b.xhi ++ byte1 b.ylo ++ byte1 b.yhi ++ byte1 b.zlo ++ byte1 b.zhi
  | none => List.replicate 6 0

/-- A byte field whose empty value is FFh (R183). -/
def byteOrFF : Option Nat → List Byte
  | some n => byte1 n
  | none => [0xFF]

/-- A 16-bit field whose empty value is FFFFh (R183). -/
def halfOrFFFF : Option Nat → List Byte
  | some n => le16 n
  | none => [0xFF, 0xFF]

/-- The figures in the order of their offsets from 29h, before the zeros that fill them up. -/
def ResultFigures.fields : ResultFigures → List Byte
  | .none => []
  | .reserve claim waited zone count conflicts first since =>
    byteOrFF claim ++ byte1 (flagCode waited) ++ cellBoxBytes zone ++ le16 count ++ le16 conflicts ++
      halfOrFFFF first ++ le32 since.toNat
  | .release claim box count freed outside slot granted =>
    byteOrFF claim ++ byte1 0 ++ cellBoxBytes box ++ le16 count ++ le16 freed ++ byteOrFF outside ++
      byte1 slot ++ le32 granted.toNat
  | .readmit state set parkCount prior failure count cellstop =>
    byte1 state.code ++ byte1 set.code ++ le16 parkCount ++ byte1 prior.code ++ byte1 failure ++ byte1 count ++
      byte1 (flagCode cellstop)
  | .park letGo madeNone after => le16 letGo ++ le16 madeNone ++ le16 after
  | .test r =>
    le16 r.v0 ++ le32 r.distance ++ le32 r.elapsed.toNat ++ le16 r.reaction ++ le32s r.braking ++
      le32 r.measured ++ le16 r.alrn ++ byte1 r.stopCause.code
  | .testStarted v0 t0 => le16 v0 ++ le32 t0.toNat
  | .testBusy state => byte1 state.code
  | .testTooSlow speed minimum => le16 speed ++ le16 minimum
  | .holdReasons r => byte1 r.code
  | .watermarks minClearance maxSpeed maxMargin => le16 minClearance ++ le16 maxSpeed ++ le16 maxMargin

/-- The 23 figure bytes (R183). -/
def ResultFigures.bytes (f : ResultFigures) : List Byte := padTo 23 f.fields

/-! ## The arm status block (R155, R183) -/

/-- One claim entry of the status block, 16 bytes. -/
def claimEntry (number : Nat) (c : Claim) : List Byte :=
  byte1 number ++ byte1 c.state.code ++ byte1 c.mode.code ++ byte1 (flagCode c.entered) ++ le16 c.tag.toNat ++
    cellBoxBytes (some c.box) ++ le16 c.count ++ [0, 0]

/-- The claims in force with their numbers, in claim-number order (R25). -/
def claimList (claims : List Claim) : List (Nat × Claim) :=
  ((List.range claims.length).zip claims).filter fun c => c.2.state != .free

/-- The last test result, 24 bytes, zeros when empty (R183). -/
def testResultBytes : Option TestResult → List Byte
  | some r =>
    byte1 r.verdict.code ++ byte1 r.stopCause.code ++ le16 r.v0 ++ le32 r.distance ++ le32 r.elapsed.toNat ++
      le16 r.reaction ++ le32s r.braking ++ le32 r.measured ++ le16 r.alrn
  | none => List.replicate 24 0

/-- The envelope as the status block shows it: a zero cell box when unknown or outside (R183). -/
def Monitor.shownCells (m : Monitor) : Option CellBox :=
  if m.known then m.envelope.bind fun e => e.cells else none

/-- The mark outside (R62, R183). DESIGN CHOICE (log 29): once the envelope is unknown after a loss the mark stays that
of the last envelope (R84's last figures), though the cell box then reads zeros; R183 and R74 leave it open. -/
def Monitor.outsideMark (m : Monitor) : Bool :=
  match m.envelope with
  | some e => e.cells.isNone
  | none => false

/-- The 256 bytes of an arm's status block (R155, R183), its edition being `edition`. -/
def statusBytes (r : ArmPart) (edition : Half) : List Byte :=
  let m := r.monitor
  let g := r.guard
  let claims := claimList r.claims
  le16 edition.toNat ++
  byte1 g.state.code ++ byte1 g.reasons.code ++ byte1 g.phase.code ++ byte1 g.stopCause.code ++
  byte1 (flagCode m.capped) ++ byte1 (flagCode m.known) ++
  byteOrFF r.chain.cursor ++ byteOrFF r.chain.openSlot ++ [m.seq] ++ byte1 (flagCode m.outsideMark) ++
  le16 m.pos.x.toNat ++ le16 m.pos.y.toNat ++ le16 m.pos.z.toNat ++
  le16 m.speed ++ le32 m.time.toNat ++ le16 m.margin ++ cellBoxBytes m.shownCells ++
  le16 r.test.alrn ++ le16 r.parkCount ++ byte1 claims.length ++ [0, 0, 0] ++
  padTo 128 (claims.flatMap fun c => claimEntry c.1 c.2) ++
  le16 m.minClearance ++ le16 m.maxSpeed ++ le16 m.maxMargin ++ [0, 0] ++
  testResultBytes r.test.last ++ List.replicate 54 0 ++ le16 edition.toNat

/-! ## Link frames (R129, R134, R183) -/

/-- One bit step of the division by x⁸ + x² + x + 1. -/
def crcBit (r : Byte) : Byte := if r.msb then (r <<< 1) ^^^ 0x07 else r <<< 1

/-- One byte enters the division, most significant bit first (R129). -/
def crcByte (r b : Byte) : Byte :=
  crcBit (crcBit (crcBit (crcBit (crcBit (crcBit (crcBit (crcBit (r ^^^ b))))))))

/-- The remainder over a list of bytes, starting from 0 (R129). -/
def crc8 (bytes : List Byte) : Byte := bytes.foldl crcByte 0

/-- The start byte of a frame (R125, R134). -/
def startByte : Byte := 0xA5

/-- The ESTOP byte (R125). -/
def estopByte : Byte := 0xE7

/-- The kind byte of a position frame (R127). -/
def positionKind : Byte := 0x31

/-- A 16-bit field of a received frame, low byte at index n. -/
def frameHalf (bytes : List Byte) (n : Nat) : Half := bytes.getD (n + 1) 0 ++ bytes.getD n 0

/-- The FIFO entry of a complete position frame (R123, R183). -/
def readFrame (bytes : List Byte) (time : Word) : Frame where
  seq := bytes.getD 2 0
  drive := bytes.getD 3 0
  pos := ⟨frameHalf bytes 4, frameHalf bytes 6, frameHalf bytes 8⟩
  speed := frameHalf bytes 10
  time := time

/-- The CRC of a complete 13-byte frame is correct (R129). -/
def frameCrcOk (bytes : List Byte) : Bool := crc8 ((bytes.drop 1).take 11) == bytes.getD 12 0

/-- Kind and argument of an outbound frame (R134). -/
def OutFrame.kindArgument : OutFrame → Byte × Half
  | .stop .hold => (0x61, 0)
  | .stop .resume => (0x62, 0)
  | .speed (.cap v) => (0x63, v)
  | .speed .uncap => (0x64, 0)

/-- The five bytes of an outbound frame (R134). -/
def OutFrame.bytes (f : OutFrame) : List Byte :=
  let body := f.kindArgument.1 :: le16 f.kindArgument.2.toNat
  startByte :: body ++ [crc8 body]

end Sys2Proof.Machine
end

