-- ==== Sys2Proof/Machine/Links.lean ====
section
/-! DEFINITION. The drive link's transmit side and its resets (R132 to R138); the receiver stands in LinkCommands. -/

namespace Sys2Proof.Machine

/-- When the transmitter is free and a place holds a frame, it takes the stop-control place first (R133).
A QUIET link sends nothing (R122). -/
def Link.transmit (l : Link) : Link :=
  if l.state = .active ∧ l.onLine = none then
    match l.stopPlace, l.speedPlace with
    | some f, _ => { l with stopPlace := none, onLine := some (.stop f) }
    | none, some f => { l with speedPlace := none, onLine := some (.speed f) }
    | none, none => l
  else l

/-- HOLD or RESUME is queued, replacing what the place held (R132). -/
def Link.queueStop (l : Link) (f : StopFrame) : Link := Link.transmit { l with stopPlace := some f }

/-- CAP or UNCAP is queued, replacing what the place held (R132). -/
def Link.queueSpeed (l : Link) (f : SpeedFrame) : Link := Link.transmit { l with speedPlace := some f }

/-- The arm is taken out of service: a waiting RESUME and a waiting UNCAP are dropped and the hold-repeat
timer stops (R135). -/
def Link.dropLoosening (l : Link) : Link :=
  { l with
    stopPlace := if l.stopPlace = some .resume then none else l.stopPlace
    speedPlace := if l.speedPlace = some .uncap then none else l.speedPlace
    repeatTimer := none }

/-- The partial frame is discarded and the receiver returns to HUNT (R127, R128). -/
def Link.dropPartial (l : Link) : Link := { l with phase := .hunt, received := [], gapTimer := none }

/-- The link becomes QUIET: all is cleared but a frame on the line, which is sent to its end (R138). -/
def Link.becomeQuiet (l : Link) : Link := { resetLink .quiet with onLine := l.onLine }

end Sys2Proof.Machine
end

