-- ==== Sys2Proof/Machine/Results.lean ====
section
/-! DEFINITION. What the blocks hand the exchange engine: waiting notices and final results (R147, R148). -/

namespace Sys2Proof.Machine

/-- A waiting notice: the figures, then the stage WAITING, are queued while SERVING (R147). -/
def Part.waitingNotice (p : Part) (x : Arm) (slot : Nat) (f : ResultFigures) : Part :=
  if p.engine = .serving then
    (((p.queueOp (.figureWrite x slot 0x29 f.bytes)).queueOp (.stageWrite x slot .waiting)).markDue x)
  else p

/-- The bytes of a final write, 24h..3Fh: final time, verdict, figures (R148, R183). -/
def finalBytes (time : Word) (v : Verdict) (f : ResultFigures) : List Byte :=
  le32 time.toNat ++ byte1 v.code ++ f.bytes

/-- A final result. While the engine is SERVING and the slot is open its figures and then the stage DONE are
queued (R148). The withdrawals of CLOSING are handed within the step that enters it, before the engine's
state changes; a result handed later in CLOSING, or while FAULTED, is not written (R142, R152, R153). -/
def Part.handResult (p : Part) (x : Arm) (slot : Nat) (v : Verdict) (f : ResultFigures) : Part :=
  if p.engine = .serving ∧ (p.arm x).chain.openSlot = some slot then
    ((p.updChain x fun c => { c with answered := true }).queueOp
      (.figureWrite x slot 0x24 (finalBytes p.now v f))).queueOp (.stageWrite x slot .done)
  else p

end Sys2Proof.Machine
end

