-- ==== Sys2Proof/Machine/Guards.lean ====
section
/-! DEFINITION. The arm guard's shared operations: hold reasons, hold and resume, escalation, the end of an
admission (R86 to R104), with the stop test's abort that an escalation brings (R116). -/

namespace Sys2Proof.Machine

/-- A change of the guard state or of the hold-reason set: cause ARM_x, status block due (R90). -/
def Part.guardChanged (p : Part) (x : Arm) : Part := (p.setCause (armCause x)).markDue x

/-! ## The hold-reason set -/

def Reasons.has (r : Reasons) : HoldReason → Bool
  | .host => r.host
  | .breach => r.breach
  | .stale => r.stale
  | .park => r.park
  | .test => r.test

def Reasons.put (r : Reasons) (v : Bool) : HoldReason → Reasons
  | .host => { r with host := v }
  | .breach => { r with breach := v }
  | .stale => { r with stale := v }
  | .park => { r with park := v }
  | .test => { r with test := v }

/-- The set is empty. -/
def Reasons.empty (r : Reasons) : Bool := r == noReasons

/-! ## Hold and resume (R92, R93) -/

/-- The guard enters HELD: HOLD queued, phase AWAITING, hold-ack timer and hold-repeat timer started
(R92, R94). -/
def Part.enterHeld (p : Part) (x : Arm) : Part :=
  (p.updGuard x fun g =>
    { g with state := .held, phase := .awaiting, ackTimer := p.afterMs p.figures.holdAckWindow }).updLink x
    fun l => { l.queueStop .hold with repeatTimer := p.afterMs p.figures.holdRepeat }

/-- The guard enters RUNNING from HELD: RESUME queued, both timers stopped, phase NONE (R93). -/
def Part.enterRunning (p : Part) (x : Arm) : Part :=
  (p.updGuard x fun g => { g with state := .running, phase := .none, ackTimer := none }).updLink x
    fun l => { l.queueStop .resume with repeatTimer := none }

/-- A hold reason is added; one that is present changes nothing (R90). Only RUNNING moves on it (R92). -/
def Part.addReason (p : Part) (x : Arm) (r : HoldReason) : Part :=
  let g := (p.arm x).guard
  if g.reasons.has r then p
  else
    let p := (p.updGuard x fun g => { g with reasons := g.reasons.put true r }).guardChanged x
    if g.state = .running then p.enterHeld x else p

/-- A hold reason is removed; one that is absent changes nothing (R90). HELD moves when the set empties
(R93). -/
def Part.removeReason (p : Part) (x : Arm) (r : HoldReason) : Part :=
  let g := (p.arm x).guard
  if g.reasons.has r then
    let p := (p.updGuard x fun g => { g with reasons := g.reasons.put false r }).guardChanged x
    if g.state = .held ∧ (g.reasons.put false r).empty then p.enterRunning x else p
  else p

/-- A hold reason is removed from the set alone, in a step that moves the guard otherwise (R90 "the guard
then acts on the set as that step leaves it"; log 13). -/
def Part.clearReason (p : Part) (x : Arm) (r : HoldReason) : Part :=
  if (p.arm x).guard.reasons.has r then
    (p.updGuard x fun g => { g with reasons := g.reasons.put false r }).guardChanged x
  else p

/-! ## The stop test unit's endings that a guard brings -/

/-- The unit returns to IDLE; alrn, the last result and the figures seen stay (R108). -/
def TestUnit.toIdle (u : TestUnit) : TestUnit :=
  { u with phase := .idle, slot := none, p0 := originPos, t0 := 0, v0 := 0, slow := 0, timer := none }

/-- A result without measured figures: overrun, abort or withdrawal (R119). -/
def unmeasured (v : Verdict) (cause : StopCause) (v0 alrn : Nat) : TestResult where
  verdict := v
  stopCause := cause
  v0 := v0
  distance := 0
  elapsed := 0
  reaction := 0
  braking := 0
  measured := 0
  alrn := alrn

/-- A test ends with a result that the unit records: IDLE, cause TEST, status block due, and the verdict to
the engine (R114 to R116). -/
def Part.recordTest (p : Part) (x : Arm) (r : TestResult) : Part :=
  let slot := (p.arm x).test.slot
  let p := ((p.updTest x fun u => { u.toIdle with alrn := r.alrn, last := some r }).setCause .test).markDue x
  match slot with
  | some s => p.handResult x s r.verdict (.test r)
  | none => p

/-- The guard has entered STOPPED for another cause while a test runs: TEST_ABORTED, and TEST leaves the set of
the STOPPED arm (R116). -/
def Part.abortTest (p : Part) (x : Arm) (cause : StopCause) : Part :=
  let u := (p.arm x).test
  if u.phase = .braking then
    (p.recordTest x (unmeasured .testAborted cause u.v0 u.alrn)).clearReason x .test
  else p

/-! ## Leaving service (R98, R82, R135) -/

/-- The monitor clears the capped flag without queuing anything (R82). -/
def Part.clearCapped (p : Part) (x : Arm) : Part :=
  if (p.arm x).monitor.capped then (p.updMonitor x fun m => { m with capped := false }).markDue x else p

/-- The guard enters STOPPED from RUNNING or HELD (R98). -/
def Part.enterStopped (p : Part) (x : Arm) (cause : StopCause) : Part :=
  ((((p.updGuard x fun g =>
    { g with state := .stopped, stopCause := cause, phase := .none, ackTimer := none }).updLink x
      Link.dropLoosening).clearCapped x).guardChanged x).abortTest x cause

/-- The guard leaves ADMITTING for the prior state without success (R104). A return to STOPPED takes the
stop cause of the escalation, if there was one. -/
def Part.leaveAdmission (p : Part) (x : Arm) (escalation : Option StopCause) : Part :=
  (((p.updGuard x fun g =>
    let prior := g.prior.getD .offline
    { g with
      state := prior
      prior := none
      admissionSlot := none
      count := 0
      windowTimer := none
      unpaired := []
      stopCause := if prior = .stopped then escalation.getD g.stopCause else g.stopCause }).updLink x
        Link.dropLoosening).clearCapped x).guardChanged x

/-- The figures of ADMIT_FAILED: failure cause, prior state and the count reached (R104). -/
def Guard.admitFailedFigures (g : Guard) (failure : AdmissionFailure) : ResultFigures :=
  .readmit .offline noReasons 0 (g.prior.getD .offline) failure.code g.count false

/-- The admission fails with verdict ADMIT_FAILED (R104). -/
def Part.failAdmission (p : Part) (x : Arm) (failure : AdmissionFailure) : Part :=
  let g := (p.arm x).guard
  let escalation := match failure with
    | .window => none
    | .escalation c => some c
  let p := p.leaveAdmission x escalation
  match g.admissionSlot with
  | some s => p.handResult x s .admitFailed (g.admitFailedFigures failure)
  | none => p

/-- An escalation taken by x's guard (R98, R99). -/
def Part.escalate (p : Part) (x : Arm) (cause : StopCause) : Part :=
  match (p.arm x).guard.state with
  | .running => p.enterStopped x cause
  | .held => p.enterStopped x cause
  | .admitting => p.failAdmission x (.escalation cause)
  | .offline => p
  | .stopped => p

end Sys2Proof.Machine
end

