-- ==== Sys2Proof/Machine/CellTables.lean ====
section
/-! DEFINITION. The cell table and the claims (R19 to R41), and the re-evaluation of pending RESERVEs that every
freeing of cells brings (R45, R54). -/

namespace Sys2Proof.Machine

/-! ## Entries (R19) -/

/-- The entry of a cell; a cell that is not listed is free. -/
def CellTable.entry (t : CellTable) (c : Nat) : CellEntry := (sparseFind c t.cells).getD freeEntry

/-- The table with entry `e` for cell `c`; a free entry is not listed. -/
def CellTable.setEntry (t : CellTable) (c : Nat) (e : CellEntry) : CellTable :=
  { t with cells := if e = freeEntry then sparseErase c t.cells else sparseInsert c e t.cells }

/-- Owner of a cell. -/
def CellTable.owner (t : CellTable) (c : Nat) : Option Arm := (t.entry c).owner

/-- Claim number `n` of arm `x` joins the holder set; an empty set takes owner `x` (R19). -/
def CellTable.addHolder (t : CellTable) (x : Arm) (n c : Nat) : CellTable :=
  let e := t.entry c
  t.setEntry c ⟨if e.holders = [] then some x else e.owner, holderInsert n e.holders⟩

/-- Claim number `n` leaves the holder set; removing the last number makes the cell NONE (R19). -/
def CellTable.removeHolder (t : CellTable) (n c : Nat) : CellTable :=
  let e := t.entry c
  let rest := holderErase n e.holders
  t.setEntry c ⟨if rest = [] then none else e.owner, rest⟩

/-- `n` of arm `x` joins every cell of a list, in order. -/
def CellTable.addAll (t : CellTable) (x : Arm) (n : Nat) : List Nat → CellTable
  | [] => t
  | c :: rest => (t.addHolder x n c).addAll x n rest

/-- `n` leaves every cell of a list, in order. -/
def CellTable.removeAll (t : CellTable) (n : Nat) : List Nat → CellTable
  | [] => t
  | c :: rest => (t.removeHolder n c).removeAll n rest

/-- How many cells of a list are held by `n` alone, and so become NONE when `n` leaves them (R24). -/
def CellTable.countAlone (t : CellTable) (n : Nat) (cells : List Nat) : Nat :=
  (cells.filter fun c => (t.entry c).holders == [n]).length

/-- The cells of a cell box or of outside, in cell-number order, by the counts kept with the table. -/
def CellTable.cellsOf (t : CellTable) : Option CellBox → List Nat
  | some b => b.cells t.nx t.ny
  | none => []

/-- The cell lies in the cell box; outside contains none (R12). -/
def CellTable.inCells (t : CellTable) (c : Nat) : Option CellBox → Bool
  | some b => b.containsCell t.nx t.ny c
  | none => false

/-- The cells of x's park claim, in cell-number order (R21). -/
def CellTable.parkCells (t : CellTable) (x : Arm) : List Nat :=
  (t.cells.filter fun e => e.2.owner == some x && e.2.holders.contains parkNumber).map fun e => e.1

/-- The free cells of a list (R27). -/
def CellTable.freeCells (t : CellTable) (cells : List Nat) : List Nat :=
  cells.filter fun c => t.owner c == none

/-- Some cell of the list is owned by the other arm of `x`: a foreign touch (R28, R31, R32). -/
def CellTable.foreignTouch (t : CellTable) (x : Arm) (cells : List Nat) : Bool :=
  cells.any fun c => t.owner c == some x.other

/-! ## Claims (R20) -/

/-- The numbered claim record n of arm x; FREE beyond the eight. -/
def Part.claim (p : Part) (x : Arm) (n : Nat) : Claim := (p.arm x).claims.getD n freeClaim

def Part.setClaim (p : Part) (x : Arm) (n : Nat) (c : Claim) : Part :=
  p.updArm x fun r => { r with claims := r.claims.set n c }

def Part.setTable (p : Part) (t : CellTable) : Part := { p with table := t }

def Part.setParkCount (p : Part) (x : Arm) (n : Nat) : Part := p.updArm x fun r => { r with parkCount := n }

def Part.setWaiting (p : Part) (x : Arm) (w : Option PendingReserve) : Part :=
  p.updArm x fun r => { r with waiting := w }

/-- The record is GRANTED or LEAVING. -/
def Claim.inForce (c : Claim) : Bool := c.state != .free

/-- The lowest-numbered FREE record (R23). -/
def freeRecord (claims : List Claim) : Option Nat := claims.findIdx? fun c => !c.inForce

/-- A grant, taken whole: record `n` of arm `x` is filled with `c` and its number joins every cell of its box
(R23); status block due (R25). -/
def Part.fillClaim (p : Part) (x : Arm) (n : Nat) (c : Claim) : Part :=
  (((p.setClaim x n c).setTable (p.table.addAll x n (p.table.cellsOf (some c.box))))).markDue x

/-! ## Evaluation and re-evaluation (R45, R54) -/

/-- The cells of a cell box owned by the other arm of x, in cell-number order (R45). -/
def Part.conflictCells (p : Part) (x : Arm) (b : CellBox) : List Nat :=
  (p.table.cellsOf (some b)).filter fun c => p.table.owner c == some x.other

/-- The record a grant writes (R23). -/
def grantedClaim (tag : Half) (mode : ClaimMode) (b : CellBox) (count : Nat) (granted : Word) (slot : Nat) :
    Claim where
  state := .granted
  tag := tag
  mode := mode
  box := b
  count := count
  entered := false
  outside := 0
  granted := granted
  slot := slot

/-- The figures of a RESERVE's end after waiting (R53, R56, R58, R61). -/
def PendingReserve.figures (w : PendingReserve) : ResultFigures :=
  .reserve none true (some w.box) w.count w.conflicts w.firstConflict w.since

/-- x's pending RESERVE ends with a verdict that grants nothing: CROSSED, EXPIRED or WITHDRAWN; its wait timer
goes with it (R50, R53, R56, R58). -/
def Part.endWaiting (p : Part) (x : Arm) (v : Verdict) : Part :=
  match (p.arm x).waiting with
  | some w => (p.setWaiting x none).handResult x w.slot v w.figures
  | none => p

/-- Some claim in force of the arm carries the tag (R43 check 4, R161). -/
def tagInForce (claims : List Claim) (tag : Half) : Bool := claims.any fun c => c.inForce && c.tag == tag

/-- x's pending RESERVE is evaluated again: granted if it no longer conflicts, else left pending with the
figures of this evaluation (R54). Without a FREE record, or with its tag in force already, which R49 and R43 rule
out while it is pending, it stays pending (log 26). -/
def Part.reevaluateArm (p : Part) (x : Arm) : Part :=
  match (p.arm x).waiting with
  | none => p
  | some w =>
    match p.conflictCells x w.box, freeRecord (p.arm x).claims with
    | [], some n =>
      if tagInForce (p.arm x).claims w.tag then
        p.setWaiting x (some { w with conflicts := 0, firstConflict := none })
      else
        (((p.setWaiting x none).fillClaim x n
          (grantedClaim w.tag w.mode w.box w.count p.now w.slot))).handResult x w.slot .granted
            (.reserve (some n) true (some w.box) w.count 0 none w.since)
    | cells, _ => p.setWaiting x (some { w with conflicts := cells.length, firstConflict := cells.head? })

/-- The arm whose pending RESERVE is the older of two (R52); arm A when they are not two. -/
def Part.olderArm (p : Part) : Arm :=
  match p.armA.waiting, p.armB.waiting with
  | some _, some w => if w.age = .older then .b else .a
  | _, _ => .a

/-- The pending RESERVEs are re-evaluated, the older first (R54). -/
def Part.reevaluate (p : Part) : Part := p.bothArms p.olderArm Part.reevaluateArm

/-- Re-evaluation follows exactly when cells became NONE (R24, R38, R39, R54). -/
def Part.reevaluateIf (p : Part) (freed : Nat) : Part := if freed = 0 then p else p.reevaluate

/-! ## Release, parking, trim and park release (R24, R36, R38, R39) -/

/-- How many cells the release of record n frees (R24, R164). -/
def Part.releaseFrees (p : Part) (x : Arm) (n : Nat) : Nat :=
  p.table.countAlone n (p.table.cellsOf (some (p.claim x n).box))

/-- The release of numbered claim n of arm x, with the re-evaluation it prompts (R24). -/
def Part.releaseClaim (p : Part) (x : Arm) (n : Nat) : Part :=
  let freed := p.releaseFrees x n
  (((p.setTable (p.table.removeAll n (p.table.cellsOf (some (p.claim x n).box)))).setClaim x n
    freeClaim).markDue x).reevaluateIf freed

/-- The number leaves a cell that the park claim takes over in the same step (R36). -/
def CellTable.parkCell (t : CellTable) (x : Arm) (n c : Nat) : CellTable :=
  t.setEntry c ⟨some x, holderInsert parkNumber (holderErase n (t.entry c).holders)⟩

/-- Every cell of a list is parked. -/
def CellTable.parkAll (t : CellTable) (x : Arm) (n : Nat) : List Nat → CellTable
  | [] => t
  | c :: rest => (t.parkCell x n c).parkAll x n rest

/-- Record n of arm x is parked if it is in force (R36). -/
def Part.parkClaim (p : Part) (x : Arm) (n : Nat) : Part :=
  if (p.claim x n).inForce then
    let cells := p.table.cellsOf (some (p.claim x n).box)
    let added := (cells.filter fun c => !(p.table.entry c).holders.contains parkNumber).length
    ((p.setTable (p.table.parkAll x n cells)).setClaim x n freeClaim).setParkCount x
      ((p.arm x).parkCount + added)
  else p

/-- The numbers of the claim records (R20). -/
def claimNumbers : List Nat := [0, 1, 2, 3, 4, 5, 6, 7]

/-- All of x's claims are parked; status block due (R36). -/
def Part.parkClaims (p : Part) (x : Arm) : Part :=
  (claimNumbers.foldl (fun p n => p.parkClaim x n) p).markDue x

/-- The park count against the park limit: PARK is added above it and removed at or below it; 255 never (R29). -/
def Part.compareParkLimit (p : Part) (x : Arm) : Part :=
  if p.figures.parkLimit = 255 then p
  else if p.figures.parkLimit < (p.arm x).parkCount then p.addReason x .park
  else p.removeReason x .park

/-- Free cells of a list join x's park claim, with cause PARK and the status block due when there are any
(R27, R38). -/
def Part.growPark (p : Part) (x : Arm) (cells : List Nat) : Part :=
  let joined := p.table.freeCells cells
  if joined = [] then p
  else
    (((p.setTable (p.table.addAll x parkNumber joined)).setParkCount x
      ((p.arm x).parkCount + joined.length)).setCause .park).markDue x

/-- The park cells of x that the envelope's cell box does not contain (R38, R39). -/
def Part.parkOutside (p : Part) (x : Arm) (cells : Option CellBox) : List Nat :=
  (p.table.parkCells x).filter fun c => !p.table.inCells c cells

/-- 8 leaves the given park cells of x; status block due when there are any (R38, R39). -/
def Part.unpark (p : Part) (x : Arm) (gone : List Nat) : Part :=
  if gone = [] then p
  else
    ((p.setTable (p.table.removeAll parkNumber gone)).setParkCount x
      ((p.arm x).parkCount - gone.length)).markDue x

/-- The trim at admission success, with the re-evaluation it prompts; the comparison with the park limit is
step 3 of R103 (R38). -/
def Part.trim (p : Part) (x : Arm) (cells : Option CellBox) : Part :=
  let gone := p.parkOutside x cells
  let freed := p.table.countAlone parkNumber gone
  ((p.unpark x gone).growPark x (p.table.cellsOf cells)).reevaluateIf freed

/-! ## Crossing (R51, R52) -/

/-- The two pending RESERVEs cross: the cells in both zones include one of each arm's (R51). -/
def Part.crossing (p : Part) (wa wb : PendingReserve) : Bool :=
  wa.box.shares wb.box &&
    ((p.table.cellsOf (some (wa.box.meet wb.box))).any fun c => p.table.owner c == some .a) &&
    ((p.table.cellsOf (some (wa.box.meet wb.box))).any fun c => p.table.owner c == some .b)

/-- The crossing check: of two pending RESERVEs that cross, the younger is refused CROSSED (R52). -/
def Part.crossingCheck (p : Part) : Part :=
  match p.armA.waiting, p.armB.waiting with
  | some wa, some wb => if p.crossing wa wb then p.endWaiting p.olderArm.other .crossed else p
  | _, _ => p

/-! ## Envelope reports (R26 to R35) -/

/-- Classification and breach (R27, R28), park limit and crossing (R29, R30), of a report's cells. -/
def Part.classify (p : Part) (x : Arm) (cells : List Nat) : Part :=
  let foreign := p.table.foreignTouch x cells
  let joined := p.table.freeCells cells
  let p := p.growPark x cells
  let p := if foreign then (p.addReason x .breach).setCause .breach else p
  let p := p.compareParkLimit x
  if joined = [] then p else p.crossingCheck

/-- The restart mark sets every outside count of claims in force to 0 (R33). -/
def restartCounts (claims : List Claim) : List Claim :=
  claims.map fun c => if c.inForce then { c with outside := 0 } else c

/-- Whether a claim that the report does not touch is counted (R34). -/
def Claim.countsOutside (c : Claim) : Bool :=
  match c.state, c.mode, c.entered with
  | .leaving, _, _ => true
  | .granted, .onLeave, true => true
  | .granted, .onLeave, false => false
  | .granted, .explicit, _ => false
  | .free, _, _ => false

/-- Leave evaluation of record n (R33, R34). -/
def Part.leaveClaim (p : Part) (x : Arm) (cells : Option CellBox) (n : Nat) : Part :=
  let c := p.claim x n
  if c.inForce then
    if c.box.touchedBy cells then
      let p' := p.setClaim x n { c with entered := true, outside := 0 }
      if c.entered then p' else p'.markDue x
    else if c.countsOutside then
      let p := p.setClaim x n { c with outside := c.outside + 1 }
      if p.figures.leaveCount ≤ c.outside + 1 then p.releaseClaim x n else p
    else p
  else p

/-- Leave evaluation of a report (R33 to R35). -/
def Part.leaveEvaluation (p : Part) (x : Arm) (r : Report) : Part :=
  let p := if r.restart then p.updArm x fun a => { a with claims := restartCounts a.claims } else p
  claimNumbers.foldl (fun p n => p.leaveClaim x r.cells n) p

/-- The report as the arbiter takes it, by the guard state and the engine state at that moment (R26). -/
def Part.takeReport (p : Part) (x : Arm) (r : Report) : Part :=
  if p.guarding then
    match (p.arm x).guard.state with
    | .offline => p
    | .admitting =>
      p.updArm x fun a =>
        { a with answers := a.answers ++
          [⟨p.table.foreignTouch x (p.table.cellsOf r.cells), r.cells, r.seq, r.time⟩] }
    | .running => (p.classify x (p.table.cellsOf r.cells)).leaveEvaluation x r
    | .held => (p.classify x (p.table.cellsOf r.cells)).leaveEvaluation x r
    | .stopped => (p.classify x (p.table.cellsOf r.cells)).leaveEvaluation x r
  else p

end Sys2Proof.Machine
end

