-- ==== Sys2Proof/Machine/Admissions.lean ====
section
/-! DEFINITION. Admission: the pairing of halves, the admission step and admission success (R102, R103). -/

namespace Sys2Proof.Machine

/-- Sequence number and arrival time of the half's frame (R102). -/
def AdmissionHalf.stamp : AdmissionHalf → Byte × Word
  | .notice n => (n.seq, n.time)
  | .answer r => (r.seq, r.time)

def AdmissionHalf.isNotice : AdmissionHalf → Bool
  | .notice _ => true
  | .answer _ => false

/-- The two halves belong to the same frame: one notice and one answer with the same stamp (R102). -/
def AdmissionHalf.partners (h k : AdmissionHalf) : Bool := h.isNotice != k.isNotice && h.stamp == k.stamp

/-- The drive state and the answer of a pair of halves, whichever came first. -/
def pairedFigures : AdmissionHalf → AdmissionHalf → Option (DriveState × Answer)
  | .notice n, .answer r => some (n.drive, r)
  | .answer r, .notice n => some (n.drive, r)
  | .notice _, .notice _ => none
  | .answer _, .answer _ => none

/-- The hold reasons that admission success leaves: BREACH, STALE and TEST are removed (R103 step 2). -/
def Reasons.afterAdmission (r : Reasons) : Reasons := { r with breach := false, stale := false, test := false }

/-- Admission success, taken whole, with the cell box of the frame that completed the count (R103). -/
def Part.admissionSuccess (p : Part) (x : Arm) (cells : Option CellBox) : Part :=
  let slot := (p.arm x).guard.admissionSlot
  let p := p.trim x cells
  let p := p.updGuard x fun g => { g with reasons := g.reasons.afterAdmission }
  let p := p.compareParkLimit x
  let p :=
    if (p.arm x).guard.reasons.empty then p.updGuard x fun g => { g with state := .running }
    else p.enterHeld x
  let p := p.updLink x fun l => l.queueSpeed .uncap
  let p := p.updGuard x fun g =>
    { g with
      stopCause := .none
      windowTimer := none
      admissionSlot := none
      prior := none
      count := 0
      unpaired := [] }
  let p := p.guardChanged x
  match slot with
  | some s =>
    p.handResult x s .admitted
      (.readmit (p.arm x).guard.state (p.arm x).guard.reasons (p.arm x).parkCount .offline 0 0 false)
  | none => p

/-- The admission step of a frame (R102). -/
def Part.admissionStep (p : Part) (x : Arm) (drive : DriveState) (r : Answer) : Part :=
  let count :=
    match drive, r.foreign with
    | .holding, false => (p.arm x).guard.count + 1
    | .standstill, false => (p.arm x).guard.count + 1
    | .holding, true => 0
    | .standstill, true => 0
    | .moving, _ => 0
    | .fault, _ => (p.arm x).guard.count
  let p := p.updGuard x fun g => { g with count := count }
  if p.figures.admitCount ≤ count then p.admissionSuccess x r.cells else p

/-- A half arrives at a guard in ADMITTING: with its partner among the unpaired halves the step is taken, and
the partner and every earlier half are dropped; otherwise it joins them (R102). -/
def Part.takeHalf (p : Part) (x : Arm) (h : AdmissionHalf) : Part :=
  let unpaired := (p.arm x).guard.unpaired
  match unpaired.dropWhile (fun k => !h.partners k) with
  | [] => p.updGuard x fun g => { g with unpaired := unpaired ++ [h] }
  | k :: later =>
    let p := p.updGuard x fun g => { g with unpaired := later }
    match pairedFigures h k with
    | some (drive, r) => p.admissionStep x drive r
    | none => p

/-- An admission answer reaches x's guard: it counts in ADMITTING alone (R102, R107). -/
def Part.takeAnswer (p : Part) (x : Arm) (r : Answer) : Part :=
  if p.guarding ∧ (p.arm x).guard.state = .admitting then p.takeHalf x (.answer r) else p

end Sys2Proof.Machine
end

