-- ==== Sys2Proof/Machine/Monitors.lean ====
section
/-! DEFINITION. The reach monitor (R62 to R85) and what the guard does with a frame notice (R95 to R97). -/

namespace Sys2Proof.Machine

/-! ## Frame notices at the guard (R95) -/

/-- The guard acts on the drive state of a notice (R95, R96, R97, R102). -/
def Part.actOnNotice (p : Part) (x : Arm) (n : Notice) : Part :=
  let g := (p.arm x).guard
  match g.state, n.drive with
  | .offline, _ => p
  | .stopped, _ => p
  | .admitting, .fault => p.failAdmission x (.escalation .driveFault)
  | .admitting, _ => p.takeHalf x (.notice n)
  | .running, .fault => p.escalate x .driveFault
  | .running, _ => p
  | .held, .fault => p.escalate x .driveFault
  | .held, .moving =>
    if g.phase = .acknowledged ∧ p.figures.stillSpeed < n.speed then p.escalate x .disobeyed else p
  | .held, _ =>
    if g.phase = .awaiting then
      (p.updGuard x fun g => { g with phase := .acknowledged, ackTimer := none }).markDue x
    else p

/-- A frame notice: the drive state first, then the removal of STALE (R95). Outside SERVING and FAULTED the
guards take none (R100). -/
def Part.takeNotice (p : Part) (x : Arm) (n : Notice) : Part :=
  if p.guarding then (p.actOnNotice x n).removeReason x .stale else p

/-! ## Expiry of the freshness timers (R73, R74) -/

/-- The stale timer of x expires (R73). -/
def Part.expireStale (p : Part) (x : Arm) : Part :=
  let p := p.updMonitor x fun m => { m with staleTimer := none, stale := true, restart := true }
  match (p.arm x).guard.state with
  | .running => p.addReason x .stale
  | .held => p.addReason x .stale
  | .admitting => p.updGuard x fun g => { g with count := 0 }
  | .offline => p
  | .stopped => p

/-- The loss timer of x expires (R74). The loss escalation does nothing in OFFLINE and STOPPED. -/
def Part.expireLoss (p : Part) (x : Arm) : Part :=
  ((p.updMonitor x fun m => { m with lossTimer := none, known := false }).markChanged x).escalate x .loss

/-! ## Clearance (R76 to R80) -/

/-- A monitor lifts its cap if it has one (R79). -/
def Part.uncap (p : Part) (x : Arm) : Part :=
  if (p.arm x).monitor.capped then
    ((p.updMonitor x fun m => { m with capped := false }).updLink x fun l => l.queueSpeed .uncap).markDue x
  else p

/-- The monitor caps its arm: flag, CAP with the creep speed, cause CLOSE, status block due (R78). -/
def Part.cap (p : Part) (x : Arm) : Part :=
  (((p.updMonitor x fun m => { m with capped := true }).updLink x fun l =>
    l.queueSpeed (.cap (BitVec.ofNat 16 p.figures.creep))).setCause .close).markDue x

/-- The minimum-clearance watermark of x is lowered to an evaluated clearance (R77). -/
def Part.lowerClearance (p : Part) (x : Arm) (c : Nat) : Part :=
  if c < (p.arm x).monitor.minClearance then
    (p.updMonitor x fun m => { m with minClearance := c }).markChanged x
  else p

/-- RUNNING or HELD. -/
def GuardState.inService (g : GuardState) : Bool := g == .running || g == .held

/-- The clearance evaluation on a frame of x with clearance `c` (R77 to R79). -/
def Part.actOnClearance (p : Part) (x : Arm) (c : Nat) : Part :=
  let p := (p.lowerClearance x c).lowerClearance x.other c
  if p.figures.uncapGap ≤ c then (p.uncap x).uncap x.other
  else if c < p.figures.capGap ∧ (p.arm x).guard.state.inService ∧ !(p.arm x).monitor.capped then p.cap x
  else p

/-- The envelope box that stands for an arm: it does when the envelope is known (R62). -/
def Monitor.knownBox (m : Monitor) : Option Box :=
  if m.known then m.envelope.map fun e => e.box else none

/-- The cell box of the envelope that stands for an arm, `some none` for outside, `none` when unknown. -/
def Monitor.knownCells (m : Monitor) : Option (Option CellBox) :=
  if m.known then m.envelope.map fun e => e.cells else none

/-- The clearance evaluation at the end of processing a frame of x, made when both envelopes are known
(R76). -/
def Part.evaluateClearance (p : Part) (x : Arm) : Part :=
  match (p.arm x).monitor.knownBox, (p.arm x.other).monitor.knownBox with
  | some b, some c => p.actOnClearance x (clearance b c)
  | _, _ => p

/-- A freshness timer that has run out while its frame was being processed, or before, expires at the end of the
frame, behind the notice that removes STALE (R72, R73; log 11). -/
def Part.expirePassed (p : Part) (x : Arm) : Part :=
  let p := if timerDue p.now (p.arm x).monitor.staleTimer then p.expireStale x else p
  if timerDue p.now (p.arm x).monitor.lossTimer then p.expireLoss x else p

/-- The end of x's last processed frame, once the guard has had every notice: freshness that is already spent, then
the clearance evaluation (R71, R72; log 4, 11). -/
def Part.settleEvaluation (p : Part) (x : Arm) : Part :=
  if (p.arm x).monitor.evaluationOwed ∧ (p.arm x).notices = [] then
    ((p.updMonitor x fun m => { m with evaluationOwed := false }).expirePassed x).evaluateClearance x
  else p

/-! ## Processing a frame (R65 to R72) -/

/-- A frame that repeats the sequence number of the last processed frame (R65). -/
def Monitor.isRepeat (m : Monitor) (f : Frame) : Bool := m.previous && m.seq == f.seq

/-- The case of R15 for a frame to be processed (R66). -/
def Monitor.speedCase (m : Monitor) (f : Frame) : SpeedCase :=
  if !m.previous then .first
  else if f.seq ≠ m.seq + 1 ∨ !m.known then .carried m.speed
  else .continuing m.pos f.pos m.time f.time

/-- The restart mark of a frame's report (R66). -/
def Monitor.restartMark (m : Monitor) (f : Frame) : Bool :=
  m.restart ||
    match m.speedCase f with
    | .carried _ => true
    | .continuing _ _ _ _ => false
    | .first => false

/-- The envelope of a position at a speed used (R8, R10, R11). -/
def Part.envelopeAt (p : Part) (x : Arm) (pos : Pos) (v : Nat) : Envelope :=
  let b := envelopeBox pos (halfWidth (p.figures.arm x) (p.arm x).test.alrn v)
  ⟨b, cellBoxOf p.figures b⟩

/-- The record after a processed frame: figures, timers and maximum watermarks (R67, R70, R72). -/
def Part.recordFrame (p : Part) (x : Arm) (f : Frame) : Part :=
  let m := (p.arm x).monitor
  let v := speedUsed f.speed.toNat (m.speedCase f)
  let mg := marginOf (p.figures.arm x) (p.arm x).test.alrn v
  (p.updMonitor x fun m =>
    { m with
      previous := true
      pos := f.pos
      seq := f.seq
      time := f.time
      speed := v
      margin := mg
      envelope := some (p.envelopeAt x f.pos v)
      known := true
      stale := false
      restart := false
      staleTimer := timerAt f.time (p.figures.staleLimit * 1000)
      lossTimer := timerAt f.time (p.figures.lossLimit * 1000)
      maxSpeed := max m.maxSpeed v
      maxMargin := max m.maxMargin mg }).markChanged x

/-- The hand-offs of a processed frame: report, notice and figures; the clearance evaluation is owed (R68, R69,
R71). -/
def Part.handFrame (p : Part) (x : Arm) (f : Frame) (restart : Bool) : Part :=
  p.updArm x fun a =>
    { a with
      reports := a.reports ++ [⟨a.monitor.envelope.bind fun e => e.cells, f.seq, f.time, restart⟩]
      notices := a.notices ++ [⟨driveState f.drive, a.monitor.speed, f.seq, f.time⟩]
      figures := a.figures ++ [⟨f.pos, f.time, driveState f.drive, a.monitor.speed⟩]
      monitor := { a.monitor with evaluationOwed := true } }

/-- x's monitor processes a frame (R66 to R71). -/
def Part.processFrame (p : Part) (x : Arm) (f : Frame) : Part :=
  (p.recordFrame x f).handFrame x f ((p.arm x).monitor.restartMark f)

/-- x's monitor is still at a frame: its clearance evaluation is owed, or the stop test unit has not had its figures
(R64, R71, R120; log 4). -/
def Part.frameOpen (p : Part) (x : Arm) : Bool :=
  (p.arm x).monitor.evaluationOwed || !(p.arm x).figures.isEmpty

/-- x's monitor takes the oldest FIFO entry (R64, R65). It finishes one frame, its hand-offs and its clearance
evaluation included, before it takes the next. -/
def Part.takeFrame (p : Part) (x : Arm) : Part :=
  match (p.arm x).link.fifo with
  | [] => p
  | f :: rest =>
    if p.guarding ∧ !p.frameOpen x then
      let p := p.updLink x fun l => { l with fifo := rest }
      if (p.arm x).monitor.isRepeat f then p else p.processFrame x f
    else p

end Sys2Proof.Machine
end

