-- ==== Sys2Proof/Machine/StopTests.lean ====
section
/-! DEFINITION. The stop test unit: taking a STOP_TEST, watching the stop, and the ends of a test (R108 to R119). -/

namespace Sys2Proof.Machine

/-- A STOP_TEST that passed its checks starts a test (R111). -/
def Part.startTest (p : Part) (x : Arm) (slot : Nat) : Part :=
  let seen := (p.arm x).test.seen
  let p := p.updTest x fun u =>
    { u with
      phase := .braking
      slot := some slot
      p0 := seen.pos
      t0 := seen.time
      v0 := seen.speed
      slow := 0
      timer := p.afterMs p.figures.testWindow }
  (p.addReason x .test).waitingNotice x slot (.testStarted seen.speed seen.time)

/-- The checks of a STOP_TEST (R110), and the start of the test (R111). -/
def Part.stopTest (p : Part) (x : Arm) (slot : Nat) : Part :=
  let g := (p.arm x).guard.state
  let v := (p.arm x).test.seen.speed
  if g ≠ .running then p.handResult x slot .busy (.testBusy g)
  else if v < p.figures.testMinSpeed then
    p.handResult x slot .tooSlow (.testTooSlow v p.figures.testMinSpeed)
  else p.startTest x slot

/-- The result of a test at its standstill frame (R113, R119). -/
def measuredResult (u : TestUnit) (fig : ArmFigures) (f : Figures) : TestResult :=
  let d := distance u.p0 f.pos
  let r := u.v0 * fig.reaction / 1000
  let b : Int := (d : Int) - (r : Int)
  let am := if b ≤ 0 then 0 else u.v0 * u.v0 / (2 * b.toNat)
  let deficient := decide (0 < b) && decide (am < 500)
  { verdict := if deficient then .testDeficient else .testPassed
    stopCause := .none
    v0 := u.v0
    distance := d
    elapsed := f.time - u.t0
    reaction := r
    braking := b
    measured := am
    alrn := if b ≤ 0 then fig.acfg else if am < 500 then 500 else min fig.acfg am }

/-- The test ends at its standstill frame (R114). -/
def Part.endTest (p : Part) (x : Arm) (f : Figures) : Part :=
  let r := measuredResult (p.arm x).test (p.figures.arm x) f
  let p := p.recordTest x r
  if r.verdict = .testDeficient then (p.escalate x .testDeficient).removeReason x .test
  else p.removeReason x .test

/-- The test window closes on a running test (R115). -/
def Part.overrunTest (p : Part) (x : Arm) : Part :=
  let u := (p.arm x).test
  ((p.recordTest x (unmeasured .testOverrun .none u.v0 500)).escalate x .testOverrun).removeReason x .test

/-- A MOVING or HOLDING frame at a BRAKING unit: the second slow one in a row is the standstill frame (R112). -/
def Part.slowFrame (p : Part) (x : Arm) (f : Figures) : Part :=
  if p.figures.stillSpeed < f.speed then p.updTest x fun u => { u with slow := 0 }
  else if (p.arm x).test.slow = 0 then p.updTest x fun u => { u with slow := 1 }
  else p.endTest x f

/-- A frame's figures at a BRAKING unit (R112). -/
def Part.watchStop (p : Part) (x : Arm) (f : Figures) : Part :=
  match f.drive with
  | .standstill => p.endTest x f
  | .fault => p.updTest x fun u => { u with slow := 0 }
  | .moving => p.slowFrame x f
  | .holding => p.slowFrame x f

/-- The unit takes a frame's figures; outside SERVING and FAULTED it takes none (R112, R118). -/
def Part.takeFigures (p : Part) (x : Arm) (f : Figures) : Part :=
  if p.guarding then
    let p := p.updTest x fun u => { u with seen := f }
    if (p.arm x).test.phase = .braking then p.watchStop x f else p
  else p

/-- The withdrawal of a running test, for an arm reset or CLOSING (R117): its result is recorded, its verdict
handed, TEST leaves the set; no cause TEST. -/
def Part.withdrawTest (p : Part) (x : Arm) : Part :=
  let u := (p.arm x).test
  if u.phase = .braking then
    let r := unmeasured .withdrawn .none u.v0 u.alrn
    let p := (p.updTest x fun u => { u.toIdle with last := some r }).markDue x
    let p :=
      match u.slot with
      | some s => p.handResult x s .withdrawn (.test r)
      | none => p
    p.clearReason x .test
  else p

end Sys2Proof.Machine
end

