-- ==== Sys2Proof/Machine/Requests.lean ====
section
/-! DEFINITION. The plan requests and their dispatch (R42 to R48, R101, R105, R145, R146, R157 to R167). -/

namespace Sys2Proof.Machine

/-! ## RESERVE (R42 to R48) -/

/-- The figures of a RESERVE refused before its zone is known, and of OUTSIDE (R44, R61). -/
def emptyReserve : ResultFigures := .reserve none false none 0 0 none 0

/-- The zone cell box of a RESERVE, or none for outside (R9 to R11, R42). -/
def Part.zoneOf (p : Part) (x : Arm) (f : SlotFields) : Option CellBox :=
  let h := halfWidth (p.figures.arm x) (p.arm x).test.alrn (clampSpeed f.planned.toNat)
  cellBoxOf p.figures (zoneBox f.boxMin f.boxMax h)

/-- On every axis the box's minimum is not greater than its maximum (R43 check 2). -/
def SlotFields.boxOk (f : SlotFields) : Bool :=
  f.boxMin.x.sle f.boxMax.x && f.boxMin.y.sle f.boxMax.y && f.boxMin.z.sle f.boxMax.z

/-- A RESERVE that conflicts and may wait becomes x's pending RESERVE, with the crossing check when the other
arm has one (R48, R52): it is then the younger of the two and the other the older. DESIGN CHOICE (log 36): one that
is pending alone stores the age `older`, and a younger one keeps `younger` after the older has ended. -/
def Part.startWaiting (p : Part) (x : Arm) (slot : Nat) (f : SlotFields) (mode : ClaimMode) (b : CellBox)
    (conflicts : List Nat) : Part :=
  let other := (p.arm x.other).waiting
  let w : PendingReserve :=
    { slot := slot
      tag := f.tag
      mode := mode
      box := b
      count := b.size
      conflicts := conflicts.length
      firstConflict := conflicts.head?
      since := p.now
      age := if other.isSome then .younger else .older
      timer := p.afterMs f.wait.toNat }
  let p := p.setWaiting x (some w)
  let p := p.setWaiting x.other (other.map fun v => { v with age := .older })
  (p.waitingNotice x slot w.figures).crossingCheck

/-- The evaluation of a RESERVE that passed its checks: granted, refused BLOCKED or made pending
(R45 to R48). -/
def Part.evaluateReserve (p : Part) (x : Arm) (slot : Nat) (f : SlotFields) (mode : ClaimMode) (b : CellBox)
    (n : Nat) : Part :=
  match p.conflictCells x b with
  | [] =>
    (p.fillClaim x n (grantedClaim f.tag mode b b.size p.now slot)).handResult x slot .granted
      (.reserve (some n) false (some b) b.size 0 none 0)
  | c :: rest =>
    if f.wait = 0 then
      p.handResult x slot .blocked (.reserve none false (some b) b.size (c :: rest).length (some c) 0)
    else p.startWaiting x slot f mode b (c :: rest)

/-- RESERVE: the checks of R43 in order, then the evaluation. -/
def Part.reserve (p : Part) (x : Arm) (slot : Nat) (f : SlotFields) : Part :=
  if (p.arm x).guard.state = .offline then p.handResult x slot .notAdmitted emptyReserve
  else if !f.boxOk then p.handResult x slot .badBox emptyReserve
  else
    match claimMode f.mode with
    | none => p.handResult x slot .badField emptyReserve
    | some mode =>
      if tagInForce (p.arm x).claims f.tag then p.handResult x slot .duplicateTag emptyReserve
      else
        match p.zoneOf x f with
        | none => p.handResult x slot .outside emptyReserve
        | some b =>
          match freeRecord (p.arm x).claims with
          | none => p.handResult x slot .noClaim (.reserve none false (some b) b.size 0 none 0)
          | some n => p.evaluateReserve x slot f mode b n

/-! ## RELEASE (R161 to R164) -/

/-- The result of a RELEASE that names claim n (R164). -/
def releaseFigures (n : Nat) (c : Claim) (freed : Nat) (outside : Option Nat) : ResultFigures :=
  .release (some n) (some c.box) c.count freed outside c.slot c.granted

/-- Whether x's envelope, as its monitor holds it, shares a cell with the claim's box (R162). -/
def Part.envelopeTouches (p : Part) (x : Arm) (c : Claim) : Bool :=
  match (p.arm x).monitor.knownCells with
  | some cells => c.box.touchedBy cells
  | none => false

/-- RELEASE by tag (R161 to R164). -/
def Part.release (p : Part) (x : Arm) (slot : Nat) (tag : Half) : Part :=
  match (p.arm x).claims.findIdx? fun c => c.inForce && c.tag == tag with
  | none => p.handResult x slot .unknownTag (.release none none 0 0 none 0 0)
  | some n =>
    let c := p.claim x n
    if c.state = .leaving then p.handResult x slot .leaving (releaseFigures n c 0 (some c.outside))
    else if p.envelopeTouches x c then
      ((p.setClaim x n { c with state := .leaving, outside := 0 }).markDue x).handResult x slot .leaving
        (releaseFigures n c 0 (some 0))
    else
      (p.releaseClaim x n).handResult x slot .released (releaseFigures n c (p.releaseFrees x n) none)

/-! ## READMIT (R101) -/

/-- READMIT: an OFFLINE or STOPPED arm enters ADMITTING unless CELLSTOP is asserted (R101). -/
def Part.readmit (p : Part) (x : Arm) (slot : Nat) : Part :=
  let g := (p.arm x).guard.state
  if (g = .offline ∨ g = .stopped) ∧ !p.cellstop then
    ((p.updGuard x fun r =>
      { r with
        state := .admitting
        admissionSlot := some slot
        prior := some g
        count := 0
        unpaired := []
        windowTimer := p.afterMs p.figures.admitWindow }).guardChanged x).waitingNotice x slot
          (.readmit .offline noReasons 0 g 0 0 false)
  else p.handResult x slot .notAllowed (.readmit g noReasons 0 .offline 0 0 p.cellstop)

/-! ## RELEASE_PARK (R39, R166) -/

/-- The envelope's cell box that spares park cells: none of them when the arm is OFFLINE or its envelope is
unknown (R39). -/
def Part.sparedCells (p : Part) (x : Arm) : Option CellBox :=
  if (p.arm x).guard.state = .offline then none else ((p.arm x).monitor.knownCells).join

/-- RELEASE_PARK (R39, R166). -/
def Part.releasePark (p : Part) (x : Arm) (slot : Nat) : Part :=
  let gone := p.parkOutside x (p.sparedCells x)
  let freed := p.table.countAlone parkNumber gone
  let q := (((p.unpark x gone).compareParkLimit x).reevaluateIf freed)
  q.handResult x slot .parkReleased (.park gone.length freed (q.arm x).parkCount)

/-! ## ACK_BREACH and CLEAR_WATERMARKS (R105, R83, R167) -/

/-- ACK_BREACH: the checks of R105 in order. -/
def Part.ackBreach (p : Part) (x : Arm) (slot : Nat) : Part :=
  let m := (p.arm x).monitor
  if !(p.arm x).guard.reasons.breach then p.handResult x slot .notBreached .none
  else
    match m.knownCells with
    | none => p.handResult x slot .stillBreaching .none
    | some cells =>
      if m.stale || p.table.foreignTouch x (p.table.cellsOf cells) then
        p.handResult x slot .stillBreaching .none
      else
        let q := p.removeReason x .breach
        q.handResult x slot .acknowledged (.holdReasons (q.arm x).guard.reasons)

/-- CLEAR_WATERMARKS: the cleared values, the result carrying those before (R83, R167). -/
def Part.clearWatermarks (p : Part) (x : Arm) (slot : Nat) : Part :=
  let m := (p.arm x).monitor
  ((p.updMonitor x fun m => { m with minClearance := 65535, maxSpeed := 0, maxMargin := 0 }).markChanged
    x).handResult x slot .cleared (.watermarks m.minClearance m.maxSpeed m.maxMargin)

/-! ## Dispatch and taking (R145, R146, R157) -/

/-- The kinds of request (R157). -/
inductive Kind where
  | reserve
  | release
  | readmit
  | releasePark
  | stopTest
  | ackBreach
  | clearWatermarks
deriving DecidableEq, Repr

/-- The kind of a kind code (R157). -/
def kindOf (code : Byte) : Option Kind :=
  if code = 1 then some .reserve
  else if code = 2 then some .release
  else if code = 3 then some .readmit
  else if code = 4 then some .releasePark
  else if code = 5 then some .stopTest
  else if code = 6 then some .ackBreach
  else if code = 7 then some .clearWatermarks
  else none

/-- Dispatch of a taken slot of x's chain (R146, R157). -/
def Part.dispatch (p : Part) (x : Arm) (slot : Nat) (f : SlotFields) : Part :=
  if f.arm ≠ BitVec.ofNat 8 (armCode x) then p.handResult x slot .wrongArm .none
  else
    match kindOf f.kind with
    | none => p.handResult x slot .badKind .none
    | some .reserve => p.reserve x slot f
    | some .release => p.release x slot f.tag
    | some .readmit => p.readmit x slot
    | some .releasePark => p.releasePark x slot
    | some .stopTest => p.stopTest x slot
    | some .ackBreach => p.ackBreach x slot
    | some .clearWatermarks => p.clearWatermarks x slot

/-- A POSTED slot is taken: cursor and open slot, the taken time, the stage TAKEN, then the dispatch (R145). -/
def Part.takeSlot (p : Part) (x : Arm) (slot : Nat) (f : SlotFields) : Part :=
  let p := p.updChain x fun c => { c with cursor := some slot, openSlot := some slot, answered := false }
  let p := p.queueOp (.figureWrite x slot 0x20 (le32 p.now.toNat))
  let p := p.queueOp (.stageWrite x slot .taken)
  (p.markDue x).dispatch x slot f

end Sys2Proof.Machine
end

