-- ==== Sys2Proof/Machine/Serving.lean ====
section
/-! DEFINITION. The exchange engine: walks (R143, R144), operations and faults (R150 to R153), the load, the start
and the end of serving (R168 to R174), and what every step ends with (R88, R150, R155, R181). -/

namespace Sys2Proof.Machine

/-! ## Walks (R143, R144) -/

/-- The slot is the cursor of either arm. -/
def Part.isCursor (p : Part) (slot : Nat) : Bool :=
  p.armA.chain.cursor == some slot || p.armB.chain.cursor == some slot

/-- Step 4 of a walk, on a candidate; `none` when the walk ends there (R144). -/
def Part.tryCandidate (p : Part) (x : Arm) (slot : Nat) : Part × Bool :=
  if p.isCursor slot then (p.setCause .chain, false)
  else ((p.updChain x fun c => { c with walk := .readingSlot }).queueOp (.slotRead x slot), true)

/-- A walk of x starts; the flag says whether it goes on after this step (R144 steps 1 to 4). -/
def Part.beginWalk (p : Part) (x : Arm) : Part × Bool :=
  let c := (p.arm x).chain
  match c.openSlot, c.cursor with
  | some _, _ => (p, false)
  | none, none => p.tryCandidate x (p.figures.entry x)
  | none, some slot =>
    ((p.updChain x fun c => { c with walk := .readingNext }).queueOp (.nextRead x slot), true)

/-- A walk of x ends; with its walk-again mark set, the mark is cleared and one further walk starts (R143). -/
def Part.endWalk (p : Part) (x : Arm) : Part :=
  if (p.arm x).chain.walkAgain then
    ((p.updChain x fun c => { c with walk := .none, walkAgain := false }).beginWalk x).1
  else p.updChain x fun c => { c with walk := .none }

/-- A prompt reaches x: it starts a walk, or marks the walk in progress (R143). Only SERVING walks. -/
def Part.prompt (p : Part) (x : Arm) : Part :=
  if p.engine = .serving then
    if (p.arm x).chain.walk = .none then (p.beginWalk x).1
    else p.updChain x fun c => { c with walkAgain := true }
  else p

/-- The next field of x's cursor slot has been read (R144 steps 3 and 4). -/
def Part.takeNext (p : Part) (x : Arm) (next : Byte) : Part :=
  if next = 255 then p.endWalk x
  else if next.toNat < 128 then
    match p.tryCandidate x next.toNat with
    | (q, true) => q
    | (q, false) => q.endWalk x
  else (p.setCause .chain).endWalk x

/-- The candidate slot of x's walk has been read (R144 step 5). -/
def Part.takeCandidate (p : Part) (x : Arm) (slot : Nat) (f : SlotFields) : Part :=
  if p.isCursor slot then (p.setCause .chain).endWalk x
  else if f.stage = postedStage then (p.takeSlot x slot f).endWalk x
  else p.endWalk x

/-! ## Resets of one arm's blocks at the start and the end of serving -/

/-- x's guard becomes OFFLINE with the values of R87: HOST exactly when CONTROL.HOLD_x is 1, the given stop
cause; ARM_x when the state or the set changes. -/
def Part.guardOffline (p : Part) (x : Arm) (cause : StopCause) : Part :=
  let g := (p.arm x).guard
  let reasons := { noReasons with host := (p.arm x).hold }
  let q := p.updGuard x fun _ => { resetGuard with reasons := reasons, stopCause := cause }
  if g.state ≠ .offline ∨ g.reasons ≠ reasons then q.guardChanged x
  else if g.stopCause ≠ cause then q.markDue x
  else q

/-- x's claims and park count are cleared with the table; status block due when that changes the claim list or the
park count (R22, R25, R154). -/
def Part.clearClaims (p : Part) (x : Arm) : Part :=
  let r := p.arm x
  let q := p.updArm x fun r => { r with claims := freeClaims, parkCount := 0 }
  if r.parkCount ≠ 0 ∨ (r.claims.any Claim.inForce) = true then q.markDue x else q

/-- The cell table and both claim tables are cleared, the counts kept with the table as given (R22). -/
def Part.clearTable (p : Part) (nx ny nz : Nat) : Part :=
  ((p.setTable (clearedTable nx ny nz)).clearClaims .a).clearClaims .b

/-- x's open request is withdrawn by the block that serves it: a pending RESERVE (R58, R59), an admission
(R104) or a stop test (R117). -/
def Part.withdraw (p : Part) (x : Arm) : Part :=
  let p := p.endWaiting x .withdrawn
  let p :=
    match (p.arm x).guard.state, (p.arm x).guard.admissionSlot with
    | .admitting, some s => p.handResult x s .withdrawn .none
    | _, _ => p
  p.withdrawTest x

/-! ## The load (R170, R171) -/

/-- A load that does not start serving: IDLE, SERVE 0, no figures in force (R171). DEDUCED (log 30): the load's own
setup read, when it still waits behind the read of an earlier abandoned load, is dropped; R171 speaks of a read in
progress only. -/
def Part.endLoad (p : Part) (outcome : SetupOutcome) (field : Nat) : Part :=
  { p with engine := .idle, serve := false, outcome := outcome, fieldNumber := field, opQueue := [] }

/-- x's blocks take their start-of-serving state (R63, R87, R108, R137, R141, R172); hand-offs of an earlier serving
that no block has taken are dropped (log 5). -/
def Part.startArm (p : Part) (f : Setup) (x : Arm) : Part :=
  (p.guardOffline x (p.arm x).guard.stopCause).updArm x fun r =>
    { r with
      chain := resetChain
      waiting := none
      monitor := resetMonitor
      test := resetTest (f.arm x).acfg
      link := resetLink .active
      reports := []
      notices := []
      answers := []
      figures := [] }

/-- A status block write of x joins the queue (R153, R155). -/
def Part.queueStatus (p : Part) (x : Arm) : Part :=
  (p.updChain x fun c => { c with blockQueued := true }).queueOp (.statusWrite x)

/-- The start of serving, one whole step (R172). -/
def Part.startServing (p : Part) (f : Setup) (first : Arm) : Part :=
  let p := { p with
    engine := .serving
    outcome := .accepted
    fieldNumber := 0
    setup := some f
    pollTimer := if f.pollInterval = 0 then none else p.afterMs f.pollInterval
    publishTimer := p.afterMs f.publishInterval }
  let p := p.clearTable f.nx f.ny f.nz
  let p := ((p.startArm f .a).startArm f .b).setCause .setup
  ((p.queueStatus .a).queueStatus .b).bothArms first Part.prompt

/-- The setup read of a load has completed: the first failing field refuses it, a block that passes starts
serving (R170). -/
def Part.checkSetup (p : Part) (data : BitVec 1024) (first : Arm) : Part :=
  match setupRefusal data with
  | some field => (p.endLoad .refused field).setCause .setup
  | none => p.startServing (readSetup data) first

/-! ## Teardown (R153, R173) -/

/-- Every walk of x ends in CLOSING, and its walk-again and block queued marks go (R153). -/
def Chain.stopWalk (c : Chain) : Chain := { c with walk := .none, walkAgain := false, blockQueued := false }

/-- x's blocks at the entry into CLOSING (R63, R87, R138, R173 step 3); a record of the monitor that the reset changes
marks the status block changed (R154). -/
def Part.closeArm (p : Part) (x : Arm) : Part :=
  let q := (p.guardOffline x .none).updArm x fun r =>
    { r with monitor := resetMonitor, link := r.link.becomeQuiet }
  if (p.arm x).monitor = resetMonitor then q else q.markChanged x

/-- The entry into CLOSING, one whole step (R173): reads and status block writes that have not started are
dropped, open requests withdrawn, the blocks reset, the table cleared (R22), the last status blocks queued.
DESIGN CHOICE (log 35): the cell counts that stand with the cleared table are 0 0 0; R36 only ends their keeping. -/
def Part.teardown (p : Part) (first : Arm) : Part :=
  let p := { p with opQueue := p.opQueue.filter MemOp.isSlotWrite, serve := false }
  let p := (p.updChain .a Chain.stopWalk).updChain .b Chain.stopWalk
  let p := p.bothArms first Part.withdraw
  let p := { p with engine := .closing, pollTimer := none, publishTimer := none }
  let p := ((p.closeArm .a).closeArm .b).clearTable 0 0 0
  (p.queueStatus .a).queueStatus .b

/-- The per-arm engine record when CLOSING ends: marks and walk phases cleared, cursor kept (R141, R173). -/
def Chain.closeDone (c : Chain) : Chain :=
  { c with walk := .none, walkAgain := false, publishDue := false, changed := false, blockQueued := false }

/-- The engine enters IDLE from CLOSING; the setup figures go out of force (R173). -/
def Part.closeDone (p : Part) : Part :=
  ({ p with engine := .idle, setup := none }.updChain .a Chain.closeDone).updChain .b Chain.closeDone

/-! ## Memory faults (R151, R152, R171, R173) -/

/-- x's share of the entry into FAULTED: walks and marks end, the pending RESERVE is dropped, an admission is
abandoned, each without a verdict (R60, R104, R152). -/
def Part.faultArm (p : Part) (x : Arm) : Part :=
  let p := p.updArm x fun r => { r with chain := r.chain.closeDone, waiting := none }
  if (p.arm x).guard.state = .admitting then p.leaveAdmission x none else p

/-- The engine enters FAULTED (R152). -/
def Part.enterFaulted (p : Part) (kind : FaultKind) : Part :=
  let p := { p with
    engine := .faulted
    faultKind := kind
    opQueue := []
    pollTimer := none
    publishTimer := none }
  ((p.setCause .fault).faultArm .a).faultArm .b

/-- A memory fault, by engine state (R151): LOADING is refused with field 0, SERVING becomes FAULTED, CLOSING
ends at once. In IDLE and FAULTED no operation of a load or of serving is in progress. -/
def Part.takeFault (p : Part) (kind : FaultKind) : Part :=
  match p.engine with
  | .loading => { (p.endLoad .refused 0).setCause .fault with faultKind := kind }
  | .serving => p.enterFaulted kind
  | .closing => { ({ p with opQueue := [] }.setCause .fault).closeDone with faultKind := kind }
  | .idle => p
  | .faulted => p

/-- The kind of fault of an operation that completes unsuccessfully (R151). -/
def MemOp.faultKind (op : MemOp) : FaultKind := if op.isRead then .readError else .writeError

/-- The operation in progress ends unsuccessfully. The setup read of an abandoned load is ignored (R171). -/
def Part.failRunning (p : Part) (kind : MemOp → FaultKind) : Part :=
  match p.inProgress with
  | some r => if r.abandoned then p.dropRunning else p.dropRunning.takeFault (kind r.op)
  | none => p

/-! ## From FAULTED to IDLE (R100, R118, R138, R174) -/

/-- x's blocks when the engine goes from FAULTED to IDLE: a RUNNING or HELD arm is STOPPED with SERVING_ENDED
and its test aborted, the guard's and the monitor's timers stop, the link becomes QUIET. -/
def Part.endFaultedArm (p : Part) (x : Arm) : Part :=
  let p := if (p.arm x).guard.state.inService then p.enterStopped x .servingEnded else p
  p.updArm x fun r =>
    { r with
      guard := { r.guard with ackTimer := none, windowTimer := none }
      monitor := { r.monitor with staleTimer := none, lossTimer := none, evaluationOwed := false }
      link := r.link.becomeQuiet }

/-- SERVE written 0 in FAULTED (R174). -/
def Part.endFaulted (p : Part) (first : Arm) : Part :=
  let p := p.bothArms first Part.endFaultedArm
  { p with engine := .idle, serve := false, setup := none }

/-! ## Arm reset (R106) -/

/-- An arm reset of x, one whole step: withdrawal, parking, guard OFFLINE with HOST alone, link, monitor and
test unit reset. -/
def Part.armReset (p : Part) (x : Arm) : Part :=
  let before := (p.arm x).guard
  let p := (p.withdraw x).parkClaims x
  let reasons := { noReasons with host := before.reasons.host }
  let alrn := match p.setup with
    | some f => (f.arm x).acfg
    | none => 0
  let p := p.updArm x fun r =>
    { r with
      guard := { resetGuard with reasons := reasons }
      monitor := resetMonitor
      test := resetTest alrn
      link := resetLink r.link.state }
  let p := if before.state = .offline ∧ before.reasons = reasons then p else p.setCause (armCause x)
  p.markDue x

/-! ## Resets of the whole part (R175, R176) -/

/-- A part reset: the pin-reset state, but the base, CAUSE_MASK, the configuration space, the inputs and the µs
counter stay; the operation in progress is dropped (R175). -/
def Part.partReset (p : Part) : Part :=
  let q := p.dropRunning
  { resetPart with
    now := q.now
    busMaster := q.busMaster
    msgEnable := q.msgEnable
    pcieUp := q.pcieUp
    cellstopPin := q.cellstopPin
    cellstop := q.cellstop
    cellstopFilter := q.cellstopFilter
    causeMask := q.causeMask
    baseLo := q.baseLo
    baseHi := q.baseHi
    messages := q.messages
    hostMem := q.hostMem
    freeUsed := q.freeUsed }

/-- The release of the reset pin: every block in its pin-reset state, the counter starting from 0, the
configuration space at its reset values (R176). The inputs and what reached host memory stay; the guards see CELLSTOP
at the level of its input (log 14). -/
def Part.pinReset (p : Part) : Part :=
  let q := p.dropRunning
  { resetPart with
    pcieUp := q.pcieUp
    cellstopPin := q.cellstopPin
    cellstop := q.cellstopPin
    messages := q.messages
    hostMem := q.hostMem
    freeUsed := q.freeUsed }

/-- The reset pin is asserted: no bus operation, both lines' transmit pairs idle, both stop lines asserted
(R176). DESIGN CHOICE (log 32): CAUSE, CAUSE_MASK and with them the level of the legacy interrupt stay as they were
until the pin's release, where R176 and R181 put the interrupt inactive. -/
def Part.assertReset (p : Part) : Part :=
  let q := { p.dropRunning with inReset := true, opQueue := [] }
  let quiet := fun (r : ArmPart) =>
    { r with link := { r.link with onLine := none }, guard := { r.guard with stopAsserted := true } }
  (q.updArm .a quiet).updArm .b quiet

/-! ## What every step ends with -/

/-- x's status block, when due while SERVING and not waiting in the queue, joins the queue (R155). -/
def Part.publish (p : Part) (x : Arm) : Part :=
  if p.engine = .serving ∧ (p.arm x).chain.publishDue ∧ !(p.arm x).chain.blockQueued then p.queueStatus x
  else p

/-- The bytes an operation sends when it starts (R150). -/
def Part.opBytes (p : Part) : MemOp → List Byte
  | .figureWrite _ _ _ bytes => bytes
  | .stageWrite _ _ stage => byte1 stage.code
  | .statusWrite x => statusBytes (p.arm x) (p.arm x).chain.edition
  | .setupRead => []
  | .nextRead _ _ => []
  | .slotRead _ _ => []

/-- The start of a status block write: marks cleared, edition raised (R155). -/
def Part.raiseEdition (p : Part) : MemOp → Part
  | .statusWrite x => p.updChain x fun c =>
      { c with blockQueued := false, publishDue := false, changed := false, edition := c.edition + 1 }
  | .figureWrite _ _ _ _ => p
  | .stageWrite _ _ _ => p
  | .setupRead => p
  | .nextRead _ _ => p
  | .slotRead _ _ => p

/-- The time a read may take, in ms (R151). -/
def readLimitMs : Nat := 50

/-- An operation starts and becomes the one in progress, at the exchange base plus its offset (R139). -/
def Part.beginOp (p : Part) (op : MemOp) : Part :=
  let p := p.raiseEdition op
  { p with
    inProgress := some
      { op := op
        addr := p.areaAddr op.offset
        bytes := p.opBytes op
        limit := if op.isRead then p.afterMs readLimitMs else none
        abandoned := false } }

/-- The next operation of the queue starts when none is in progress; it fails at its start with bus mastering
disabled or the link down (R150, R151, R182). CLOSING ends when its last operation has completed (R173). -/
def Part.startNext (p : Part) : Part :=
  match p.inProgress, p.opQueue with
  | some _, _ => p
  | none, [] => if p.engine = .closing then p.closeDone else p
  | none, op :: rest =>
    let p := { p with opQueue := rest }
    if p.busMaster && p.pcieUp then p.beginOp op else p.takeFault op.faultKind

/-- The stop line of x is released exactly while the engine is SERVING or FAULTED and the guard is RUNNING or
HELD (R88). -/
def Part.lineReleased (p : Part) (x : Arm) : Bool := p.guarding && (p.arm x).guard.state.inService

def Part.driveStopLine (p : Part) (x : Arm) : Part :=
  p.updGuard x fun g => { g with stopAsserted := !p.lineReleased x }

/-- The end of a step that began at `before`: status blocks that are due join the queue behind the step's own
writes (log 6), the next operation starts, the stop lines follow, and a message is sent if the interrupt
condition has risen. -/
def Part.settle (before p : Part) : Part :=
  Part.sendMessage before ((((p.publish .a).publish .b).startNext.driveStopLine .a).driveStopLine .b)

/-- A command that the part takes unless the reset pin is asserted (R176). -/
def Part.step (p : Part) (f : Part → Part) : Part := if p.inReset then p else p.settle (f p)

end Sys2Proof.Machine
end

