-- ==== Sys2Proof/Machine/WindowCommands.lean ====
section
/-! DEFINITION. The register window: its reads, and the commands that are register writes (R139, R143, R169, R175,
R177 to R181, R91, R106). -/

namespace Sys2Proof.Machine

/-- A command acts on the part; the queue stays as it is. No command of this part ends in a fault or a refusal. -/
def onPart (s : State) (f : Part → Part) : Host.Outcome State Fault Refusal :=
  .next { s with part := f s.part }

/-! ## Effects of the writes -/

/-- SERVE changes 0 to 1: in IDLE the load starts (R169, R170). -/
def Part.serveSet (p : Part) : Part :=
  if p.serve = false ∧ p.engine = .idle then
    { p with
      engine := .loading
      serve := true
      outcome := .none
      fieldNumber := 0
      faultKind := .none }.queueOp .setupRead
  else p

/-- The load is abandoned: a setup read in progress finishes and is ignored (R171). -/
def Part.abandonLoad (p : Part) : Part :=
  { p.endLoad .abandoned 0 with inProgress := p.inProgress.map fun r => { r with abandoned := true } }

/-- SERVE changes 1 to 0 (R169). -/
def Part.serveClear (p : Part) (first : Arm) : Part :=
  if p.serve then
    match p.engine with
    | .loading => p.abandonLoad
    | .serving => p.teardown first
    | .faulted => p.endFaulted first
    | .idle => p
    | .closing => p
  else p

/-- HOLD_x takes a value; a change adds or removes HOST (R91). -/
def Part.writeHold (p : Part) (x : Arm) (v : Bool) : Part :=
  if (p.arm x).hold = v then p
  else
    let p := p.updArm x fun r => { r with hold := v }
    if v then p.addReason x .host else p.removeReason x .host

/-- Each flag written with 1 is cleared (R180). -/
def Part.writeCause (p : Part) (v : Word) : Part := { p with cause := p.cause &&& ~~~v }

/-- The mask takes the named bits (R180). -/
def Part.writeCauseMask (p : Part) (v : Word) : Part := { p with causeMask := v &&& causeBits }

/-- A prompt of both arms; only SERVING walks (R143). -/
def Part.promptBoth (p : Part) (first : Arm) : Part := p.bothArms first Part.prompt

/-- Address bits of EXCHANGE_BASE_LO (R139). -/
def baseLoBits : Word := 0xFFFFF000

/-- A base register takes a write in IDLE alone (R139). -/
def Part.writeBase (p : Part) (which : BaseRegister) (v : Word) : Part :=
  if p.engine = .idle then
    match which with
    | .lo => { p with baseLo := v &&& baseLoBits }
    | .hi => { p with baseHi := v }
  else p

/-- One write to CONTROL with several fields: PART_RESET alone if it is 1, else the hold bits, the arm resets,
and SERVE, an order R178 allows (log 10). -/
def Part.writeControl (p : Part) (v : Word) : Part :=
  if v.getLsbD 8 then p.partReset
  else
    let p := (p.writeHold .a (v.getLsbD 1)).writeHold .b (v.getLsbD 2)
    let p := if v.getLsbD 9 then p.armReset .a else p
    let p := if v.getLsbD 10 then p.armReset .b else p
    if v.getLsbD 0 then p.serveSet else p.serveClear .a

/-- A bus write to the window (R177): an aligned word at a register that takes writes has that register's effect;
every other write completes without effect. DESIGN CHOICE (log 33): so does a write of more than four bytes, of which
R177 says nothing. -/
def Part.writeWindow (p : Part) (offset : BitVec 6) (size : Nat) (v : Word) : Part :=
  if size = 4 then
    match offset.toNat with
    | 0x00 => p.writeControl v
    | 0x08 => p.writeCause v
    | 0x0C => p.writeCauseMask v
    | 0x10 => p.promptBoth .a
    | 0x14 => p.writeBase .lo v
    | 0x18 => p.writeBase .hi v
    | _ => p
  else p

/-! ## Reads (R177 to R180) -/

/-- A flag at a bit position of a word. -/
def bitAt (n : Nat) (b : Bool) : Word := if b then BitVec.twoPow 32 n else 0

/-- A field's value at a bit position of a word. -/
def fieldAt (n v : Nat) : Word := BitVec.ofNat 32 v <<< n

/-- CONTROL as it reads (R178). -/
def Part.controlRegister (p : Part) : Word := bitAt 0 p.serve ||| bitAt 1 p.armA.hold ||| bitAt 2 p.armB.hold

/-- STATE as it reads (R179). -/
def Part.stateRegister (p : Part) : Word :=
  fieldAt 0 p.engine.code ||| fieldAt 4 p.armA.guard.state.code ||| fieldAt 8 p.armB.guard.state.code |||
    fieldAt 12 p.outcome.code ||| fieldAt 16 p.fieldNumber ||| fieldAt 24 p.faultKind.code |||
    bitAt 28 p.cellstopPin ||| bitAt 29 (!p.armA.guard.stopAsserted) ||| bitAt 30 (!p.armB.guard.stopAsserted)

/-- A bus read of the window: an aligned word of a register; all else reads 0 (R177). Reads change nothing. DESIGN
CHOICE (log 33): a read of more than four bytes reads 0, of which R177 says nothing. -/
def Part.readWindow (p : Part) (offset : BitVec 6) (size : Nat) : Word :=
  if size = 4 then
    match offset.toNat with
    | 0x00 => p.controlRegister
    | 0x04 => p.stateRegister
    | 0x08 => p.cause
    | 0x0C => p.causeMask
    | 0x14 => p.baseLo
    | 0x18 => p.baseHi
    | _ => 0
  else 0

/-! ## The commands -/

/-- PIN_RESET (R176). -/
def execPinReset (s : State) : Host.Outcome State Fault Refusal := onPart s Part.pinReset

/-- SERVE_SET (R169, R170). -/
def execServeSet (s : State) : Host.Outcome State Fault Refusal := onPart s fun p => p.step Part.serveSet

/-- SERVE_CLEAR (R169, R171, R173, R174). -/
def execServeClear (first : Arm) (s : State) : Host.Outcome State Fault Refusal :=
  onPart s fun p => p.step fun q => q.serveClear first

/-- HOLD_X_WRITE (R91). -/
def execHoldXWrite (x : Arm) (value : Bool) (s : State) : Host.Outcome State Fault Refusal :=
  onPart s fun p => p.step fun q => q.writeHold x value

/-- PART_RESET (R175). -/
def execPartReset (s : State) : Host.Outcome State Fault Refusal := onPart s fun p => p.step Part.partReset

/-- ARM_RESET_X (R106). -/
def execArmResetX (x : Arm) (s : State) : Host.Outcome State Fault Refusal :=
  onPart s fun p => p.step fun q => q.armReset x

/-- CAUSE_WRITE (R180). -/
def execCauseWrite (value : Word) (s : State) : Host.Outcome State Fault Refusal :=
  onPart s fun p => p.step fun q => q.writeCause value

/-- CAUSE_MASK_WRITE (R180, R181). -/
def execCauseMaskWrite (value : Word) (s : State) : Host.Outcome State Fault Refusal :=
  onPart s fun p => p.step fun q => q.writeCauseMask value

/-- NUDGE (R143): a write of any value. -/
def execNudge (_value : Word) (first : Arm) (s : State) : Host.Outcome State Fault Refusal :=
  onPart s fun p => p.step fun q => q.promptBoth first

/-- EXCHANGE_BASE_WRITE (R139). -/
def execExchangeBaseWrite (which : BaseRegister) (value : Word) (s : State) :
    Host.Outcome State Fault Refusal :=
  onPart s fun p => p.step fun q => q.writeBase which value

/-- REGISTER_WRITE (R177). -/
def execRegisterWrite (offset : BitVec 6) (size : Nat) (value : Word) (s : State) :
    Host.Outcome State Fault Refusal :=
  onPart s fun p => p.step fun q => q.writeWindow offset size value

/-- RESET_PIN_ASSERTED (R176). -/
def execResetPinAsserted (s : State) : Host.Outcome State Fault Refusal := onPart s Part.assertReset

end Sys2Proof.Machine
end

