-- ==== Sys2Proof/Machine/GuardCommands.lean ====
section
/-! DEFINITION. The commands of the monitors, the arbiter, the guards and the stop test units, and of CELLSTOP
(R26, R56, R64 to R74, R89, R95, R96, R102, R104, R112, R115). -/

namespace Sys2Proof.Machine

/-- The arbiter takes x's oldest envelope report (R26). -/
def Part.nextReport (p : Part) (x : Arm) : Part :=
  match (p.arm x).reports with
  | [] => p
  | r :: rest => (p.updArm x fun a => { a with reports := rest }).takeReport x r

/-- x's guard takes its oldest frame notice (R95); the clearance evaluation of that frame follows (R71). -/
def Part.nextNotice (p : Part) (x : Arm) : Part :=
  match (p.arm x).notices with
  | [] => p
  | n :: rest =>
    let p := (p.updArm x fun a => { a with notices := rest }).takeNotice x n
    if p.guarding then p.settleEvaluation x else p

/-- x's guard takes the oldest admission answer (R102). -/
def Part.nextAnswer (p : Part) (x : Arm) : Part :=
  match (p.arm x).answers with
  | [] => p
  | r :: rest => (p.updArm x fun a => { a with answers := rest }).takeAnswer x r

/-- x's stop test unit takes the oldest frame figures (R112). -/
def Part.nextFigures (p : Part) (x : Arm) : Part :=
  match (p.arm x).figures with
  | [] => p
  | f :: rest => (p.updArm x fun a => { a with figures := rest }).takeFigures x f

/-- x's stale timer expires (R73). A frame that the monitor is processing is finished first, and then the timer is
looked at by that frame (R64, R72; log 11). -/
def Part.staleExpires (p : Part) (x : Arm) : Part :=
  let m := (p.arm x).monitor
  if p.guarding ∧ !m.evaluationOwed ∧ timerDue p.now m.staleTimer then p.expireStale x else p

/-- x's loss timer expires (R74), outside the processing of a frame as the stale timer does. -/
def Part.lossExpires (p : Part) (x : Arm) : Part :=
  let m := (p.arm x).monitor
  if p.guarding ∧ !m.evaluationOwed ∧ timerDue p.now m.lossTimer then p.expireLoss x else p

/-- x's hold-ack timer expires while HELD and AWAITING (R96). -/
def Part.holdAckExpires (p : Part) (x : Arm) : Part :=
  let g := (p.arm x).guard
  if p.guarding ∧ g.state = .held ∧ g.phase = .awaiting ∧ timerDue p.now g.ackTimer then
    p.escalate x .holdAck
  else p

/-- x's admit window timer expires in ADMITTING (R104). -/
def Part.admitWindowExpires (p : Part) (x : Arm) : Part :=
  let g := (p.arm x).guard
  if p.guarding ∧ g.state = .admitting ∧ timerDue p.now g.windowTimer then p.failAdmission x .window else p

/-- x's test window timer expires while BRAKING (R115). -/
def Part.testWindowExpires (p : Part) (x : Arm) : Part :=
  let u := (p.arm x).test
  if p.guarding ∧ u.phase = .braking ∧ timerDue p.now u.timer then p.overrunTest x else p

/-- x's wait timer expires while x has a pending RESERVE (R56). -/
def Part.waitExpires (p : Part) (x : Arm) : Part :=
  match (p.arm x).waiting with
  | some w => if timerDue p.now w.timer then p.endWaiting x .expired else p
  | none => p

/-- x's guard acts on CELLSTOP becoming asserted (R89). -/
def Part.cellstopEscalates (p : Part) (x : Arm) : Part := if p.guarding then p.escalate x .cellStop else p

/-- The time a level of CELLSTOP must last before the guards see it, in µs (R89). -/
def cellstopFilterUs : Nat := 10

/-- The CELLSTOP input takes a level: the filter times a level that the guards do not see yet, and a level that they
see already ends the pulse (R89; log 14). -/
def Part.setCellstopPin (p : Part) (level : Bool) : Part :=
  { p with
    cellstopPin := level
    cellstopFilter :=
      if p.cellstop = level then none
      else if p.cellstopPin = level then p.cellstopFilter
      else timerAt p.now cellstopFilterUs }

/-- The level of the input has lasted through the filter (R89). -/
def Part.cellstopLasted (p : Part) : Bool := p.cellstop != p.cellstopPin && timerDue p.now p.cellstopFilter

/-- The guards see the level of the input from now on. -/
def Part.seeCellstop (p : Part) : Part := { p with cellstop := p.cellstopPin, cellstopFilter := none }

/-- CELLSTOP is asserted: the input takes the level, and once it has lasted through the filter the guards act on it
(R89; log 14). -/
def Part.assertCellstop (p : Part) (first : Arm) : Part :=
  let p := p.setCellstopPin true
  if p.cellstopLasted then p.seeCellstop.bothArms first Part.cellstopEscalates else p

/-- CELLSTOP is released: the input takes the level, and once it has lasted through the filter the guards see it; no
guard state changes (R89). -/
def Part.releaseCellstop (p : Part) : Part :=
  let p := p.setCellstopPin false
  if p.cellstopLasted then p.seeCellstop else p

/-! ## The commands -/

/-- MONITOR_TAKE_FRAME (R64 to R72). -/
def execMonitorTakeFrame (x : Arm) (s : State) : Host.Outcome State Fault Refusal :=
  onPart s fun p => p.step fun q => q.takeFrame x

/-- STALE_EXPIRY (R73). -/
def execStaleExpiry (x : Arm) (s : State) : Host.Outcome State Fault Refusal :=
  onPart s fun p => p.step fun q => q.staleExpires x

/-- LOSS_EXPIRY (R74). -/
def execLossExpiry (x : Arm) (s : State) : Host.Outcome State Fault Refusal :=
  onPart s fun p => p.step fun q => q.lossExpires x

/-- ENVELOPE_REPORT (R26). -/
def execEnvelopeReport (x : Arm) (s : State) : Host.Outcome State Fault Refusal :=
  onPart s fun p => p.step fun q => q.nextReport x

/-- FRAME_NOTICE (R95). -/
def execFrameNotice (x : Arm) (s : State) : Host.Outcome State Fault Refusal :=
  onPart s fun p => p.step fun q => q.nextNotice x

/-- ADMISSION_ANSWER (R102). -/
def execAdmissionAnswer (x : Arm) (s : State) : Host.Outcome State Fault Refusal :=
  onPart s fun p => p.step fun q => q.nextAnswer x

/-- HOLD_ACK_EXPIRY (R96). -/
def execHoldAckExpiry (x : Arm) (s : State) : Host.Outcome State Fault Refusal :=
  onPart s fun p => p.step fun q => q.holdAckExpires x

/-- ADMIT_WINDOW_EXPIRY (R104). -/
def execAdmitWindowExpiry (x : Arm) (s : State) : Host.Outcome State Fault Refusal :=
  onPart s fun p => p.step fun q => q.admitWindowExpires x

/-- CELLSTOP_ASSERTED (R89). The level is an input: while the reset pin is asserted it alone follows. -/
def execCellstopAsserted (first : Arm) (s : State) : Host.Outcome State Fault Refusal :=
  onPart s fun p => if p.inReset then { p with cellstopPin := true } else p.step fun q => q.assertCellstop first

/-- CELLSTOP_RELEASED (R89): it changes no guard state. -/
def execCellstopReleased (s : State) : Host.Outcome State Fault Refusal :=
  onPart s fun p => if p.inReset then { p with cellstopPin := false } else p.step Part.releaseCellstop

/-- FRAME_FIGURES (R112). -/
def execFrameFigures (x : Arm) (s : State) : Host.Outcome State Fault Refusal :=
  onPart s fun p => p.step fun q => q.nextFigures x

/-- TEST_WINDOW_EXPIRY (R115). -/
def execTestWindowExpiry (x : Arm) (s : State) : Host.Outcome State Fault Refusal :=
  onPart s fun p => p.step fun q => q.testWindowExpires x

/-- WAIT_TIMER_EXPIRY (R56). -/
def execWaitTimerExpiry (x : Arm) (s : State) : Host.Outcome State Fault Refusal :=
  onPart s fun p => p.step fun q => q.waitExpires x

end Sys2Proof.Machine
end

