-- ==== Sys2Proof/Machine/LinkCommands.lean ====
section
/-! DEFINITION. The commands of the drive links: received bytes, the byte-gap timer, the line, the hold-repeat timer
(R94, R121 to R138). -/

namespace Sys2Proof.Machine

/-- The byte-gap limit, in µs (R127). -/
def byteGapUs : Nat := 1000

/-- The depth of the receive FIFO (R131). -/
def fifoDepth : Nat := 8

/-- The length of a position frame (R127, R183). -/
def frameLength : Nat := 13

/-- A byte taken in HUNT (R125, R126). -/
def Part.rxHunt (p : Part) (x : Arm) (b : Byte) : Part :=
  if b = startByte then
    p.updLink x fun l => { l with phase := .frame, received := [b], gapTimer := timerAt p.now byteGapUs }
  else if b = estopByte then (p.setCause .link).escalate x .estop
  else p

/-- The frame being received is discarded with cause LINK (R127, R128). -/
def Part.discardFrame (p : Part) (x : Arm) : Part := (p.updLink x Link.dropPartial).setCause .link

/-- A complete frame: CRC, room in the FIFO, entry with its arrival time (R129, R131). -/
def Part.acceptFrame (p : Part) (x : Arm) (bytes : List Byte) : Part :=
  if frameCrcOk bytes ∧ (p.arm x).link.fifo.length < fifoDepth then
    p.updLink x fun l => { l.dropPartial with fifo := l.fifo ++ [readFrame bytes p.now] }
  else p.discardFrame x

/-- A byte taken in FRAME (R127). -/
def Part.rxFrame (p : Part) (x : Arm) (b : Byte) : Part :=
  let bytes := (p.arm x).link.received ++ [b]
  if bytes.length = 2 ∧ b ≠ positionKind then p.discardFrame x
  else if frameLength ≤ bytes.length then p.acceptFrame x bytes
  else p.updLink x fun l => { l with received := bytes, gapTimer := timerAt p.now byteGapUs }

/-- The receiver takes a byte (R122, R124). -/
def Part.rxByte (p : Part) (x : Arm) (b : Byte) (framingError : Bool) : Part :=
  let l := (p.arm x).link
  match l.state, l.phase with
  | .quiet, _ => p
  | .active, .hunt => if framingError then p else p.rxHunt x b
  | .active, .frame => if framingError then p.discardFrame x else p.rxFrame x b

/-- The byte-gap timer expires in FRAME (R128). -/
def Part.byteGapExpires (p : Part) (x : Arm) : Part :=
  if (p.arm x).link.phase = .frame ∧ timerDue p.now (p.arm x).link.gapTimer then p.discardFrame x else p

/-- The last stop bit of the frame on the line has gone; the transmitter takes the next (R133). -/
def Part.lineFree (p : Part) (x : Arm) : Part :=
  p.updLink x fun l => Link.transmit { l with onLine := none }

/-- The hold-repeat timer expires while x is HELD: HOLD if the place is empty, and another interval (R94). -/
def Part.holdRepeats (p : Part) (x : Arm) : Part :=
  if (p.arm x).guard.state = .held ∧ timerDue p.now (p.arm x).link.repeatTimer then
    p.updLink x fun l =>
      { (if l.stopPlace = none then l.queueStop .hold else l) with
        repeatTimer := p.afterMs p.figures.holdRepeat }
  else p

/-! ## The commands -/

/-- RX_BYTE (R124). -/
def execRxByte (x : Arm) (value : Byte) (framingError : Bool) (s : State) : Host.Outcome State Fault Refusal :=
  onPart s fun p => p.step fun q => q.rxByte x value framingError

/-- BYTE_GAP_EXPIRY (R128). -/
def execByteGapExpiry (x : Arm) (s : State) : Host.Outcome State Fault Refusal :=
  onPart s fun p => p.step fun q => q.byteGapExpires x

/-- LINE_FREE (R133). -/
def execLineFree (x : Arm) (s : State) : Host.Outcome State Fault Refusal :=
  onPart s fun p => p.step fun q => q.lineFree x

/-- HOLD_REPEAT_EXPIRY (R94). -/
def execHoldRepeatExpiry (x : Arm) (s : State) : Host.Outcome State Fault Refusal :=
  onPart s fun p => p.step fun q => q.holdRepeats x

end Sys2Proof.Machine
end

