-- ==== Sys2Proof/Machine/MemoryCommands.lean ====
section
/-! DEFINITION. The commands of host memory, PCI Express and the engine's timers (R143, R144, R148, R151, R154, R170,
R182). -/

namespace Sys2Proof.Machine

/-- No operation is in progress any more. -/
def Part.opDone (p : Part) : Part := { p with inProgress := none }

/-- The setup read completes (R170); that of an abandoned load is ignored (R171). -/
def Part.setupReadDone (p : Part) (data : BitVec 1024) (first : Arm) : Part :=
  match p.inProgress with
  | some r =>
    if r.op = .setupRead then
      if r.abandoned ∨ p.engine ≠ .loading then p.opDone else p.opDone.checkSetup data first
    else p
  | none => p

/-- A read of a next field completes (R144 step 3); outside SERVING its data is ignored (R153). -/
def Part.nextReadDone (p : Part) (next : Byte) : Part :=
  match p.inProgress with
  | some ⟨.nextRead x _, _, _, _, _⟩ => if p.engine = .serving then p.opDone.takeNext x next else p.opDone
  | _ => p

/-- A read of a candidate slot completes (R144 step 5, R145); outside SERVING its data is ignored (R153). -/
def Part.slotReadDone (p : Part) (data : BitVec 512) : Part :=
  match p.inProgress with
  | some ⟨.slotRead x slot, _, _, _, _⟩ =>
    if p.engine = .serving then p.opDone.takeCandidate x slot (readSlot data) else p.opDone
  | _ => p

/-- The write of x's DONE stage has completed: cause VERDICT, no open slot, status block due, and while SERVING a
walk of x (R148). -/
def Part.slotDone (p : Part) (x : Arm) : Part :=
  (((p.setCause .verdict).updChain x fun c => { c with openSlot := none }).markDue x).prompt x

/-- A write completes: its bytes are in host memory (R148, R150). -/
def Part.writeDone (p : Part) : Part :=
  match p.inProgress with
  | some r =>
    if r.op.isRead then p
    else
      match r.op with
      | .stageWrite x _ .done => (p.landWrite r).opDone.slotDone x
      | _ => (p.landWrite r).opDone
  | none => p

/-- A read has not completed within its limit (R151). -/
def Part.readTimedOut (p : Part) : Part :=
  match p.inProgress with
  | some r => if timerDue p.now r.limit then p.failRunning fun _ => .readTimeout else p
  | none => p

/-- A condition of the PCI Express interface is lost: an operation in progress fails (R182). -/
def Part.losePcie (p : Part) (c : PcieCondition) : Part :=
  let p :=
    match c with
    | .busMastering => { p with busMaster := false }
    | .link => { p with pcieUp := false }
  p.failRunning MemOp.faultKind

/-- An operation completes unsuccessfully (R151): error status or poisoned data on a read; bus mastering disabled
or the link down on any operation, which is then the state of that input (log 16). -/
def Part.memoryFails (p : Part) (f : MemoryFailure) : Part :=
  match p.inProgress with
  | none => p
  | some r =>
    match f with
    | .errorStatus => if r.op.isRead then p.failRunning MemOp.faultKind else p
    | .poisonedData => if r.op.isRead then p.failRunning MemOp.faultKind else p
    | .busMasteringDisabled => p.losePcie .busMastering
    | .linkDown => p.losePcie .link

/-- The poll timer expires: both arms are prompted and it restarts (R143). -/
def Part.pollExpires (p : Part) (first : Arm) : Part :=
  if p.engine = .serving ∧ timerDue p.now p.pollTimer then
    { p with pollTimer := p.afterMs p.figures.pollInterval }.promptBoth first
  else p

/-- x's changed mark makes its status block publish due (R154). -/
def Part.publishChanged (p : Part) (x : Arm) : Part :=
  if (p.arm x).chain.changed then p.markDue x else p

/-- The publish timer expires and restarts (R154). -/
def Part.publishExpires (p : Part) : Part :=
  if p.engine = .serving ∧ timerDue p.now p.publishTimer then
    ({ p with publishTimer := p.afterMs p.figures.publishInterval }.publishChanged .a).publishChanged .b
  else p

/-- The host sets the two enables in configuration space; disabling bus mastering fails an operation in progress
(R151, R181, R182). -/
def Part.writeConfiguration (p : Part) (busMaster messageEnable : Bool) : Part :=
  let p := { p with msgEnable := messageEnable, busMaster := busMaster }
  if busMaster then p else p.failRunning MemOp.faultKind

/-- The link-up indication changes; going down fails an operation in progress (R151, R182). -/
def Part.pcieLink (p : Part) (up : Bool) : Part :=
  if up then { p with pcieUp := true } else p.losePcie .link

/-! ## The commands -/

/-- SETUP_READ_COMPLETE (R170). -/
def execSetupReadComplete (data : BitVec 1024) (first : Arm) (s : State) : Host.Outcome State Fault Refusal :=
  onPart s fun p => p.step fun q => q.setupReadDone data first

/-- NEXT_READ_COMPLETE (R144). -/
def execNextReadComplete (next : Byte) (s : State) : Host.Outcome State Fault Refusal :=
  onPart s fun p => p.step fun q => q.nextReadDone next

/-- SLOT_READ_COMPLETE (R144, R145). -/
def execSlotReadComplete (data : BitVec 512) (s : State) : Host.Outcome State Fault Refusal :=
  onPart s fun p => p.step fun q => q.slotReadDone data

/-- MEMORY_WRITE_COMPLETE (R148, R150). -/
def execMemoryWriteComplete (s : State) : Host.Outcome State Fault Refusal :=
  onPart s fun p => p.step Part.writeDone

/-- READ_TIMEOUT (R151). -/
def execReadTimeout (s : State) : Host.Outcome State Fault Refusal :=
  onPart s fun p => p.step Part.readTimedOut

/-- MEMORY_FAULT (R151). -/
def execMemoryFault (failure : MemoryFailure) (s : State) : Host.Outcome State Fault Refusal :=
  onPart s fun p => p.step fun q => q.memoryFails failure

/-- PCIE_CONDITION_LOST (R182). -/
def execPcieConditionLost (condition : PcieCondition) (s : State) : Host.Outcome State Fault Refusal :=
  onPart s fun p => p.step fun q => q.losePcie condition

/-- POLL_TIMER_EXPIRY (R143). -/
def execPollTimerExpiry (first : Arm) (s : State) : Host.Outcome State Fault Refusal :=
  onPart s fun p => p.step fun q => q.pollExpires first

/-- PUBLISH_TIMER_EXPIRY (R154). -/
def execPublishTimerExpiry (s : State) : Host.Outcome State Fault Refusal :=
  onPart s fun p => p.step Part.publishExpires

/-- CONFIGURATION_SPACE_WRITE (R151, R181). -/
def execConfigurationSpaceWrite (busMaster messageEnable : Bool) (s : State) :
    Host.Outcome State Fault Refusal :=
  onPart s fun p => p.step fun q => q.writeConfiguration busMaster messageEnable

/-- PCIE_LINK_UP (R182). The indication is an input: while the reset pin is asserted its level alone follows. -/
def execPcieLinkUp (up : Bool) (s : State) : Host.Outcome State Fault Refusal :=
  onPart s fun p => if p.inReset then { p with pcieUp := up } else p.step fun q => q.pcieLink up

end Sys2Proof.Machine
end

