-- ==== Sys2Proof/Machine/Dispatch.lean ====
section
/-! DEFINITION. One arm per command, each one call of its meaning. -/

namespace Sys2Proof.Machine

/-- The effect of a command on everything but the queue. -/
def exec (i : Instr) (s : State) : Host.Outcome State Fault Refusal :=
  match i with
  | .pinReset => Sys2Proof.Machine.execPinReset s
  | .serveSet => Sys2Proof.Machine.execServeSet s
  | .serveClear first => Sys2Proof.Machine.execServeClear first s
  | .holdXWrite x value => Sys2Proof.Machine.execHoldXWrite x value s
  | .partReset => Sys2Proof.Machine.execPartReset s
  | .armResetX x => Sys2Proof.Machine.execArmResetX x s
  | .causeWrite value => Sys2Proof.Machine.execCauseWrite value s
  | .causeMaskWrite value => Sys2Proof.Machine.execCauseMaskWrite value s
  | .nudge value first => Sys2Proof.Machine.execNudge value first s
  | .exchangeBaseWrite which value => Sys2Proof.Machine.execExchangeBaseWrite which value s
  | .registerWrite offset size value => Sys2Proof.Machine.execRegisterWrite offset size value s
  | .setupReadComplete data first => Sys2Proof.Machine.execSetupReadComplete data first s
  | .nextReadComplete next => Sys2Proof.Machine.execNextReadComplete next s
  | .slotReadComplete data => Sys2Proof.Machine.execSlotReadComplete data s
  | .memoryWriteComplete => Sys2Proof.Machine.execMemoryWriteComplete s
  | .readTimeout => Sys2Proof.Machine.execReadTimeout s
  | .memoryFault failure => Sys2Proof.Machine.execMemoryFault failure s
  | .pcieConditionLost condition => Sys2Proof.Machine.execPcieConditionLost condition s
  | .pollTimerExpiry first => Sys2Proof.Machine.execPollTimerExpiry first s
  | .publishTimerExpiry => Sys2Proof.Machine.execPublishTimerExpiry s
  | .rxByte x value framingError => Sys2Proof.Machine.execRxByte x value framingError s
  | .byteGapExpiry x => Sys2Proof.Machine.execByteGapExpiry x s
  | .lineFree x => Sys2Proof.Machine.execLineFree x s
  | .holdRepeatExpiry x => Sys2Proof.Machine.execHoldRepeatExpiry x s
  | .monitorTakeFrame x => Sys2Proof.Machine.execMonitorTakeFrame x s
  | .staleExpiry x => Sys2Proof.Machine.execStaleExpiry x s
  | .lossExpiry x => Sys2Proof.Machine.execLossExpiry x s
  | .envelopeReport x => Sys2Proof.Machine.execEnvelopeReport x s
  | .frameNotice x => Sys2Proof.Machine.execFrameNotice x s
  | .admissionAnswer x => Sys2Proof.Machine.execAdmissionAnswer x s
  | .holdAckExpiry x => Sys2Proof.Machine.execHoldAckExpiry x s
  | .admitWindowExpiry x => Sys2Proof.Machine.execAdmitWindowExpiry x s
  | .cellstopAsserted first => Sys2Proof.Machine.execCellstopAsserted first s
  | .cellstopReleased => Sys2Proof.Machine.execCellstopReleased s
  | .frameFigures x => Sys2Proof.Machine.execFrameFigures x s
  | .testWindowExpiry x => Sys2Proof.Machine.execTestWindowExpiry x s
  | .waitTimerExpiry x => Sys2Proof.Machine.execWaitTimerExpiry x s
  | .resetPinAsserted => Sys2Proof.Machine.execResetPinAsserted s
  | .configurationSpaceWrite busMaster messageEnable => Sys2Proof.Machine.execConfigurationSpaceWrite busMaster messageEnable s
  | .pcieLinkUp up => Sys2Proof.Machine.execPcieLinkUp up s

end Sys2Proof.Machine
end

