-- ==== Sys2Proof/Machine/Idle.lean ====
section
/-! DEFINITION. What an empty queue does: the µs counter counts, and the steps the part then owes itself join the
queue as commands (log 2). -/

namespace Sys2Proof.Machine

/-- `c` when `owed`. -/
def owe (owed : Bool) (c : Instr) : List Instr := if owed then [c] else []

/-- x's hand-offs that wait for their block (R26, R69, R102), one of each kind. -/
def Part.owedHandOffs (p : Part) (x : Arm) : List Instr :=
  let r := p.arm x
  owe (!r.reports.isEmpty) (.envelopeReport x) ++ owe (!r.notices.isEmpty) (.frameNotice x) ++
    owe (!r.answers.isEmpty) (.admissionAnswer x) ++ owe (!r.figures.isEmpty) (.frameFigures x)

/-- x's timers that are due: wait (R56), hold-ack (R96), admit window (R104), test window (R115), byte gap (R128),
hold repeat (R94), stale and loss (R73, R74). -/
def Part.owedExpiries (p : Part) (x : Arm) : List Instr :=
  let r := p.arm x
  owe (match r.waiting with
    | some w => timerDue p.now w.timer
    | none => false) (.waitTimerExpiry x) ++
  owe (timerDue p.now r.guard.ackTimer) (.holdAckExpiry x) ++
  owe (timerDue p.now r.guard.windowTimer) (.admitWindowExpiry x) ++
  owe (timerDue p.now r.test.timer) (.testWindowExpiry x) ++
  owe (timerDue p.now r.link.gapTimer) (.byteGapExpiry x) ++
  owe (timerDue p.now r.link.repeatTimer) (.holdRepeatExpiry x) ++
  owe (!r.monitor.evaluationOwed && timerDue p.now r.monitor.staleTimer) (.staleExpiry x) ++
  owe (!r.monitor.evaluationOwed && timerDue p.now r.monitor.lossTimer) (.lossExpiry x)

/-- x's monitor has a frame to take (R64). -/
def Part.owedFrame (p : Part) (x : Arm) : List Instr :=
  owe (!(p.arm x).link.fifo.isEmpty && p.guarding && !p.frameOpen x) (.monitorTakeFrame x)

/-- A new level of the CELLSTOP input has lasted through the filter (R89). -/
def Part.owedCellstop (p : Part) : List Instr :=
  owe (timerDue p.now p.cellstopFilter)
    (if p.cellstopPin then .cellstopAsserted .a else .cellstopReleased)

/-- The engine's timers that are due (R143, R151, R154). -/
def Part.owedEngine (p : Part) : List Instr :=
  owe (match p.inProgress with
    | some r => timerDue p.now r.limit
    | none => false) .readTimeout ++
  owe (timerDue p.now p.publishTimer) .publishTimerExpiry ++
  owe (timerDue p.now p.pollTimer) (.pollTimerExpiry .a)

/-- The steps the part owes itself, in the order in which the model places them (log 2). -/
def Part.idleEvents (p : Part) : List Instr :=
  p.owedHandOffs .a ++ p.owedHandOffs .b ++ p.owedExpiries .a ++ p.owedExpiries .b ++
    p.owedFrame .a ++ p.owedFrame .b ++ p.owedCellstop ++ p.owedEngine

/-- One microsecond passes; the counter stands while the reset pin is asserted (R176). -/
def Part.tick (p : Part) : Part := if p.inReset then p else { p with now := p.now + 1 }

/-- What an empty queue does to the state (log 2). -/
def State.idle (s : State) : State :=
  { part := s.part.tick
    pending := if s.part.inReset then s.pending else s.pending ++ s.part.tick.idleEvents }

end Sys2Proof.Machine
end

