-- ==== Sys2Proof/Safety.lean ====
section
/-! DEFINITION. What a lawful state is, in the words the rules use, and the view of a state that the end of a step
leaves alone. -/

namespace Sys2Proof.Machine

/-! ## Laws of one arm -/

/-- The arm guard's law: reasons against state (R92), the phase and the two timers (R86), the admission fields
(R86, R104), no admission outside SERVING (R100) and no arm in service outside SERVING and FAULTED (R87, R100), and
the capped flag (R78). -/
abbrev Part.guardLaw (p : Part) (x : Arm) : Prop :=
  let g := (p.arm x).guard
  (g.state = .running → g.reasons = noReasons) ∧
  (g.state = .held → g.reasons ≠ noReasons) ∧
  (g.state = .held ↔ g.phase ≠ .none) ∧
  (g.ackTimer.isSome = true ↔ g.phase = .awaiting) ∧
  (g.state = .admitting ↔ g.prior.isSome = true) ∧
  (g.prior = none ∨ g.prior = some .offline ∨ g.prior = some .stopped) ∧
  (g.state = .admitting ↔ g.admissionSlot.isSome = true) ∧
  (g.state = .admitting ↔ g.windowTimer.isSome = true) ∧
  (g.state ≠ .admitting → g.count = 0 ∧ g.unpaired = []) ∧
  (g.state = .admitting → p.engine = .serving) ∧
  (g.state.inService = true → p.guarding = true) ∧
  ((p.arm x).monitor.capped = true → g.state.inService = true)

/-- The stop test unit's law: a test runs only on a HELD arm with TEST in its set (R111, R114 to R117), and an IDLE
unit holds nothing of a test (R108). -/
abbrev Part.testLaw (p : Part) (x : Arm) : Prop :=
  let u := (p.arm x).test
  (u.phase = .braking → (p.arm x).guard.state = .held ∧ (p.arm x).guard.reasons.test = true ∧
    u.slot.isSome = true ∧ u.timer.isSome = true ∧ u.slow ≤ 1) ∧
  (u.phase = .idle → u.slot = none ∧ u.p0 = originPos ∧ u.t0 = 0 ∧ u.v0 = 0 ∧ u.slow = 0 ∧ u.timer = none)

/-- The drive link's law (R122, R123, R94, R131, R133). While the reset pin is asserted the lines are idle
whatever waits (R176). -/
abbrev Part.linkLaw (p : Part) (x : Arm) : Prop :=
  let l := (p.arm x).link
  (l.state = .active ↔ p.guarding = true) ∧
  (l.phase = .hunt ↔ l.received = []) ∧ l.received.length ≤ 12 ∧
  (l.gapTimer.isSome = true ↔ l.phase = .frame) ∧
  l.fifo.length ≤ 8 ∧
  (l.repeatTimer.isSome = true ↔ (p.arm x).guard.state = .held) ∧
  (l.state = .quiet → l.fifo = [] ∧ l.stopPlace = none ∧ l.speedPlace = none ∧ l.phase = .hunt) ∧
  (p.inReset = false → l.state = .active → l.onLine = none → l.stopPlace = none ∧ l.speedPlace = none)

/-- The stop line's law (R88): released exactly when the engine is SERVING or FAULTED and the guard is RUNNING or
HELD; while the reset pin is asserted it is asserted (R176). -/
abbrev Part.stopLineLaw (p : Part) (x : Arm) : Prop :=
  if p.inReset then (p.arm x).guard.stopAsserted = true
  else (p.arm x).guard.stopAsserted = !p.lineReleased x

/-! ## Laws of the engine -/

/-- SERVE, the setup figures and the timers follow the engine state (R169, R168, R143, R154); the field number
belongs to a refusal (R170); outside an operation nothing waits to be started (R150, R155, R173); the operation in
progress is at the base plus its offset (R139), and in IDLE and FAULTED it is the read of an abandoned load (R171). -/
abbrev Part.engineLaw (p : Part) : Prop :=
  (p.serve = true ↔ p.engine = .loading ∨ p.engine = .serving ∨ p.engine = .faulted) ∧
  (p.setup.isSome = true ↔ p.engine = .serving ∨ p.engine = .closing ∨ p.engine = .faulted) ∧
  (p.publishTimer.isSome = true ↔ p.engine = .serving) ∧
  (p.pollTimer.isSome = true → p.engine = .serving) ∧
  (p.fieldNumber ≤ 34) ∧ (p.fieldNumber ≠ 0 → p.outcome = .refused) ∧
  (p.engine = .idle ∨ p.engine = .faulted → p.opQueue = []) ∧
  ∀ r, p.inProgress = some r →
    (r.abandoned = false → r.addr = p.areaAddr r.op.offset) ∧
      (p.engine = .idle ∨ p.engine = .faulted → r.abandoned = true)

/-- Out of reset the filter of CELLSTOP runs exactly while the guards do not see the level of the input (R89). -/
abbrev Part.inputLaw (p : Part) : Prop :=
  p.inReset = false → (p.cellstopFilter.isSome = true ↔ p.cellstopPin ≠ p.cellstop)

/-- What every step leaves behind: no operation waits while none is in progress, CLOSING has one in progress, and
every status block that is due while SERVING waits in the queue (R150, R155, R173). -/
abbrev Part.settledLaw (p : Part) : Prop :=
  (p.inProgress = none → p.opQueue = [] ∧ p.engine ≠ .closing) ∧
  (p.engine = .serving →
    (p.armA.chain.publishDue = true → p.armA.chain.blockQueued = true) ∧
    (p.armB.chain.publishDue = true → p.armB.chain.blockQueued = true))

/-- Open slots are cursor slots, and the two arms' cursors differ (R142). -/
abbrev Part.chainLaw (p : Part) : Prop :=
  (p.armA.chain.openSlot.isSome = true → p.armA.chain.openSlot = p.armA.chain.cursor) ∧
  (p.armB.chain.openSlot.isSome = true → p.armB.chain.openSlot = p.armB.chain.cursor) ∧
  (p.armA.chain.cursor.isSome = true → p.armA.chain.cursor ≠ p.armB.chain.cursor)

/-- The figures in force passed the checks of R170, and each learned deceleration lies between 500 and the arm's
configured deceleration (R109). -/
abbrev Part.decelerationLaw (p : Part) : Prop :=
  p.setup.isSome = true →
    p.figures.valid = true ∧ 500 ≤ p.armA.test.alrn ∧ p.armA.test.alrn ≤ p.figures.armA.acfg ∧
      500 ≤ p.armB.test.alrn ∧ p.armB.test.alrn ≤ p.figures.armB.acfg

/-- Bits of the registers that no table names read 0, and the base is a multiple of 4096 (R177, R139, R180). -/
abbrev Part.registerLaw (p : Part) : Prop :=
  p.cause &&& ~~~causeBits = 0 ∧ p.causeMask &&& ~~~causeBits = 0 ∧ p.baseLo &&& 0xFFF = 0

/-! ## Laws of the cell table -/

/-- The canonical form of the cell table: cells strictly rising, every listed cell owned and held, its holder set
strictly rising with numbers 0 to 8 (R19). -/
abbrev CellTable.wf (t : CellTable) : Prop :=
  sparseWf t.cells = true ∧
  ∀ e ∈ t.cells, e.2.owner ≠ none ∧ e.2.holders ≠ [] ∧ e.2.holders.Pairwise (· < ·) ∧ ∀ n ∈ e.2.holders, n ≤ 8

/-- The cell table's law (R19, R20): a cell's owner is NONE exactly when nothing holds it, and numbered claim n of
arm x holds exactly the cells of its box while it is GRANTED or LEAVING. -/
def Part.tableLaw (p : Part) : Prop :=
  p.table.wf ∧ p.armA.claims.length = 8 ∧ p.armB.claims.length = 8 ∧
  ∀ (x : Arm) (n c : Nat), n < 8 →
    ((p.table.owner c = some x ∧ n ∈ (p.table.entry c).holders) ↔
      ((p.claim x n).inForce = true ∧ c ∈ p.table.cellsOf (some (p.claim x n).box)))

/-- A cell box lies within the cell counts of a table, on the two axes that number its cells (R10, R36). -/
abbrev CellBox.within (b : CellBox) (t : CellTable) : Prop := b.xhi < t.nx ∧ b.yhi < t.ny

/-- The cell boxes of an arm's reports, answers and unpaired answers that are on their way (R26, R31, R102). -/
def ArmPart.boxes (r : ArmPart) : List CellBox :=
  (r.reports.filterMap fun a => a.cells) ++ (r.answers.filterMap fun a => a.cells) ++
    r.guard.unpaired.filterMap fun h =>
      match h with
      | .answer a => a.cells
      | .notice _ => none

/-- Arm x's park law: the park count is the number of cells of owner x whose holder set contains 8 (R21), no two claims
in force of x carry one tag (R20), and every cell box that a claim, a pending RESERVE or a hand-off of x brings to the
table lies within its counts, which are those of the figures in force while the blocks guard (R10, R11, R36). -/
abbrev Part.parkLaw (p : Part) (x : Arm) : Prop :=
  let r := p.arm x
  r.parkCount = (p.table.parkCells x).length ∧
  (∀ m, m < 8 → ∀ n, n < 8 → m ≠ n → (p.claim x m).inForce = true → (p.claim x n).inForce = true →
    (p.claim x m).tag ≠ (p.claim x n).tag) ∧
  (∀ n, n < 8 → (p.claim x n).inForce = true → (p.claim x n).box.within p.table) ∧
  (∀ w ∈ r.waiting.toList, w.box.within p.table) ∧
  (p.guarding = true → p.table.nx = p.figures.nx ∧ p.table.ny = p.figures.ny ∧ 0 < p.figures.nx ∧
    0 < p.figures.ny ∧ ∀ b ∈ r.boxes, b.within p.table)

/-! ## What the end of a step leaves alone -/

/-- One arm's share without the marks and the edition of its status block and without the level of its stop line:
those the end of a step may move (R155, R88). -/
def ArmPart.view (r : ArmPart) : ArmPart :=
  { r with
    chain := { r.chain with publishDue := false, changed := false, blockQueued := false, edition := 0 }
    guard := { r.guard with stopAsserted := true } }

/-- The part without what the end of a step may move: the engine's queue and operation in progress, the messages
sent, and each arm's marks and stop line. Every register, claim, cell, byte of memory and timer is in it. -/
def Part.view (p : Part) : Part :=
  { p with armA := p.armA.view, armB := p.armB.view, opQueue := [], inProgress := none, messages := 0 }

/-- An operation that has to start now can: one is in progress already, or the interface carries it (R151, R182). -/
abbrev Part.carries (p : Part) : Prop := p.inProgress.isSome = true ∨ (p.busMaster = true ∧ p.pcieUp = true)

/-- Both stop lines are at their level. -/
abbrev Part.linesLaw (p : Part) : Prop := p.stopLineLaw .a ∧ p.stopLineLaw .b

/-- A state between two steps of a part that is out of reset (R150, R155, R88). -/
abbrev Part.steady (p : Part) : Prop := p.inReset = false ∧ p.settledLaw ∧ p.linesLaw

/-- The interface carries operations: bus mastering is enabled and the link is up (R151). -/
abbrev Part.busUp (p : Part) : Prop := p.busMaster = true ∧ p.pcieUp = true

/-- The operation in progress and the ones that wait, in queue order. -/
def Part.ops (p : Part) : List MemOp := (p.inProgress.map fun r => r.op).toList ++ p.opQueue

/-- The read that a prompt of x queues, if any, by steps 1 to 4 of a walk (R143, R144). -/
def Part.promptReads (p : Part) (x : Arm) : List MemOp :=
  let c := (p.arm x).chain
  if c.walk ≠ .none ∨ c.openSlot.isSome = true then []
  else
    match c.cursor with
    | some slot => [.nextRead x slot]
    | none => if p.isCursor (p.figures.entry x) then [] else [.slotRead x (p.figures.entry x)]

/-- The status block write that a step adds for an arm whose block is due: none when one waits already (R155). -/
def Part.statusOps (p : Part) (x : Arm) : List MemOp :=
  if (p.arm x).chain.blockQueued then [] else [.statusWrite x]

/-- The operations that answer a request: result figures with the final time, then DONE (R148). -/
def answerOps (x : Arm) (slot : Nat) (time : Word) (v : Verdict) (f : ResultFigures) : List MemOp :=
  [.figureWrite x slot 0x24 (le32 time.toNat ++ byte1 v.code ++ f.bytes), .stageWrite x slot .done]

/-- The operations of a taking: the taken time, then TAKEN (R145). -/
def takingOps (x : Arm) (slot : Nat) (time : Word) : List MemOp :=
  [.figureWrite x slot 0x20 (le32 time.toNat), .stageWrite x slot .taken]

/-- The operations of a waiting notice: its figures, then WAITING (R147). -/
def noticeOps (x : Arm) (slot : Nat) (f : ResultFigures) : List MemOp :=
  [.figureWrite x slot 0x29 f.bytes, .stageWrite x slot .waiting]

/-- Host memory once the operation in progress is given up: with none, or with a read, it is as it was; of a write some
number of its leading bytes is there, and every address outside the bytes of the write reads as before (R151, R175;
log 7). -/
def Part.cutOff (p : Part) (mem : List Host.Cell) : Prop :=
  ((∀ r, p.inProgress = some r → r.op.isRead = true) → mem = p.hostMem) ∧
  ∀ r, p.inProgress = some r → r.op.isRead = false →
    (∃ n, mem = memWrite p.hostMem r.addr (r.bytes.take n)) ∧
    ∀ a : Addr, (∀ i, i < r.bytes.length → a ≠ r.addr + BitVec.ofNat 64 i) → memRead mem a = memRead p.hostMem a

/-- How many free values giving up the operation in progress uses: one for a write (log 7). -/
def Part.cutOffUses (p : Part) : Nat :=
  match p.inProgress with
  | some r => if r.op.isRead then 0 else 1
  | none => 0

/-- The steps the part owes itself at this moment, by command (log 2): the hand-offs that wait (R26, R69, R102), the
timers that are due (R56, R73, R74, R94, R96, R104, R115, R128, R143, R151, R154), a frame to take (R64) and a level of
CELLSTOP that has lasted (R89). -/
def Part.owes (p : Part) : Instr → Prop
  | .envelopeReport x => (p.arm x).reports ≠ []
  | .frameNotice x => (p.arm x).notices ≠ []
  | .admissionAnswer x => (p.arm x).answers ≠ []
  | .frameFigures x => (p.arm x).figures ≠ []
  | .waitTimerExpiry x => ∃ w, (p.arm x).waiting = some w ∧ timerDue p.now w.timer = true
  | .holdAckExpiry x => timerDue p.now (p.arm x).guard.ackTimer = true
  | .admitWindowExpiry x => timerDue p.now (p.arm x).guard.windowTimer = true
  | .testWindowExpiry x => timerDue p.now (p.arm x).test.timer = true
  | .byteGapExpiry x => timerDue p.now (p.arm x).link.gapTimer = true
  | .holdRepeatExpiry x => timerDue p.now (p.arm x).link.repeatTimer = true
  | .staleExpiry x =>
    (p.arm x).monitor.evaluationOwed = false ∧ timerDue p.now (p.arm x).monitor.staleTimer = true
  | .lossExpiry x =>
    (p.arm x).monitor.evaluationOwed = false ∧ timerDue p.now (p.arm x).monitor.lossTimer = true
  | .monitorTakeFrame x => p.guarding = true ∧ (p.arm x).link.fifo ≠ [] ∧
    (p.arm x).monitor.evaluationOwed = false ∧ (p.arm x).figures = []
  | .cellstopAsserted first => first = .a ∧ p.cellstopPin = true ∧ timerDue p.now p.cellstopFilter = true
  | .cellstopReleased => p.cellstopPin = false ∧ timerDue p.now p.cellstopFilter = true
  | .readTimeout => ∃ r, p.inProgress = some r ∧ timerDue p.now r.limit = true
  | .publishTimerExpiry => timerDue p.now p.publishTimer = true
  | .pollTimerExpiry first => first = .a ∧ timerDue p.now p.pollTimer = true
  | .pinReset | .serveSet | .serveClear _ | .holdXWrite _ _ | .partReset | .armResetX _ | .causeWrite _ => False
  | .causeMaskWrite _ | .nudge _ _ | .exchangeBaseWrite _ _ | .registerWrite _ _ _ | .setupReadComplete _ _ => False
  | .nextReadComplete _ | .slotReadComplete _ | .memoryWriteComplete | .memoryFault _ | .pcieConditionLost _ => False
  | .rxByte _ _ _ | .lineFree _ | .resetPinAsserted | .configurationSpaceWrite _ _ | .pcieLinkUp _ => False

/-- The result of a running test that is withdrawn: the verdict, v0 and alrn, no measured figures (R117, R119). -/
def TestUnit.withdrawnResult (u : TestUnit) : TestResult :=
  { verdict := .withdrawn, stopCause := .none, v0 := u.v0, distance := 0, elapsed := 0, reaction := 0, braking := 0
    measured := 0, alrn := u.alrn }

/-- The final writes of x's open request when it is withdrawn, none without one: a pending RESERVE with the figures of
its last evaluation (R58, R59), an admission (R104), a running test with its result (R117). -/
def Part.withdrawalOps (p : Part) (x : Arm) : List MemOp :=
  let r := p.arm x
  let answers := fun (slot : Nat) (f : ResultFigures) =>
    if p.engine = .serving ∧ r.chain.openSlot = some slot then answerOps x slot p.now .withdrawn f else []
  (match r.waiting with
  | some w => answers w.slot (.reserve none true (some w.box) w.count w.conflicts w.firstConflict w.since)
  | none => []) ++
  (match r.guard.state, r.guard.admissionSlot with
  | .admitting, some slot => answers slot .none
  | _, _ => []) ++
  match r.test.phase, r.test.slot with
  | .braking, some slot => answers slot (.test r.test.withdrawnResult)
  | _, _ => []

/-- The commands of R151 and R182 that make the operation `op` in progress fail. -/
def failingCommand (op : MemOp) (c : Instr) : Prop :=
  (op.isRead = true ∧ (c = .memoryFault .errorStatus ∨ c = .memoryFault .poisonedData)) ∨
  c = .memoryFault .busMasteringDisabled ∨ c = .memoryFault .linkDown ∨ c = .pcieConditionLost .busMastering ∨
  c = .pcieConditionLost .link ∨ (∃ msg, c = .configurationSpaceWrite false msg) ∨ c = .pcieLinkUp false

/-! ## What the rules make of one arm -/

/-- Bit of a cause flag in CAUSE (R180). -/
def causeBit (c : Cause) : Word := BitVec.twoPow 32 c.bit

/-- An arm that an escalation has stopped (R98, R82, R135, R116): the reasons stay, but TEST goes with a test that was
running, whose abort is the last result and leaves alrn. -/
def ArmPart.escalated (r : ArmPart) (cause : StopCause) : ArmPart :=
  let stopped := { r.guard with state := .stopped, stopCause := cause, phase := .none, ackTimer := none }
  let r := { r with
    guard := stopped
    monitor := { r.monitor with capped := false }
    link := { r.link with
      stopPlace := if r.link.stopPlace = some .resume then none else r.link.stopPlace
      speedPlace := if r.link.speedPlace = some .uncap then none else r.link.speedPlace
      repeatTimer := none } }
  if r.test.phase = .braking then
    { r with
      guard := { stopped with reasons := { stopped.reasons with test := false } }
      test := { resetTest r.test.alrn with
        last := some
          { verdict := .testAborted, stopCause := cause, v0 := r.test.v0, distance := 0, elapsed := 0
            reaction := 0, braking := 0, measured := 0, alrn := r.test.alrn }
        seen := r.test.seen } }
  else r

/-- An arm whose admission has ended without success (R104, R135): the prior state again, and on a return to STOPPED
the escalation as stop cause if there was one. -/
def ArmPart.admissionEnded (r : ArmPart) (prior : GuardState) (cause : Option StopCause) : ArmPart :=
  { r with
    guard := { r.guard with
      state := prior
      prior := none
      admissionSlot := none
      count := 0
      windowTimer := none
      unpaired := []
      stopCause := if prior = .stopped then cause.getD r.guard.stopCause else r.guard.stopCause }
    monitor := { r.monitor with capped := false }
    link := { r.link with
      stopPlace := if r.link.stopPlace = some .resume then none else r.link.stopPlace
      speedPlace := if r.link.speedPlace = some .uncap then none else r.link.speedPlace
      repeatTimer := none } }

/-- An arm that starts to hold, with reason `q` (R92, R94). -/
def Part.holdsArm (p : Part) (r : ArmPart) (q : HoldReason) : ArmPart :=
  { r with
    guard := { r.guard with
      state := .held
      reasons := r.guard.reasons.put true q
      phase := .awaiting
      ackTimer := some (p.now + BitVec.ofNat 32 (p.figures.holdAckWindow * 1000)) }
    link := { r.link.queueStop .hold with
      repeatTimer := some (p.now + BitVec.ofNat 32 (p.figures.holdRepeat * 1000)) } }

/-- An arm that resumes once reason `q` has left its set (R93). -/
def ArmPart.resumed (r : ArmPart) (q : HoldReason) : ArmPart :=
  { r with
    guard := { r.guard with
      state := .running
      reasons := r.guard.reasons.put false q
      phase := .none
      ackTimer := none }
    link := { r.link.queueStop .resume with repeatTimer := none } }

/-- The part with arm x's share replaced and further cause flags set. -/
def Part.withArm (p : Part) (x : Arm) (r : ArmPart) (flags : Word) : Part :=
  { p.updArm x (fun _ => r) with cause := p.cause ||| flags }

/-! ## What the rules make of claims and pending RESERVEs -/

/-- What a report makes of a claim in force that it does not release: entered and count 0 when it touches the claim;
one more, from 0 on a restart mark, for an untouched claim that is LEAVING or ON_LEAVE and entered (R33, R34). -/
def Claim.reported (c : Claim) (report : Report) : Claim :=
  let outside := if report.restart = true then 0 else c.outside
  if report.cells.any (fun b => c.box.shares b) = true then { c with entered := true, outside := 0 }
  else if c.state = .leaving ∨ (c.mode = .onLeave ∧ c.entered = true) then { c with outside := outside + 1 }
  else { c with outside := outside }

/-- The report releases the claim: it is in force, untouched and counted, and the count reaches the leave count
(R34). -/
abbrev Claim.leaves (c : Claim) (report : Report) (leaveCount : Nat) : Prop :=
  c.inForce = true ∧ report.cells.any (fun b => c.box.shares b) = false ∧
    (c.state = .leaving ∨ (c.mode = .onLeave ∧ c.entered = true)) ∧ leaveCount ≤ (c.reported report).outside

/-- The cells of the zone of y's pending RESERVE that stand in its way once the cells `freed` of the other arm have
become NONE and the cells `joined` have become that arm's (R45). -/
def Part.inTheWay (p : Part) (y : Arm) (freed joined : List Nat) (w : PendingReserve) : List Nat :=
  (p.table.cellsOf (some w.box)).filter fun c =>
    (p.table.owner c == some y.other && !freed.contains c) || joined.contains c

/-- The pending RESERVE of y that the re-evaluation grants: some cell has become NONE and none stands in its way
(R54). -/
def Part.regranted (p : Part) (y : Arm) (freed joined : List Nat) : Option PendingReserve :=
  (p.arm y).waiting.filter fun w => !freed.isEmpty && (p.inTheWay y freed joined w).isEmpty

/-- The cells of the zone that the re-evaluation grants to y. -/
def Part.regrantedCells (p : Part) (y : Arm) (freed joined : List Nat) : List Nat :=
  p.table.cellsOf ((p.regranted y freed joined).map fun w => w.box)

/-- Record k of y can take the grant of its pending RESERVE, and the RESERVE's slot is open: what R43, R49 and R142
say of every pending RESERVE. -/
abbrev Part.grantable (p : Part) (y : Arm) (k : Nat) : Prop :=
  ∀ w, (p.arm y).waiting = some w → p.engine = .serving ∧ (p.arm y).chain.openSlot = some w.slot ∧
    k < 8 ∧ (p.claim y k).inForce = false ∧ (∀ m, m < k → (p.claim y m).inForce = true) ∧
    ∀ m, m < 8 → (p.claim y m).inForce = true → (p.claim y m).tag ≠ w.tag

/-- The final writes of the grant that a re-evaluation makes (R54, R61). -/
def Part.regrantOps (p : Part) (y : Arm) (k : Nat) (freed joined : List Nat) : List MemOp :=
  match p.regranted y freed joined with
  | some w => answerOps y w.slot p.now .granted (.reserve (some k) true (some w.box) w.count 0 none w.since)
  | none => []

/-- From p to q the pending RESERVE of y is re-evaluated, if cells have become NONE: granted into record k, which joins
every cell of the zone, or pending with the figures of this evaluation; nothing else of y changes (R54). -/
def Part.regrants (p q : Part) (y : Arm) (k : Nat) (freed joined : List Nat) : Prop :=
  (match p.regranted y freed joined with
  | some w =>
    (q.arm y).waiting = none ∧
    q.claim y k = { state := .granted, tag := w.tag, mode := w.mode, box := w.box, count := w.count, entered := false
                    outside := 0, granted := p.now, slot := w.slot } ∧
    (∀ m, m < 8 → m ≠ k → q.claim y m = p.claim y m) ∧
    ∀ c ∈ p.table.cellsOf (some w.box), q.table.owner c = some y ∧
      ∀ m, m ∈ (q.table.entry c).holders ↔ m = k ∨ (p.table.owner c = some y ∧ m ∈ (p.table.entry c).holders)
  | none =>
    (q.arm y).claims = (p.arm y).claims ∧
    (q.arm y).waiting =
      if freed = [] then (p.arm y).waiting
      else (p.arm y).waiting.map fun w => { w with
        conflicts := (p.inTheWay y freed joined w).length, firstConflict := (p.inTheWay y freed joined w).head? }) ∧
  (q.arm y).view = ({ p.arm y with
    claims := (q.arm y).claims
    waiting := (q.arm y).waiting
    chain := { (p.arm y).chain with
      answered := (p.arm y).chain.answered || (p.regranted y freed joined).isSome } } : ArmPart).view

/-- An arm whose minimum-clearance watermark takes the clearance `c` (R77). -/
def ArmPart.lowered (r : ArmPart) (c : Nat) : ArmPart :=
  { r with monitor := { r.monitor with minClearance := min r.monitor.minClearance c } }

/-- An arm whose cap, if it has one, is lifted (R79). -/
def ArmPart.lifted (r : ArmPart) : ArmPart :=
  if r.monitor.capped = true then
    { r with monitor := { r.monitor with capped := false }, link := r.link.queueSpeed .uncap }
  else r

/-- An arm that is capped with the creep speed (R78). -/
def ArmPart.cappedAt (r : ArmPart) (creep : Nat) : ArmPart :=
  { r with
    monitor := { r.monitor with capped := true }
    link := r.link.queueSpeed (.cap (BitVec.ofNat 16 creep)) }

/-- An arm from whose set STALE has gone, the guard staying where it is (R90, R95). -/
def ArmPart.unstale (r : ArmPart) : ArmPart :=
  { r with guard := { r.guard with reasons := { r.guard.reasons with stale := false } } }

/-- The part once x's guard has taken a notice, which has made `u` of x's share and set `flags`: when it was the last
notice of a processed frame, the clearance evaluation follows, if both envelopes are known (R71, R76 to R79; log 4). -/
def Part.frameEnd (p : Part) (x : Arm) (u : ArmPart) (flags : Word) : Part :=
  if u.monitor.evaluationOwed = true ∧ u.notices = [] then
    let u := { u with monitor := { u.monitor with evaluationOwed := false } }
    let o := p.arm x.other
    match u.monitor.knownBox, o.monitor.knownBox with
    | some b, some d =>
      let c := clearance b d
      if p.figures.uncapGap ≤ c then
        (p.withArm x (u.lowered c).lifted flags).withArm x.other (o.lowered c).lifted 0
      else if c < p.figures.capGap ∧ u.guard.state.inService = true ∧ u.monitor.capped = false then
        (p.withArm x ((u.lowered c).cappedAt p.figures.creep) (flags ||| causeBit .close)).withArm x.other
          (o.lowered c) 0
      else (p.withArm x (u.lowered c) flags).withArm x.other (o.lowered c) 0
    | _, _ => p.withArm x u flags
  else p.withArm x u flags

end Sys2Proof.Machine
end

