-- ==== Sys2Proof/WellFormed.lean ====
section
/-! DEFINITION. Which commands are well formed. Only REGISTER_WRITE has a check: its row is the write that
has no row of its own (R177). -/

namespace Sys2Proof

/-- Offsets of the registers whose writes have a row of their own (R177): CONTROL, CAUSE, CAUSE_MASK, NUDGE
and the two base registers. -/
def registerHasWriteRow (offset : Nat) : Bool :=
  [0x00, 0x08, 0x0C, 0x10, 0x14, 0x18].contains offset

/-- A bus write to the window that changes no register: short, unaligned, to the read-only STATE or to an
offset above 18h (R177). -/
def plainWindowWrite (offset : BitVec 6) (size : Nat) : Bool :=
  !(size == 4 && registerHasWriteRow offset.toNat)

/-- Size in bytes of a bus write inside the window: 1 to 4, not past its end. -/
def windowSize (offset : BitVec 6) (size : Nat) : Bool :=
  decide (1 ≤ size) && decide (size ≤ 4) && decide (offset.toNat + size ≤ 64)

/-- Well-formed commands. -/
def Instr.wellFormed : Instr → Bool
  | .registerWrite offset size _ => windowSize offset size && plainWindowWrite offset size
  | .pinReset => true
  | .serveSet => true
  | .serveClear _ => true
  | .holdXWrite _ _ => true
  | .partReset => true
  | .armResetX _ => true
  | .causeWrite _ => true
  | .causeMaskWrite _ => true
  | .nudge _ _ => true
  | .exchangeBaseWrite _ _ => true
  | .setupReadComplete _ _ => true
  | .nextReadComplete _ => true
  | .slotReadComplete _ => true
  | .memoryWriteComplete => true
  | .readTimeout => true
  | .memoryFault _ => true
  | .pcieConditionLost _ => true
  | .pollTimerExpiry _ => true
  | .publishTimerExpiry => true
  | .rxByte _ _ _ => true
  | .byteGapExpiry _ => true
  | .lineFree _ => true
  | .holdRepeatExpiry _ => true
  | .monitorTakeFrame _ => true
  | .staleExpiry _ => true
  | .lossExpiry _ => true
  | .envelopeReport _ => true
  | .frameNotice _ => true
  | .admissionAnswer _ => true
  | .holdAckExpiry _ => true
  | .admitWindowExpiry _ => true
  | .cellstopAsserted _ => true
  | .cellstopReleased => true
  | .frameFigures _ => true
  | .testWindowExpiry _ => true
  | .waitTimerExpiry _ => true
  | .resetPinAsserted => true
  | .configurationSpaceWrite _ _ => true
  | .pcieLinkUp _ => true

end Sys2Proof
end

