-- ==== Sys2Proof/Certificates/Slice0/Obligations.lean ====
section
/-! DEFINITION. The statements about this model, from the numbered rules of spec/. -/

section
open Sys2Proof Sys2Proof.Machine

/-! ## The queue of commands -/

/-- One step takes the command at the front of the queue and runs it with the queue's rest. -/
def Obligations.StepRunsTheFrontCommand : Prop :=
  ∀ (s : State) (c : Instr) (rest : List Instr),
    s.pending = c :: rest → step s = exec c { s with pending := rest }

/-- Every command answers a next state in every state and leaves the queue as it was. On an empty queue, unless the
reset pin is asserted, the µs counter counts one, nothing else of the part changes, and exactly the steps that the
part then owes itself join the queue: the hand-offs that wait, the timers that are due, a frame to take and a level of
CELLSTOP that has lasted (the model's choice, log 2). -/
def Obligations.EveryStepAnswersANextState : Prop :=
  (∀ (c : Instr) (s : State), ∃ t, exec c s = .next t ∧ t.pending = s.pending) ∧
  ∀ s : State, s.pending = [] → ∃ t, step s = .next t ∧
    (t.part = if s.part.inReset then s.part else { s.part with now := s.part.now + 1 }) ∧
    (t.pending = if s.part.inReset then [] else t.part.idleEvents) ∧
    ∀ c, c ∈ t.part.idleEvents ↔ t.part.owes c

/-! ## Resets (R175, R176) -/

/-- PIN_RESET gives every register and block its pin-reset state, the cell table with it; the input levels stay, and
the guards see CELLSTOP as its input stands; the count of sent messages stays. What reached host memory stays: all of
it when nothing or a read was in progress, and with a write in progress every byte outside that write, of which some
leading bytes have arrived. Its readings of the spec: log 7, 8, 14, 19, 35. -/
def Obligations.PinResetReturnsEveryBlockToReset : Prop :=
  ∀ s : State, ∃ t, exec .pinReset s = .next t ∧ t.pending = s.pending ∧
    t.part = { resetPart with
      pcieUp := s.part.pcieUp
      cellstopPin := s.part.cellstopPin
      cellstop := s.part.cellstopPin
      messages := s.part.messages
      hostMem := t.part.hostMem
      freeUsed := s.part.freeUsed + s.part.cutOffUses } ∧
    s.part.cutOff t.part.hostMem

/-- PART_RESET does the same to registers, blocks and host memory but keeps the exchange base, CAUSE_MASK, the
configuration space, the counter and CELLSTOP with its filter. Its readings of the spec: log 7, 8, 14, 35. -/
def Obligations.PartResetKeepsBaseMaskAndCounter : Prop :=
  ∀ s : State, s.part.inReset = false → ∃ t, exec .partReset s = .next t ∧ t.pending = s.pending ∧
    t.part = { resetPart with
      now := s.part.now
      busMaster := s.part.busMaster
      msgEnable := s.part.msgEnable
      pcieUp := s.part.pcieUp
      cellstopPin := s.part.cellstopPin
      cellstop := s.part.cellstop
      cellstopFilter := s.part.cellstopFilter
      causeMask := s.part.causeMask
      baseLo := s.part.baseLo
      baseHi := s.part.baseHi
      messages := s.part.messages
      hostMem := t.part.hostMem
      freeUsed := s.part.freeUsed + s.part.cutOffUses } ∧
    s.part.cutOff t.part.hostMem

/-- While the reset pin is asserted both stop lines are asserted, both transmit pairs rest, no bus operation is
mastered, host memory keeps what reached it, and no command but the pin's release has an effect: the input levels
alone follow. Its readings of the spec: log 7, 18. -/
def Obligations.AssertedResetPinHoldsThePart : Prop :=
  (∀ s : State, ∃ t, exec .resetPinAsserted s = .next t ∧ t.pending = s.pending ∧
    t.part.inReset = true ∧ t.part.inProgress = none ∧ t.part.opQueue = [] ∧ s.part.cutOff t.part.hostMem ∧
    ∀ x, (t.part.arm x).guard.stopAsserted = true ∧ (t.part.arm x).link.onLine = none) ∧
  (∀ (c : Instr) (s : State), s.part.inReset = true → c ≠ .pinReset → c ≠ .resetPinAsserted →
    c ≠ .cellstopReleased → (∀ x, c ≠ .cellstopAsserted x) → (∀ up, c ≠ .pcieLinkUp up) → exec c s = .next s) ∧
  (∀ (s : State) (first : Arm), s.part.inReset = true →
    exec (.cellstopAsserted first) s = .next { s with part := { s.part with cellstopPin := true } }) ∧
  (∀ s : State, s.part.inReset = true →
    exec .cellstopReleased s = .next { s with part := { s.part with cellstopPin := false } }) ∧
  (∀ (s : State) (up : Bool), s.part.inReset = true →
    exec (.pcieLinkUp up) s = .next { s with part := { s.part with pcieUp := up } })

/-! ## The register window and the interrupt (R91, R139, R151, R177 to R182) -/

/-- What the registers read: 0 right after reset, with the CELLSTOP bit of STATE at the level of the input; CONTROL
with SERVE, HOLD_A and HOLD_B in bits 0, 1 and 2; STATE with its nine fields; CAUSE, CAUSE_MASK and the base as they
stand. -/
def Obligations.RegistersReadTheirFields : Prop :=
  (State.reset.part.readWindow 0x00 4 = 0 ∧ State.reset.part.readWindow 0x08 4 = 0 ∧
    State.reset.part.readWindow 0x0C 4 = 0 ∧ State.reset.part.readWindow 0x10 4 = 0 ∧
    State.reset.part.readWindow 0x14 4 = 0 ∧ State.reset.part.readWindow 0x18 4 = 0 ∧
    ∀ level : Bool, { State.reset.part with cellstopPin := level }.readWindow 0x04 4 = bitAt 28 level) ∧
  ∀ p : Part,
    (∀ i : Nat, (p.readWindow 0x00 4).getLsbD i =
      ((i == 0 && p.serve) || (i == 1 && p.armA.hold) || (i == 2 && p.armB.hold))) ∧
    (p.fieldNumber < 256 → (p.readWindow 0x04 4).toNat =
      p.engine.code + 2 ^ 4 * p.armA.guard.state.code + 2 ^ 8 * p.armB.guard.state.code + 2 ^ 12 * p.outcome.code +
        2 ^ 16 * p.fieldNumber + 2 ^ 24 * p.faultKind.code + 2 ^ 28 * p.cellstopPin.toNat +
        2 ^ 29 * (!p.armA.guard.stopAsserted).toNat + 2 ^ 30 * (!p.armB.guard.stopAsserted).toNat) ∧
    p.readWindow 0x08 4 = p.cause ∧ p.readWindow 0x0C 4 = p.causeMask ∧
    p.readWindow 0x14 4 = p.baseLo ∧ p.readWindow 0x18 4 = p.baseHi

/-- CAUSE_WRITE clears exactly the flags written with 1. CAUSE_MASK_WRITE takes bits 10..0, and one message is sent
exactly when messages are enabled and the write makes the interrupt condition true. The base registers take a write in
IDLE, the low twelve address bits staying 0, and in no other engine state. A window write that no register takes
completes without effect. Nothing else changes. An unaligned or short read is 0. Its readings of the spec: log 33. -/
def Obligations.WindowWritesTakeTheirBits : Prop :=
  (∀ (s : State) (v : Word), s.part.steady →
    exec (.causeWrite v) s = .next { s with part := { s.part with cause := s.part.cause &&& ~~~v } } ∧
    exec (.causeMaskWrite v) s = .next { s with part := { s.part with
      causeMask := v &&& 0x7FF
      messages := s.part.messages +
        if s.part.msgEnable = true ∧ s.part.cause &&& (v &&& 0x7FF) ≠ 0 ∧ s.part.cause &&& s.part.causeMask = 0
          then 1 else 0 } } ∧
    (s.part.engine = .idle →
      exec (.exchangeBaseWrite .lo v) s = .next { s with part := { s.part with baseLo := v &&& 0xFFFFF000 } } ∧
      exec (.exchangeBaseWrite .hi v) s = .next { s with part := { s.part with baseHi := v } }) ∧
    (s.part.engine ≠ .idle → ∀ which, exec (.exchangeBaseWrite which v) s = .next s) ∧
    ∀ (offset : BitVec 6) (size : Nat),
      (Instr.registerWrite offset size v).wellFormed = true → exec (.registerWrite offset size v) s = .next s) ∧
  ∀ (p : Part) (offset : BitVec 6) (size : Nat),
    size ≠ 4 ∨ offset.toNat % 4 ≠ 0 ∨ 0x1C ≤ offset.toNat → p.readWindow offset size = 0

/-- CONFIGURATION_SPACE_WRITE sets the two enables and sends no message, and PCIE_LINK_UP sets the link-up indication;
with no operation in progress, or when the condition an operation needs is not taken away, nothing else changes. Its
readings of the spec: log 21. -/
def Obligations.PcieInputsFollow : Prop :=
  (∀ (s : State) (bm msg : Bool), s.part.steady → (bm = true ∨ s.part.inProgress = none) →
    exec (.configurationSpaceWrite bm msg) s =
      .next { s with part := { s.part with busMaster := bm, msgEnable := msg } }) ∧
  ∀ (s : State) (up : Bool), s.part.steady → (up = true ∨ s.part.inProgress = none) →
    exec (.pcieLinkUp up) s = .next { s with part := { s.part with pcieUp := up } }

/-- A change of HOLD_x: HOST joins the set of a RUNNING arm, which starts to hold; its removal as the last reason of a
HELD arm resumes it; in every other case only the set changes; a write of the bit's own value does nothing. The other
arm is untouched. -/
def Obligations.HoldBitAddsAndRemovesHost : Prop :=
  ∀ (s : State) (x : Arm) (v : Bool), s.part.steady → s.part.carries →
    let p := s.part
    let r := p.arm x
    ((r.hold = v → exec (.holdXWrite x v) s = .next s)) ∧
    (r.hold = false → v = true → r.guard.reasons.host = false → r.guard.state = .running →
      ∃ t, exec (.holdXWrite x v) s = .next t ∧ t.pending = s.pending ∧
        t.part.view = (p.withArm x { p.holdsArm r .host with hold := true } (causeBit (armCause x))).view) ∧
    (r.hold = true → v = false → r.guard.state = .held → r.guard.reasons = { noReasons with host := true } →
      ∃ t, exec (.holdXWrite x v) s = .next t ∧ t.pending = s.pending ∧
        t.part.view = (p.withArm x { r.resumed .host with hold := false } (causeBit (armCause x))).view) ∧
    (r.hold = !v → r.guard.reasons.host = !v →
      (v = true ∧ r.guard.state ≠ .running) ∨
        (v = false ∧ (r.guard.state ≠ .held ∨ { r.guard.reasons with host := false } ≠ noReasons)) →
      ∃ t, exec (.holdXWrite x v) s = .next t ∧ t.pending = s.pending ∧
        t.part.view = (p.withArm x { r with
          hold := v
          guard := { r.guard with reasons := { r.guard.reasons with host := v } } } (causeBit (armCause x))).view)

/-! ## The load and serving (R106, R169 to R174) -/

/-- SERVE_SET in IDLE starts the load: the outcome, field number and fault kind are cleared and the setup read starts,
at the exchange base and with its 50 ms limit, or waits behind an operation in progress; without bus mastering or link
it faults at once: REFUSED with field number 0, cause FAULT, READ_ERROR. Elsewhere, or with SERVE 1 already, nothing
changes. -/
def Obligations.ServeSetStartsTheLoad : Prop :=
  ∀ s : State, s.part.steady →
    let p := s.part
    let loading := { p with
      engine := .loading, serve := true, outcome := .none, fieldNumber := 0, faultKind := .none }
    (p.engine = .idle → p.serve = false → p.inProgress = none → p.busUp →
      exec .serveSet s = .next { s with part := { loading with
        inProgress := some ⟨.setupRead, p.base, [], some (p.now + 50000), false⟩ } }) ∧
    (p.engine = .idle → p.serve = false → p.inProgress.isSome = true →
      exec .serveSet s = .next { s with part := { loading with opQueue := p.opQueue ++ [.setupRead] } }) ∧
    (p.engine = .idle → p.serve = false → p.inProgress = none → ¬ p.busUp →
      ∃ t, exec .serveSet s = .next t ∧ t.pending = s.pending ∧ t.part.ops = [] ∧
        t.part.view = ({ p with
          outcome := .refused, fieldNumber := 0, faultKind := .readError
          cause := p.cause ||| causeBit .fault } : Part).view) ∧
    (p.engine ≠ .idle ∨ p.serve = true → exec .serveSet s = .next s)

/-- The checks of a setup block: it is accepted exactly when the format word is 5A31h and every figure is in its
range, and otherwise the refusing field is 1 for the format word, or the first in field order whose check fails. -/
def Obligations.SetupChecksInFieldOrder : Prop :=
  ∀ data : BitVec 1024,
    let f := readSetup data
    let armOk := fun (a : ArmFigures) =>
      a.radius ≤ 1000 ∧ 1 ≤ a.reaction ∧ a.reaction ≤ 100 ∧ 500 ≤ a.acfg ∧ a.acfg ≤ 60000
    (setupRefusal data = none ↔
      halfAt data 0 = 0x5A31 ∧ 10 ≤ f.edge ∧ f.edge ≤ 250 ∧ 1 ≤ f.nx ∧ f.nx ≤ 32 ∧ 1 ≤ f.ny ∧ f.ny ≤ 32 ∧
      1 ≤ f.nz ∧ f.nz ≤ 16 ∧ f.nx * f.ny * f.nz ≤ 2048 ∧ f.capGap ≤ 2000 ∧ f.capGap < f.uncapGap ∧
      f.uncapGap ≤ 4000 ∧ 10 ≤ f.creep ∧ f.creep ≤ 1000 ∧ 2 ≤ f.staleLimit ∧ f.staleLimit ≤ 50 ∧
      f.staleLimit < f.lossLimit ∧ f.lossLimit ≤ 1000 ∧ 5 ≤ f.holdAckWindow ∧ f.holdAckWindow ≤ 500 ∧
      5 ≤ f.holdRepeat ∧ f.holdRepeat ≤ 100 ∧ 2 ≤ f.admitCount ∧ f.admitCount ≤ 16 ∧
      50 ≤ f.admitWindow ∧ f.admitWindow ≤ 10000 ∧ 1 ≤ f.leaveCount ∧ f.leaveCount ≤ 16 ∧
      50 ≤ f.testWindow ∧ f.testWindow ≤ 2000 ∧ 100 ≤ f.testMinSpeed ∧ f.testMinSpeed ≤ 12000 ∧
      f.stillSpeed ≤ 100 ∧ 1 ≤ f.publishInterval ∧ f.publishInterval ≤ 100 ∧ f.pollInterval ≤ 1000 ∧
      f.linkRate ≤ 3 ∧ f.entryA ≤ 127 ∧ f.entryB ≤ 127 ∧ f.entryB ≠ f.entryA ∧ armOk f.armA ∧ armOk f.armB) ∧
    (setupRefusal data = some 1 ↔ halfAt data 0 ≠ 0x5A31) ∧
    ∀ k, k ≠ 1 → setupRefusal data = some k →
      (k, false) ∈ f.checks ∧ ∀ c ∈ f.checks, c.1 < k → c.2 = true

/-- The setup read of a load completes. A block that a field refuses ends the load with that field number and cause
SETUP. An accepted block starts serving: figures in force, every block in its start-of-serving state, both status
blocks queued, A before B, and behind them the reads of both walks at their entry slots. Its readings of the spec: log
5. -/
def Obligations.SetupReadDecidesTheLoad : Prop :=
  ∀ (s : State) (data : BitVec 1024) (first : Arm) (addr : Addr) (bytes : List Byte) (limit : Timer), s.part.steady →
    let p := s.part
    let f := readSetup data
    p.engine = .loading → p.inProgress = some ⟨.setupRead, addr, bytes, limit, false⟩ →
    (∀ k, setupRefusal data = some k →
      ∃ t, exec (.setupReadComplete data first) s = .next t ∧ t.pending = s.pending ∧ t.part.ops = [] ∧
        t.part.view = ({ p with
          engine := .idle, serve := false, outcome := .refused, fieldNumber := k
          cause := p.cause ||| causeBit .setup } : Part).view) ∧
    (p.opQueue = [] → p.busUp → setupRefusal data = none →
      ∃ t, exec (.setupReadComplete data first) s = .next t ∧ t.pending = s.pending ∧
        let q := t.part
        q.engine = .serving ∧ q.outcome = .accepted ∧ q.fieldNumber = 0 ∧ q.setup = some f ∧ q.serve = p.serve ∧
        q.causeSet .setup = true ∧ q.table = ⟨f.nx, f.ny, f.nz, []⟩ ∧ q.hostMem = p.hostMem ∧
        q.publishTimer = some (p.now + BitVec.ofNat 32 (f.publishInterval * 1000)) ∧
        q.pollTimer = (if f.pollInterval = 0 then none else some (p.now + BitVec.ofNat 32 (f.pollInterval * 1000))) ∧
        q.ops = [.statusWrite .a, .statusWrite .b, .slotRead first (f.entry first),
          .slotRead first.other (f.entry first.other)] ∧
        ∀ x : Arm,
          let r := q.arm x
          r.hold = (p.arm x).hold ∧ r.claims = freeClaims ∧ r.parkCount = 0 ∧ r.waiting = none ∧
          r.guard = { resetGuard with
            reasons := { noReasons with host := (p.arm x).hold }
            stopCause := (p.arm x).guard.stopCause } ∧
          r.monitor = resetMonitor ∧ r.test = resetTest (f.arm x).acfg ∧ r.link = resetLink .active ∧
          r.chain.cursor = none ∧ r.chain.openSlot = none ∧ r.chain.walk = .readingSlot ∧
          r.reports = [] ∧ r.notices = [] ∧ r.answers = [] ∧ r.figures = [])

/-- SERVE_CLEAR with SERVE 0 does nothing; in LOADING it abandons the load, whose read in progress goes on and is
ignored when it completes. Its readings of the spec: log 30. -/
def Obligations.ServeClearAbandonsALoad : Prop :=
  (∀ (s : State) (first : Arm), s.part.steady → s.part.serve = false → exec (.serveClear first) s = .next s) ∧
  (∀ (s : State) (first : Arm), s.part.steady →
    let p := s.part
    p.engine = .loading → p.serve = true →
      exec (.serveClear first) s = .next { s with part := { p with
        engine := .idle, serve := false, outcome := .abandoned, fieldNumber := 0, opQueue := []
        inProgress := p.inProgress.map fun r => { r with abandoned := true } } }) ∧
  ∀ (s : State) (data : BitVec 1024) (first : Arm) (addr : Addr) (bytes : List Byte) (limit : Timer), s.part.steady →
    let p := s.part
    p.engine = .idle → p.opQueue = [] → p.inProgress = some ⟨.setupRead, addr, bytes, limit, true⟩ →
      exec (.setupReadComplete data first) s = .next { s with part := { p with inProgress := none } }

/-- Teardown: slot writes already queued are kept, each arm's open request (a pending RESERVE, an admission, a running
test) is answered WITHDRAWN behind them, and the last status blocks queued, A before B; guards OFFLINE, table and
claims cleared, monitors reset, links QUIET with a frame on the line left to end; cursors, open slots and learned
decelerations stay. Its readings of the spec: log 5, 28, 35. -/
def Obligations.TeardownEntersClosing : Prop :=
  ∀ (s : State) (first : Arm), s.part.steady → s.part.carries →
    let p := s.part
    p.engine = .serving → p.serve = true →
      ∃ t, exec (.serveClear first) s = .next t ∧ t.pending = s.pending ∧
        let q := t.part
        q.engine = .closing ∧ q.serve = false ∧ q.setup = p.setup ∧ q.outcome = p.outcome ∧
        q.pollTimer = none ∧ q.publishTimer = none ∧ q.table = ⟨0, 0, 0, []⟩ ∧ q.hostMem = p.hostMem ∧
        q.ops = (p.inProgress.map fun r => r.op).toList ++ p.opQueue.filter MemOp.isSlotWrite ++
          p.withdrawalOps first ++ p.withdrawalOps first.other ++ [.statusWrite .a, .statusWrite .b] ∧
        ∀ x : Arm,
          let r := q.arm x
          r.guard = { resetGuard with reasons := { noReasons with host := (p.arm x).hold } } ∧
          r.monitor = resetMonitor ∧ r.link = { resetLink .quiet with onLine := (p.arm x).link.onLine } ∧
          r.claims = freeClaims ∧ r.parkCount = 0 ∧ r.waiting = none ∧
          r.test.phase = .idle ∧ r.test.alrn = (p.arm x).test.alrn ∧
          r.test.last = (if (p.arm x).test.phase = .braking then some (p.arm x).test.withdrawnResult
            else (p.arm x).test.last) ∧
          r.chain.cursor = (p.arm x).chain.cursor ∧ r.chain.openSlot = (p.arm x).chain.openSlot

/-- SERVE written 0 in FAULTED: IDLE, every arm in service STOPPED with SERVING_ENDED and its running test aborted,
links QUIET; table, claims, reason sets (TEST of an aborted test apart) and the fault kind stay. Its readings of the
spec: log 22. -/
def Obligations.FaultedServingEndsInIdle : Prop :=
  ∀ (s : State) (first : Arm), s.part.steady →
    let p := s.part
    p.engine = .faulted → p.serve = true →
      ∃ t, exec (.serveClear first) s = .next t ∧ t.pending = s.pending ∧
        let q := t.part
        q.engine = .idle ∧ q.serve = false ∧ q.setup = none ∧ q.faultKind = p.faultKind ∧ q.outcome = p.outcome ∧
        q.table = p.table ∧ q.hostMem = p.hostMem ∧ q.ops = p.ops ∧
        ∀ x : Arm,
          let r := p.arm x
          let stopped := if r.guard.state.inService = true then r.escalated .servingEnded else r
          (q.arm x).claims = r.claims ∧ (q.arm x).parkCount = r.parkCount ∧
          (q.arm x).guard = { stopped.guard with ackTimer := none, windowTimer := none, stopAsserted := true } ∧
          (q.arm x).monitor =
            { stopped.monitor with staleTimer := none, lossTimer := none, evaluationOwed := false } ∧
          (q.arm x).test = stopped.test ∧
          (q.arm x).link = { resetLink .quiet with onLine := r.link.onLine }

/-- The last operation of CLOSING completes: IDLE, the figures out of force, the cursors kept. -/
def Obligations.ClosingEndsWithItsLastWrite : Prop :=
  ∀ (s : State) (x : Arm) (addr : Addr) (bytes : List Byte) (limit : Timer) (ab : Bool), s.part.steady →
    let p := s.part
    p.engine = .closing → p.opQueue = [] → p.inProgress = some ⟨.statusWrite x, addr, bytes, limit, ab⟩ →
      ∃ t, exec .memoryWriteComplete s = .next t ∧ t.pending = s.pending ∧
        t.part.engine = .idle ∧ t.part.setup = none ∧ t.part.outcome = p.outcome ∧ t.part.ops = [] ∧
        t.part.hostMem = memWrite p.hostMem addr bytes ∧
        ∀ y, (t.part.arm y).chain.cursor = (p.arm y).chain.cursor ∧ (t.part.arm y).chain.walk = .none ∧
          (t.part.arm y).chain.walkAgain = false ∧ (t.part.arm y).chain.publishDue = false ∧
          (t.part.arm y).chain.changed = false

/-- ARM_RESET_x in every engine state: the open request is answered WITHDRAWN while SERVING, the claims are parked,
the park count becoming the number of the arm's cells, and no cell changes its owner, the guard is OFFLINE with HOST
alone if it was there, link, monitor and test unit are reset, the pending RESERVE is gone, the cursor stays, and the
other arm is untouched. Its readings of the spec: log 5, 6. -/
def Obligations.ArmResetParksAndResetsTheArm : Prop :=
  ∀ (s : State) (x : Arm), s.part.steady → s.part.carries → s.part.tableLaw →
    let p := s.part
    let r := p.arm x
    ∃ t, exec (.armResetX x) s = .next t ∧ t.pending = s.pending ∧
      let q := t.part
      let u := q.arm x
      u.guard = { resetGuard with reasons := { noReasons with host := r.guard.reasons.host } } ∧
      u.monitor = resetMonitor ∧ u.link = resetLink r.link.state ∧ u.waiting = none ∧ u.hold = r.hold ∧
      u.test = resetTest (match p.setup with
        | some f => (f.arm x).acfg
        | none => 0) ∧
      u.chain.cursor = r.chain.cursor ∧ u.chain.openSlot = r.chain.openSlot ∧
      u.reports = r.reports ∧ u.notices = r.notices ∧ u.answers = r.answers ∧ u.figures = r.figures ∧
      q.ops = p.ops ++ p.withdrawalOps x ++ (if p.engine = .serving then p.statusOps x else []) ∧
      (p.parkLaw x → u.parkCount = (p.table.cells.filter fun e => e.2.owner == some x).length) ∧
      (∀ n, n < 8 → (q.claim x n).inForce = false) ∧
      (∀ c, q.table.owner c = p.table.owner c) ∧
      (∀ c, parkNumber ∈ (q.table.entry c).holders ∧ q.table.owner c = some x ↔ p.table.owner c = some x) ∧
      (q.arm x.other).view = (p.arm x.other).view ∧ q.engine = p.engine ∧ q.setup = p.setup ∧
      q.hostMem = p.hostMem

/-! ## Walks, takings and operations (R143 to R155) -/

/-- NUDGE prompts both arms while SERVING: a walk in progress is marked, an arm with an open slot walks nowhere, and
otherwise a walk starts with the read of the cursor's next field or of the entry slot; an entry slot that is a cursor
sets CHAIN. In every other engine state NUDGE is ignored. The poll timer's expiry restarts it one interval later and
prompts as NUDGE does; before its time it does nothing. Its readings of the spec: log 3. -/
def Obligations.NudgeAndPollPromptBothArms : Prop :=
  ∀ (s : State) (v : Word) (first : Arm), s.part.steady →
    let p := s.part
    (p.engine ≠ .serving → exec (.nudge v first) s = .next s) ∧
    (p.engine = .serving → p.carries →
      ∃ t, exec (.nudge v first) s = .next t ∧ t.pending = s.pending ∧
        t.part.ops = p.ops ++ p.promptReads first ++ p.promptReads first.other ∧
        ∀ x : Arm,
          let c := (p.arm x).chain
          let d := (t.part.arm x).chain
          d.cursor = c.cursor ∧ d.openSlot = c.openSlot ∧
          (c.walk ≠ .none → d.walk = c.walk ∧ d.walkAgain = true) ∧
          (c.walk = .none → d.walkAgain = c.walkAgain) ∧
          (c.walk = .none → c.openSlot.isSome = true → d.walk = .none) ∧
          (c.walk = .none → c.openSlot = none → c.cursor.isSome = true → d.walk = .readingNext) ∧
          (c.walk = .none → c.openSlot = none → c.cursor = none →
            (p.isCursor (p.figures.entry x) = true → d.walk = .none ∧ t.part.causeSet .chain = true) ∧
            (p.isCursor (p.figures.entry x) = false → d.walk = .readingSlot))) ∧
    (p.engine = .serving → timerDue p.now p.pollTimer = true → p.carries →
      ∃ t, exec (.pollTimerExpiry first) s = .next t ∧
        exec (.nudge v first) { s with part := { p with
          pollTimer := some (p.now + BitVec.ofNat 32 (p.figures.pollInterval * 1000)) } } = .next t) ∧
    (p.engine ≠ .serving ∨ timerDue p.now p.pollTimer = false → exec (.pollTimerExpiry first) s = .next s)

/-- The publish timer's expiry while SERVING restarts it, and each arm marked changed has its status block queued, A
before B, unless one waits already; nothing else changes. Its readings of the spec: log 3, 6. -/
def Obligations.PublishExpiryQueuesChangedBlocks : Prop :=
  ∀ s : State, s.part.steady →
    let p := s.part
    let due := fun x : Arm => if (p.arm x).chain.changed = true then p.statusOps x else []
    (p.engine = .serving → timerDue p.now p.publishTimer = true → p.carries →
      ∃ t, exec .publishTimerExpiry s = .next t ∧ t.pending = s.pending ∧
        t.part.ops = p.ops ++ due .a ++ due .b ∧
        t.part.view = ({ p with
          publishTimer := some (p.now + BitVec.ofNat 32 (p.figures.publishInterval * 1000)) } : Part).view) ∧
    (p.engine ≠ .serving ∨ timerDue p.now p.publishTimer = false → exec .publishTimerExpiry s = .next s)

/-- The read of x's next field completes while SERVING: END ends the walk, 128..254 and a slot that is a cursor end it
with cause CHAIN, and any other slot is read next. A walk that ends with its walk-again mark set clears the mark and
starts one further walk: where END was read, the cursor's next field is read again. -/
def Obligations.NextFieldEndsOrContinuesTheWalk : Prop :=
  ∀ (s : State) (x : Arm) (slot : Nat) (next : Byte) (addr : Addr) (bytes : List Byte) (limit : Timer) (ab : Bool),
    s.part.steady →
    let p := s.part
    let c := (p.arm x).chain
    let walk := fun (w : WalkPhase) (flags : Word) =>
      (p.withArm x { p.arm x with chain := { c with walk := w } } flags).view
    p.engine = .serving → p.busUp → p.inProgress = some ⟨.nextRead x slot, addr, bytes, limit, ab⟩ →
      ∃ t, exec (.nextReadComplete next) s = .next t ∧ t.pending = s.pending ∧
        (c.walkAgain = false →
          (next = 255 → t.part.ops = p.opQueue ∧ t.part.view = walk .none 0) ∧
          (128 ≤ next.toNat → next ≠ 255 → t.part.ops = p.opQueue ∧ t.part.view = walk .none (causeBit .chain)) ∧
          (next.toNat < 128 → p.isCursor next.toNat = true →
            t.part.ops = p.opQueue ∧ t.part.view = walk .none (causeBit .chain))) ∧
        (next.toNat < 128 → p.isCursor next.toNat = false →
          t.part.ops = p.opQueue ++ [.slotRead x next.toNat] ∧ t.part.view = walk .readingSlot 0) ∧
        (c.walkAgain = true → next = 255 → c.openSlot = none → ∀ d, c.cursor = some d →
          t.part.ops = p.opQueue ++ [.nextRead x d] ∧
          t.part.view = (p.withArm x { p.arm x with
            chain := { c with walk := .readingNext, walkAgain := false } } 0).view)

/-- The read of a candidate completes while SERVING: a slot that has become a cursor sets CHAIN, a slot that is not
POSTED is left, each ending the walk; a POSTED slot that is no cursor becomes cursor and open slot, with the taken
time and then TAKEN queued behind what waits. -/
def Obligations.CandidateIsTakenWhenPosted : Prop :=
  ∀ (s : State) (x : Arm) (slot : Nat) (data : BitVec 512) (addr : Addr) (bytes : List Byte)
    (limit : Timer) (ab : Bool),
    s.part.steady →
    let p := s.part
    let ended := fun (flags : Word) =>
      (p.withArm x { p.arm x with chain := { (p.arm x).chain with walk := .none } } flags).view
    p.engine = .serving → p.busUp → p.inProgress = some ⟨.slotRead x slot, addr, bytes, limit, ab⟩ →
      ∃ t, exec (.slotReadComplete data) s = .next t ∧ t.pending = s.pending ∧
        (p.isCursor slot = true → (p.arm x).chain.walkAgain = false →
          t.part.ops = p.opQueue ∧ t.part.view = ended (causeBit .chain)) ∧
        (p.isCursor slot = false → (p.arm x).chain.walkAgain = false → byteAt data 0 ≠ 1 →
          t.part.ops = p.opQueue ∧ t.part.view = ended 0) ∧
        (p.isCursor slot = false → byteAt data 0 = 1 →
          (∃ rest, t.part.ops = p.opQueue ++ takingOps x slot p.now ++ rest) ∧
          (t.part.arm x).chain.cursor = some slot ∧ (t.part.arm x).chain.openSlot = some slot ∧
          (t.part.arm x).chain.walk = .none ∧ (t.part.arm x).chain.walkAgain = false)

/-- An operation that starts is addressed at the exchange base plus its offset: 0 for the setup block, 400h + 64n for
slot n and its stage, 3 more for its next field, 400h + 64n plus their own offset for figures, 100h and 200h for the
status blocks. A write completes: its bytes are in host memory from its address upward, and every other byte is as
before. A write that is no DONE stage changes nothing else, and the next operation starts. The write of x's DONE stage
while SERVING sets cause VERDICT, ends the open slot and starts a walk of x that reads the cursor's next field. Its
readings of the spec: log 6, 17, 31. -/
def Obligations.CompletedWriteReachesHostMemory : Prop :=
  (∀ (p : Part) (op : MemOp), ∃ r, (p.beginOp op).inProgress = some r ∧ r.op = op ∧ r.abandoned = false ∧
    r.addr = (p.baseHi ++ p.baseLo : Addr) + BitVec.ofNat 64 (match op with
      | .setupRead => 0
      | .nextRead _ n => 0x400 + 64 * n + 3
      | .slotRead _ n => 0x400 + 64 * n
      | .figureWrite _ n offset _ => 0x400 + 64 * n + offset
      | .stageWrite _ n _ => 0x400 + 64 * n
      | .statusWrite .a => 0x100
      | .statusWrite .b => 0x200)) ∧
  (∀ (s : State) (op : MemOp) (addr : Addr) (bytes : List Byte) (limit : Timer) (ab : Bool),
    s.part.steady →
    let p := s.part
    p.inProgress = some ⟨op, addr, bytes, limit, ab⟩ → op.isRead = false → bytes.length ≤ 256 →
    (∀ x slot, op ≠ .stageWrite x slot .done) → (p.opQueue = [] → p.engine ≠ .closing) → p.busUp →
      ∃ t, exec .memoryWriteComplete s = .next t ∧ t.pending = s.pending ∧ t.part.ops = p.opQueue ∧
        t.part.view = ({ p with hostMem := t.part.hostMem } : Part).view ∧
        (∀ i, (h : i < bytes.length) →
          memRead t.part.hostMem (addr + BitVec.ofNat 64 i) = some bytes[i]) ∧
        ∀ a : Addr, (∀ i, i < bytes.length → a ≠ addr + BitVec.ofNat 64 i) →
          memRead t.part.hostMem a = memRead p.hostMem a) ∧
  ∀ (s : State) (x : Arm) (slot c : Nat) (addr : Addr) (bytes : List Byte) (limit : Timer) (ab : Bool), s.part.steady →
    let p := s.part
    p.engine = .serving → p.busUp → p.inProgress = some ⟨.stageWrite x slot .done, addr, bytes, limit, ab⟩ →
    (p.arm x).chain.walk = .none → (p.arm x).chain.cursor = some c →
      ∃ t, exec .memoryWriteComplete s = .next t ∧ t.pending = s.pending ∧
        t.part.ops = p.opQueue ++ [.nextRead x c] ++ p.statusOps x ∧
        t.part.hostMem = memWrite p.hostMem addr bytes ∧
        t.part.view = ({ p.withArm x { p.arm x with
          chain := { (p.arm x).chain with openSlot := none, walk := .readingNext } } (causeBit .verdict) with
            hostMem := t.part.hostMem } : Part).view

/-- A status block write starts: its 256 bytes begin and end with the same edition, one higher than the last, and the
marks of the block are cleared. -/
def Obligations.StatusBlockCarriesItsEditionTwice : Prop :=
  (∀ (r : ArmPart) (e : Half), (statusBytes r e).length = 256 ∧
    (statusBytes r e).take 2 = le16 e.toNat ∧ (statusBytes r e).drop 254 = le16 e.toNat) ∧
  ∀ (p : Part) (x : Arm),
    let q := p.beginOp (.statusWrite x)
    let c := (q.arm x).chain
    c.edition = (p.arm x).chain.edition + 1 ∧ c.blockQueued = false ∧ c.publishDue = false ∧ c.changed = false ∧
      q.inProgress = some ⟨.statusWrite x, p.areaAddr (statusOffset x), statusBytes (q.arm x) c.edition, none, false⟩

/-! ## Memory faults (R151, R152, R171, R173, R182) -/

/-- A memory fault while SERVING: FAULTED with its kind and cause FAULT, the queue discarded, walks and marks ended,
cursors and open slots kept, pending RESERVEs dropped and admissions abandoned, table and claims as they were; host
memory keeps what reached it. Its readings of the spec: log 3, 7, 16, 21. -/
def Obligations.FaultWhileServingEntersFaulted : Prop :=
  ∀ (s : State) (c : Instr) (op : MemOp) (addr : Addr) (bytes : List Byte) (limit : Timer), s.part.steady →
    let p := s.part
    p.engine = .serving → p.inProgress = some ⟨op, addr, bytes, limit, false⟩ →
    failingCommand op c ∨ (c = .readTimeout ∧ timerDue p.now limit = true) →
      ∃ t, exec c s = .next t ∧ t.pending = s.pending ∧
        let q := t.part
        q.engine = .faulted ∧ q.serve = p.serve ∧ q.setup = p.setup ∧ q.causeSet .fault = true ∧ q.ops = [] ∧
        q.faultKind = (if c = .readTimeout then .readTimeout else if op.isRead then .readError else .writeError) ∧
        q.pollTimer = none ∧ q.publishTimer = none ∧ q.table = p.table ∧
        p.cutOff q.hostMem ∧
        ∀ x : Arm,
          let r := p.arm x
          let u := q.arm x
          u.chain = { r.chain with walk := .none, walkAgain := false, publishDue := false, changed := false,
                                   blockQueued := false } ∧
          u.claims = r.claims ∧ u.parkCount = r.parkCount ∧ u.waiting = none ∧ u.test = r.test ∧ u.hold = r.hold ∧
          (r.guard.state ≠ .admitting → u.guard = r.guard ∧ u.monitor = r.monitor ∧ u.link = r.link) ∧
          (r.guard.state = .admitting → ∀ prior, r.guard.prior = some prior → prior.inService = false →
            u.guard = { (r.admissionEnded prior none).guard with stopAsserted := r.guard.stopAsserted })

/-- A memory fault ends a load with REFUSED and field number 0, and CLOSING at once; both return to IDLE with cause
FAULT and the kind of fault, SERVE 0 and the figures out of force; that a read left over from SERVING does so in
CLOSING is the model's choice (log 25). Without an operation in progress MEMORY_FAULT and READ_TIMEOUT have no effect,
a read timeout has none before the limit of its read, and PCIE_CONDITION_LOST changes its input alone. Its readings of
the spec: log 3, 16, 21, 25. -/
def Obligations.FaultsOutsideServing : Prop :=
  (∀ (s : State) (c : Instr) (op : MemOp) (addr : Addr) (bytes : List Byte) (limit : Timer), s.part.steady →
    let p := s.part
    let kind := if c = .readTimeout then FaultKind.readTimeout else if op.isRead then .readError else .writeError
    p.inProgress = some ⟨op, addr, bytes, limit, false⟩ →
    failingCommand op c ∨ (c = .readTimeout ∧ timerDue p.now limit = true) →
    (p.engine = .loading → p.setup = none →
      ∃ t, exec c s = .next t ∧ t.pending = s.pending ∧ t.part.engine = .idle ∧ t.part.serve = false ∧
        t.part.outcome = .refused ∧ t.part.fieldNumber = 0 ∧ t.part.causeSet .fault = true ∧ t.part.setup = none ∧
        t.part.faultKind = kind ∧ t.part.ops = []) ∧
    (p.engine = .closing → p.serve = false →
      ∃ t, exec c s = .next t ∧ t.pending = s.pending ∧ t.part.engine = .idle ∧ t.part.serve = false ∧
        t.part.outcome = p.outcome ∧ t.part.causeSet .fault = true ∧ t.part.setup = none ∧
        t.part.faultKind = kind ∧ t.part.ops = [] ∧
        ∀ x, (t.part.arm x).chain.cursor = (p.arm x).chain.cursor)) ∧
  ∀ s : State, s.part.steady →
    let p := s.part
    (p.inProgress = none →
      (∀ f, exec (.memoryFault f) s = .next s) ∧ exec .readTimeout s = .next s ∧
      exec (.pcieConditionLost .busMastering) s = .next { s with part := { p with busMaster := false } } ∧
      exec (.pcieConditionLost .link) s = .next { s with part := { p with pcieUp := false } }) ∧
    (∀ r, p.inProgress = some r → timerDue p.now r.limit = false → exec .readTimeout s = .next s)

/-! ## Plan requests (R42 to R61, R101, R105, R110, R111, R146, R157 to R167) -/

/-- A taken slot whose arm field does not name x is answered WRONG_ARM, one whose kind is not 1..7 BAD_KIND; nothing
but x's cursor, open slot and walk changes. Its readings of the spec: log 6. -/
def Obligations.DispatchRefusesWrongArmAndBadKind : Prop :=
  ∀ (s : State) (x : Arm) (slot : Nat) (data : BitVec 512) (addr : Addr) (bytes : List Byte)
    (limit : Timer) (ab : Bool),
    s.part.steady →
    let p := s.part
    p.engine = .serving → p.busUp → p.inProgress = some ⟨.slotRead x slot, addr, bytes, limit, ab⟩ →
    p.isCursor slot = false → byteAt data 0 = 1 →
    let refused := fun v : Verdict =>
      ∃ t, exec (.slotReadComplete data) s = .next t ∧ t.pending = s.pending ∧
        t.part.ops = p.opQueue ++ takingOps x slot p.now ++ answerOps x slot p.now v .none ++ p.statusOps x ∧
        t.part.view = (p.withArm x { p.arm x with chain := { (p.arm x).chain with
          cursor := some slot, openSlot := some slot, answered := true, walk := .none, walkAgain := false } } 0).view
    ((byteAt data 2).toNat ≠ armCode x → refused .wrongArm) ∧
    ((byteAt data 2).toNat = armCode x → byteAt data 1 = 0 ∨ 7 < (byteAt data 1).toNat → refused .badKind)

/-- A RESERVE meets its checks in order: NOT_ADMITTED, BAD_BOX, BAD_FIELD, DUPLICATE_TAG, OUTSIDE, NO_CLAIM, and then
BLOCKED for a conflict without a wait limit; each is answered at once and changes no table and no claim. Its readings
of the spec: log 6, 12. -/
def Obligations.ReserveChecksInOrder : Prop :=
  ∀ (s : State) (x : Arm) (slot : Nat) (data : BitVec 512) (addr : Addr) (bytes : List Byte)
    (limit : Timer) (ab : Bool),
    s.part.steady →
    let p := s.part
    let r := p.arm x
    let f := readSlot data
    p.engine = .serving → p.busUp → p.inProgress = some ⟨.slotRead x slot, addr, bytes, limit, ab⟩ →
    p.isCursor slot = false → f.stage = 1 → f.arm.toNat = armCode x → f.kind = 1 →
    let answered := fun (v : Verdict) (g : ResultFigures) =>
      ∃ t, exec (.slotReadComplete data) s = .next t ∧ t.pending = s.pending ∧
        t.part.ops = p.opQueue ++ takingOps x slot p.now ++ answerOps x slot p.now v g ++ p.statusOps x ∧
        t.part.view = (p.withArm x { r with chain := { r.chain with
          cursor := some slot, openSlot := some slot, answered := true, walk := .none, walkAgain := false } } 0).view
    let nothing := ResultFigures.reserve none false none 0 0 none 0
    let boxOk := f.boxMin.x.toInt ≤ f.boxMax.x.toInt ∧ f.boxMin.y.toInt ≤ f.boxMax.y.toInt ∧
      f.boxMin.z.toInt ≤ f.boxMax.z.toInt
    let fresh := ∀ c ∈ r.claims, c.inForce = true → c.tag ≠ f.tag
    (r.guard.state = .offline → answered .notAdmitted nothing) ∧
    (r.guard.state ≠ .offline → ¬ boxOk → answered .badBox nothing) ∧
    (r.guard.state ≠ .offline → boxOk → 1 < f.mode.toNat → answered .badField nothing) ∧
    (r.guard.state ≠ .offline → boxOk → f.mode.toNat ≤ 1 → ¬ fresh → answered .duplicateTag nothing) ∧
    (r.guard.state ≠ .offline → boxOk → f.mode.toNat ≤ 1 → fresh →
      (p.zoneOf x f = none → answered .outside nothing) ∧
      ∀ b, p.zoneOf x f = some b →
        ((∀ c ∈ r.claims, c.inForce = true) → answered .noClaim (.reserve none false (some b) b.size 0 none 0)) ∧
        ((∃ c ∈ r.claims, c.inForce = false) → f.wait = 0 → ∀ c rest, p.conflictCells x b = c :: rest →
          answered .blocked (.reserve none false (some b) b.size (rest.length + 1) (some c) 0)))

/-- A RESERVE that passes its checks and does not conflict is granted at once: the lowest-numbered FREE record is
filled, its number joins every cell of the zone, the cells become x's, and GRANTED is queued behind TAKEN. Its
readings of the spec: log 6, 12. -/
def Obligations.ReserveGrantsAFreeZone : Prop :=
  ∀ (s : State) (x : Arm) (slot : Nat) (data : BitVec 512) (addr : Addr) (bytes : List Byte)
    (limit : Timer) (ab : Bool)
    (b : CellBox) (mode : ClaimMode) (n : Nat), s.part.steady → s.part.tableLaw →
    let p := s.part
    let r := p.arm x
    let f := readSlot data
    p.engine = .serving → p.busUp → p.inProgress = some ⟨.slotRead x slot, addr, bytes, limit, ab⟩ →
    p.isCursor slot = false → f.stage = 1 → f.arm.toNat = armCode x → f.kind = 1 → r.guard.state ≠ .offline →
    f.boxOk = true → claimMode f.mode = some mode → (∀ c ∈ r.claims, c.inForce = true → c.tag ≠ f.tag) →
    p.zoneOf x f = some b → n < 8 → (p.claim x n).inForce = false → (∀ m, m < n → (p.claim x m).inForce = true) →
    p.conflictCells x b = [] →
      ∃ t, exec (.slotReadComplete data) s = .next t ∧ t.pending = s.pending ∧
        let q := t.part
        q.ops = p.opQueue ++ takingOps x slot p.now ++
          answerOps x slot p.now .granted (.reserve (some n) false (some b) b.size 0 none 0) ++ p.statusOps x ∧
        q.claim x n = { state := .granted, tag := f.tag, mode := mode, box := b, count := b.size, entered := false
                        outside := 0, granted := p.now, slot := slot } ∧
        (∀ m, m < 8 → m ≠ n → q.claim x m = p.claim x m) ∧
        (∀ c, c ∈ p.table.cellsOf (some b) → q.table.owner c = some x ∧
          ∀ m, m ∈ (q.table.entry c).holders ↔ m = n ∨ m ∈ (p.table.entry c).holders) ∧
        (∀ c, c ∉ p.table.cellsOf (some b) → q.table.entry c = p.table.entry c) ∧
        (q.arm x).guard = r.guard ∧ (q.arm x).parkCount = r.parkCount ∧ (q.arm x).waiting = r.waiting ∧
        (q.arm x.other).view = (p.arm x.other).view ∧ q.cause = p.cause ∧ q.hostMem = p.hostMem

/-- A RESERVE that conflicts and carries a wait limit becomes pending with the figures of its evaluation and its wait
timer, behind a waiting notice. With a pending RESERVE of the other arm it is the younger, and is refused CROSSED in
the same step exactly when the shared cells hold a cell of each arm; the older stays pending. Its readings of the
spec: log 6, 12, 36. -/
def Obligations.ReserveWaitsOrCrosses : Prop :=
  ∀ (s : State) (x : Arm) (slot : Nat) (data : BitVec 512) (addr : Addr) (bytes : List Byte)
    (limit : Timer) (ab : Bool)
    (b : CellBox) (mode : ClaimMode) (c : Nat) (rest : List Nat), s.part.steady →
    let p := s.part
    let r := p.arm x
    let f := readSlot data
    p.engine = .serving → p.busUp → p.inProgress = some ⟨.slotRead x slot, addr, bytes, limit, ab⟩ →
    p.isCursor slot = false → f.stage = 1 → f.arm.toNat = armCode x → f.kind = 1 → r.guard.state ≠ .offline →
    f.boxOk = true → claimMode f.mode = some mode → (∀ d ∈ r.claims, d.inForce = true → d.tag ≠ f.tag) →
    p.zoneOf x f = some b → (∃ d ∈ r.claims, d.inForce = false) → p.conflictCells x b = c :: rest → f.wait ≠ 0 →
    let figures := ResultFigures.reserve none true (some b) b.size (rest.length + 1) (some c) p.now
    let pending := fun (age : Age) => ({
      slot := slot, tag := f.tag, mode := mode, box := b, count := b.size, conflicts := rest.length + 1
      firstConflict := some c, since := p.now, age := age
      timer := some (p.now + BitVec.ofNat 32 (f.wait.toNat * 1000)) } : PendingReserve)
    let queued := p.opQueue ++ takingOps x slot p.now ++ noticeOps x slot figures
    ∃ t, exec (.slotReadComplete data) s = .next t ∧ t.pending = s.pending ∧
      t.part.table = p.table ∧ (t.part.arm x).claims = r.claims ∧
      ((p.arm x.other).waiting = none →
        (t.part.arm x).waiting = some (pending .older) ∧ t.part.ops = queued ++ p.statusOps x) ∧
      ∀ w, (p.arm x.other).waiting = some w →
        let crosses := b.shares w.box = true ∧
          (∃ d ∈ p.table.cellsOf (some (b.meet w.box)), p.table.owner d = some .a) ∧
          ∃ d ∈ p.table.cellsOf (some (b.meet w.box)), p.table.owner d = some .b
        (t.part.arm x.other).waiting = some { w with age := .older } ∧
        (¬ crosses → (t.part.arm x).waiting = some (pending .younger) ∧ t.part.ops = queued ++ p.statusOps x) ∧
        (crosses → (t.part.arm x).waiting = none ∧
          t.part.ops = queued ++ answerOps x slot p.now .crossed figures ++ p.statusOps x)

/-- RELEASE by tag: UNKNOWN_TAG when no claim in force carries the tag; LEAVING with the
count as it stands for a claim that is LEAVING; LEAVING with count 0 for a GRANTED claim that the known envelope
touches; RELEASED otherwise, here with no RESERVE pending, the number leaving every cell of the box and the record
becoming FREE. Its readings of the spec: log 6, 12. -/
def Obligations.ReleaseSettlesTheClaim : Prop :=
  ∀ (s : State) (x : Arm) (slot : Nat) (data : BitVec 512) (addr : Addr) (bytes : List Byte)
    (limit : Timer) (ab : Bool),
    s.part.steady → s.part.tableLaw →
    let p := s.part
    let r := p.arm x
    let f := readSlot data
    p.engine = .serving → p.busUp → p.inProgress = some ⟨.slotRead x slot, addr, bytes, limit, ab⟩ →
    p.isCursor slot = false → f.stage = 1 → f.arm.toNat = armCode x → f.kind = 2 →
    ∃ t, exec (.slotReadComplete data) s = .next t ∧ t.pending = s.pending ∧
      let q := t.part
      let answered := fun (v : Verdict) (g : ResultFigures) =>
        q.ops = p.opQueue ++ takingOps x slot p.now ++ answerOps x slot p.now v g ++ p.statusOps x
      ((∀ c ∈ r.claims, c.inForce = true → c.tag ≠ f.tag) →
        answered .unknownTag (.release none none 0 0 none 0 0) ∧ q.table = p.table ∧ (q.arm x).claims = r.claims) ∧
      ∀ n, n < 8 → (p.claim x n).inForce = true → (p.claim x n).tag = f.tag →
        (∀ m, m < n → (p.claim x m).inForce = true → (p.claim x m).tag ≠ f.tag) →
        let c := p.claim x n
        let touched := ∃ e b, r.monitor.known = true ∧ r.monitor.envelope = some e ∧ e.cells = some b ∧
          c.box.shares b = true
        (c.state = .leaving →
          answered .leaving (.release (some n) (some c.box) c.count 0 (some c.outside) c.slot c.granted) ∧
          q.table = p.table ∧ (q.arm x).claims = r.claims) ∧
        (c.state = .granted → touched →
          answered .leaving (.release (some n) (some c.box) c.count 0 (some 0) c.slot c.granted) ∧
          q.table = p.table ∧ q.claim x n = { c with state := .leaving, outside := 0 } ∧
          ∀ m, m < 8 → m ≠ n → q.claim x m = p.claim x m) ∧
        (c.state = .granted → ¬ touched → p.armA.waiting = none → p.armB.waiting = none →
          answered .released (.release (some n) (some c.box) c.count
            ((p.table.cellsOf (some c.box)).filter fun d => (p.table.entry d).holders == [n]).length none c.slot
            c.granted) ∧
          (∀ d ∈ p.table.cellsOf (some c.box), q.table.owner d =
            if (p.table.entry d).holders = [n] then none else some x) ∧
          q.claim x n = freeClaim ∧ (∀ m, m < 8 → m ≠ n → q.claim x m = p.claim x m) ∧
          ∀ d, (d ∈ p.table.cellsOf (some c.box) →
              ∀ m, m ∈ (q.table.entry d).holders ↔ m ≠ n ∧ m ∈ (p.table.entry d).holders) ∧
            (d ∉ p.table.cellsOf (some c.box) → q.table.entry d = p.table.entry d))

/-- RELEASE of a GRANTED claim that the known envelope does not touch, by an arm without a pending RESERVE: when a cell
becomes NONE the pending RESERVE of the other arm, if there is one, is re-evaluated in the same step. With no cell left
in its way it is granted, its result queued before RELEASED, and no step finds the freed cells of its zone NONE;
otherwise it stays pending with the figures of this evaluation. A release that frees no cell leaves it alone. Its
readings of the spec: log 6. -/
def Obligations.ReleaseGrantsTheWaitingReserve : Prop :=
  ∀ (s : State) (x : Arm) (slot : Nat) (data : BitVec 512) (addr : Addr) (bytes : List Byte)
    (limit : Timer) (ab : Bool)
    (n k : Nat), s.part.steady → s.part.tableLaw →
    let p := s.part
    let r := p.arm x
    let y := x.other
    let f := readSlot data
    let c := p.claim x n
    p.engine = .serving → p.busUp → p.inProgress = some ⟨.slotRead x slot, addr, bytes, limit, ab⟩ →
    p.isCursor slot = false → f.stage = 1 → f.arm.toNat = armCode x → f.kind = 2 →
    r.waiting = none → p.grantable y k → n < 8 → c.state = .granted → c.tag = f.tag →
    (∀ m, m < n → (p.claim x m).inForce = true → (p.claim x m).tag ≠ f.tag) →
    (∀ e b, r.monitor.known = true → r.monitor.envelope = some e → e.cells = some b → c.box.shares b = false) →
      let cells := p.table.cellsOf (some c.box)
      let freed := cells.filter fun d => (p.table.entry d).holders == [n]
      let granted := p.regranted y freed []
      let blocks := fun z : Arm => if z = x ∨ granted.isSome = true then p.statusOps z else []
      ∃ t, exec (.slotReadComplete data) s = .next t ∧ t.pending = s.pending ∧
        let q := t.part
        q.ops = p.opQueue ++ takingOps x slot p.now ++ p.regrantOps y k freed [] ++
          answerOps x slot p.now .released (.release (some n) (some c.box) c.count freed.length none c.slot c.granted) ++
          blocks .a ++ blocks .b ∧
        p.regrants q y k freed [] ∧ q.claim x n = freeClaim ∧
        (∀ m, m < 8 → m ≠ n → q.claim x m = p.claim x m) ∧
        ∀ d, d ∉ p.regrantedCells y freed [] →
          (d ∈ cells → ∀ m, m ∈ (q.table.entry d).holders ↔ m ≠ n ∧ m ∈ (p.table.entry d).holders) ∧
          (d ∉ cells → q.table.entry d = p.table.entry d)

/-- READMIT of an OFFLINE or STOPPED arm with CELLSTOP released, as the guards see it, enters ADMITTING behind a
waiting notice with the prior state; in every other case it is answered NOT_ALLOWED and the guard does not change. Its
readings of the spec: log 6, 12, 14. -/
def Obligations.ReadmitStartsAnAdmission : Prop :=
  ∀ (s : State) (x : Arm) (slot : Nat) (data : BitVec 512) (addr : Addr) (bytes : List Byte)
    (limit : Timer) (ab : Bool),
    s.part.steady →
    let p := s.part
    let r := p.arm x
    let f := readSlot data
    let taken := { r.chain with
      cursor := some slot, openSlot := some slot, answered := false, walk := .none, walkAgain := false }
    p.engine = .serving → p.busUp → p.inProgress = some ⟨.slotRead x slot, addr, bytes, limit, ab⟩ →
    p.isCursor slot = false → f.stage = 1 → f.arm.toNat = armCode x → f.kind = 3 →
    ∃ t, exec (.slotReadComplete data) s = .next t ∧ t.pending = s.pending ∧
      ((r.guard.state = .offline ∨ r.guard.state = .stopped) → p.cellstop = false →
        t.part.ops = p.opQueue ++ takingOps x slot p.now ++
          noticeOps x slot (.readmit .offline noReasons 0 r.guard.state 0 0 false) ++ p.statusOps x ∧
        t.part.view = (p.withArm x { r with
          chain := taken
          guard := { r.guard with
            state := .admitting
            admissionSlot := some slot
            prior := some r.guard.state
            count := 0
            unpaired := []
            windowTimer := some (p.now + BitVec.ofNat 32 (p.figures.admitWindow * 1000)) } }
          (causeBit (armCause x))).view) ∧
      (¬ (r.guard.state = .offline ∨ r.guard.state = .stopped) ∨ p.cellstop = true →
        t.part.ops = p.opQueue ++ takingOps x slot p.now ++
          answerOps x slot p.now .notAllowed (.readmit r.guard.state noReasons 0 .offline 0 0 p.cellstop) ++
          p.statusOps x ∧
        t.part.view = (p.withArm x { r with chain := { taken with answered := true } } 0).view)

/-- RELEASE_PARK, by an arm without a pending RESERVE, lets go of every park cell that the known envelope of an arm that
is not OFFLINE does not contain, spares the others, takes no cell, and answers PARK_RELEASED with three counts: the
cells let go, those of them that nothing else held and that become NONE, and the park count after it. When cells become
NONE the pending RESERVE of the other arm, if there is one, is re-evaluated in the same step, and a grant is queued
before PARK_RELEASED. Its readings of the spec: log 6. -/
def Obligations.ReleaseParkLetsGoOfParkCells : Prop :=
  ∀ (s : State) (x : Arm) (slot : Nat) (data : BitVec 512) (addr : Addr) (bytes : List Byte)
    (limit : Timer) (ab : Bool) (k : Nat),
    s.part.steady → s.part.tableLaw →
    let p := s.part
    let r := p.arm x
    let y := x.other
    let f := readSlot data
    p.engine = .serving → p.busUp → p.inProgress = some ⟨.slotRead x slot, addr, bytes, limit, ab⟩ →
    p.isCursor slot = false → f.stage = 1 → f.arm.toNat = armCode x → f.kind = 4 →
    r.waiting = none → p.grantable y k →
    let spared := fun c : Nat => ∃ e b, r.guard.state ≠ .offline ∧ r.monitor.known = true ∧
      r.monitor.envelope = some e ∧ e.cells = some b ∧ b.containsCell p.table.nx p.table.ny c = true
    let parked := fun c : Nat => p.table.owner c = some x ∧ parkNumber ∈ (p.table.entry c).holders
    ∃ t, exec (.slotReadComplete data) s = .next t ∧ t.pending = s.pending ∧
      let q := t.part
      (∃ gone : List Nat, gone.Nodup ∧ (∀ c, c ∈ gone ↔ parked c ∧ ¬ spared c) ∧
        let freed := gone.filter fun c => (p.table.entry c).holders == [parkNumber]
        let blocks := fun z : Arm =>
          if z = x ∨ (p.regranted y freed []).isSome = true then p.statusOps z else []
        q.ops = p.opQueue ++ takingOps x slot p.now ++ p.regrantOps y k freed [] ++
          answerOps x slot p.now .parkReleased (.park gone.length freed.length (q.arm x).parkCount) ++
          blocks .a ++ blocks .b ∧
        (q.arm x).parkCount = r.parkCount - gone.length ∧ p.regrants q y k freed [] ∧
        ∀ c, c ∉ p.regrantedCells y freed [] →
          (c ∈ gone → (q.table.owner c = none ↔ (p.table.entry c).holders = [parkNumber]) ∧
            ∀ m, m ∈ (q.table.entry c).holders ↔ m ≠ parkNumber ∧ m ∈ (p.table.entry c).holders) ∧
          (c ∉ gone → q.table.entry c = p.table.entry c)) ∧
      (q.arm x).claims = r.claims ∧
      (p.figures.parkLimit ≠ 255 → ((q.arm x).guard.reasons.park = true ↔ p.figures.parkLimit < (q.arm x).parkCount))

/-- STOP_TEST: BUSY unless the arm is RUNNING, TOO_SLOW below the test min speed, and otherwise a test starts: start
figures from the last frame figures, the window timer, reason TEST and with it the hold, and the waiting notice. Its
readings of the spec: log 6, 9. -/
def Obligations.StopTestStartsFromTheLastFigures : Prop :=
  ∀ (s : State) (x : Arm) (slot : Nat) (data : BitVec 512) (addr : Addr) (bytes : List Byte)
    (limit : Timer) (ab : Bool),
    s.part.steady →
    let p := s.part
    let r := p.arm x
    let f := readSlot data
    let u := r.test
    let taken := { r.chain with
      cursor := some slot, openSlot := some slot, answered := false, walk := .none, walkAgain := false }
    p.engine = .serving → p.busUp → p.inProgress = some ⟨.slotRead x slot, addr, bytes, limit, ab⟩ →
    p.isCursor slot = false → f.stage = 1 → f.arm.toNat = armCode x → f.kind = 5 →
    let answered := fun (t : State) (v : Verdict) (g : ResultFigures) =>
      t.part.ops = p.opQueue ++ takingOps x slot p.now ++ answerOps x slot p.now v g ++ p.statusOps x ∧
        t.part.view = (p.withArm x { r with chain := { taken with answered := true } } 0).view
    ∃ t, exec (.slotReadComplete data) s = .next t ∧ t.pending = s.pending ∧
      (r.guard.state ≠ .running → answered t .busy (.testBusy r.guard.state)) ∧
      (r.guard.state = .running → u.seen.speed < p.figures.testMinSpeed →
        answered t .tooSlow (.testTooSlow u.seen.speed p.figures.testMinSpeed)) ∧
      (r.guard.state = .running → p.figures.testMinSpeed ≤ u.seen.speed → r.guard.reasons.test = false →
        t.part.ops = p.opQueue ++ takingOps x slot p.now ++
          noticeOps x slot (.testStarted u.seen.speed u.seen.time) ++ p.statusOps x ∧
        t.part.view = (p.withArm x { p.holdsArm r .test with
          chain := taken
          test := { u with
            phase := .braking, slot := some slot, p0 := u.seen.pos, t0 := u.seen.time, v0 := u.seen.speed, slow := 0
            timer := some (p.now + BitVec.ofNat 32 (p.figures.testWindow * 1000)) } } (causeBit (armCause x))).view)

/-- ACK_BREACH: NOT_BREACHED without BREACH in the set; STILL_BREACHING when the envelope is unknown, stale, or
touches a cell of the other arm; otherwise ACKNOWLEDGED, BREACH leaves the set, and a HELD arm without further reasons
resumes. Its readings of the spec: log 6. -/
def Obligations.AckBreachNeedsAClearFreshEnvelope : Prop :=
  ∀ (s : State) (x : Arm) (slot : Nat) (data : BitVec 512) (addr : Addr) (bytes : List Byte)
    (limit : Timer) (ab : Bool),
    s.part.steady →
    let p := s.part
    let r := p.arm x
    let f := readSlot data
    let taken := { r.chain with
      cursor := some slot, openSlot := some slot, answered := true, walk := .none, walkAgain := false }
    p.engine = .serving → p.busUp → p.inProgress = some ⟨.slotRead x slot, addr, bytes, limit, ab⟩ →
    p.isCursor slot = false → f.stage = 1 → f.arm.toNat = armCode x → f.kind = 6 →
    let clear := ∃ e, r.monitor.known = true ∧ r.monitor.stale = false ∧ r.monitor.envelope = some e ∧
      ∀ c ∈ p.table.cellsOf e.cells, p.table.owner c ≠ some x.other
    let rest := { r.guard.reasons with breach := false }
    let answered := fun (t : State) (v : Verdict) (g : ResultFigures) =>
      t.part.ops = p.opQueue ++ takingOps x slot p.now ++ answerOps x slot p.now v g ++ p.statusOps x
    ∃ t, exec (.slotReadComplete data) s = .next t ∧ t.pending = s.pending ∧
      (r.guard.reasons.breach = false →
        answered t .notBreached .none ∧ t.part.view = (p.withArm x { r with chain := taken } 0).view) ∧
      (r.guard.reasons.breach = true → ¬ clear →
        answered t .stillBreaching .none ∧ t.part.view = (p.withArm x { r with chain := taken } 0).view) ∧
      (r.guard.reasons.breach = true → clear → answered t .acknowledged (.holdReasons rest) ∧
        t.part.view = (p.withArm x (if r.guard.state = .held ∧ rest = noReasons
          then { r.resumed .breach with chain := taken }
          else { r with chain := taken, guard := { r.guard with reasons := rest } }) (causeBit (armCause x))).view)

/-- CLEAR_WATERMARKS answers CLEARED with the watermarks as they stood and sets them to 65535, 0 and 0. Its readings
of the spec: log 6. -/
def Obligations.ClearWatermarksReportsAndClears : Prop :=
  ∀ (s : State) (x : Arm) (slot : Nat) (data : BitVec 512) (addr : Addr) (bytes : List Byte)
    (limit : Timer) (ab : Bool),
    s.part.steady →
    let p := s.part
    let r := p.arm x
    let m := r.monitor
    let f := readSlot data
    p.engine = .serving → p.busUp → p.inProgress = some ⟨.slotRead x slot, addr, bytes, limit, ab⟩ →
    p.isCursor slot = false → f.stage = 1 → f.arm.toNat = armCode x → f.kind = 7 →
    ∃ t, exec (.slotReadComplete data) s = .next t ∧ t.pending = s.pending ∧
      t.part.ops = p.opQueue ++ takingOps x slot p.now ++
        answerOps x slot p.now .cleared (.watermarks m.minClearance m.maxSpeed m.maxMargin) ++ p.statusOps x ∧
      t.part.view = (p.withArm x { r with
        chain := { r.chain with
          cursor := some slot, openSlot := some slot, answered := true, walk := .none, walkAgain := false }
        monitor := { m with minClearance := 65535, maxSpeed := 0, maxMargin := 0 } } 0).view

/-! ## The drive links (R94, R122 to R135) -/

/-- A byte taken in HUNT: A5h starts a frame and the 1 ms byte-gap timer; E7h on an arm that is OFFLINE or STOPPED
sets LINK alone; any other value, a framing error, and every byte of a QUIET link do nothing. -/
def Obligations.ByteInHunt : Prop :=
  ∀ (s : State) (x : Arm) (b : Byte) (framing : Bool), s.part.steady →
    let p := s.part
    let l := (p.arm x).link
    (l.state = .quiet → exec (.rxByte x b framing) s = .next s) ∧
    (l.state = .active → l.phase = .hunt → framing = true ∨ (b ≠ 0xA5 ∧ b ≠ 0xE7) →
      exec (.rxByte x b framing) s = .next s) ∧
    (l.state = .active → l.phase = .hunt → framing = false → b = 0xA5 →
      exec (.rxByte x b framing) s = .next { s with part := p.withArm x { p.arm x with
        link := { l with phase := .frame, received := [0xA5], gapTimer := some (p.now + 1000) } } 0 }) ∧
    (l.state = .active → l.phase = .hunt → framing = false → b = 0xE7 →
      (p.arm x).guard.state = .offline ∨ (p.arm x).guard.state = .stopped →
      ∃ t, exec (.rxByte x b framing) s = .next t ∧ t.pending = s.pending ∧ t.part.ops = p.ops ∧
        t.part.view = (p.withArm x (p.arm x) (causeBit .link)).view)

/-- A byte taken in FRAME: a framing error or a second byte other than 31h discards the frame with cause LINK; up to
the twelfth byte it joins the partial frame and restarts the byte-gap timer; the thirteenth completes the frame, whose
fields and arrival time become the newest FIFO entry if the CRC is correct and there is room, and which is discarded
with cause LINK otherwise. The byte-gap timer's expiry in FRAME discards the frame with cause LINK; in HUNT, or before
its time, it does nothing. Its readings of the spec: log 3. -/
def Obligations.ByteInFrameAndByteGap : Prop :=
  ∀ (s : State) (x : Arm), s.part.steady →
    let p := s.part
    let r := p.arm x
    let l := r.link
    let hunting := { l with phase := .hunt, received := [], gapTimer := none }
    let discards := fun c : Instr =>
      ∃ t, exec c s = .next t ∧ t.pending = s.pending ∧ t.part.ops = p.ops ∧
        t.part.view = (p.withArm x { r with link := hunting } (causeBit .link)).view
    (∀ (b : Byte) (framing : Bool), l.state = .active → l.phase = .frame → 1 ≤ l.received.length →
      let bytes := l.received ++ [b]
      let le := fun n => bytes.getD (n + 1) 0 ++ bytes.getD n 0
      let entry : Frame :=
        { seq := bytes.getD 2 0, drive := bytes.getD 3 0, pos := ⟨le 4, le 6, le 8⟩, speed := le 10, time := p.now }
      (framing = true ∨ (l.received.length = 1 ∧ b ≠ 0x31) → discards (.rxByte x b framing)) ∧
      (framing = false → (l.received.length = 1 → b = 0x31) → l.received.length < 12 →
        exec (.rxByte x b framing) s = .next { s with part := p.withArm x { r with
          link := { l with received := bytes, gapTimer := some (p.now + 1000) } } 0 }) ∧
      (framing = false → l.received.length = 12 → crc8 ((bytes.drop 1).take 11) = b → l.fifo.length < 8 →
        exec (.rxByte x b framing) s = .next { s with part := p.withArm x { r with
          link := { hunting with fifo := l.fifo ++ [entry] } } 0 }) ∧
      (framing = false → l.received.length = 12 → crc8 ((bytes.drop 1).take 11) ≠ b ∨ 8 ≤ l.fifo.length →
        discards (.rxByte x b framing))) ∧
    (l.phase = .frame → timerDue p.now l.gapTimer = true → discards (.byteGapExpiry x)) ∧
    (l.phase = .hunt ∨ timerDue p.now l.gapTimer = false → exec (.byteGapExpiry x) s = .next s)

/-- The line is free: an ACTIVE link sends the stop-control place first, then the speed place, and otherwise rests; a
QUIET link rests. Queuing replaces what the place held, and a free ACTIVE line sends at once. An outbound frame is
five bytes: A5h, the kind, the argument and the CRC, with the CRC values of R134. -/
def Obligations.TransmitterTakesStopControlFirst : Prop :=
  (∀ (s : State) (x : Arm), s.part.steady →
    let p := s.part
    let r := p.arm x
    let l := r.link
    let next := fun l' => exec (.lineFree x) s = .next { s with part := p.withArm x { r with link := l' } 0 }
    (l.state = .active → ∀ f, l.stopPlace = some f → next { l with stopPlace := none, onLine := some (.stop f) }) ∧
    (l.state = .active → l.stopPlace = none → ∀ f, l.speedPlace = some f →
      next { l with speedPlace := none, onLine := some (.speed f) }) ∧
    (l.state = .quiet ∨ (l.stopPlace = none ∧ l.speedPlace = none) → next { l with onLine := none })) ∧
  (∀ (l : Link) (f : StopFrame) (v : SpeedFrame),
    (l.onLine.isSome = true ∨ l.state = .quiet →
      l.queueStop f = { l with stopPlace := some f } ∧ l.queueSpeed v = { l with speedPlace := some v }) ∧
    (l.state = .active → l.onLine = none →
      l.queueStop f = { l with stopPlace := none, onLine := some (.stop f) } ∧
      (l.stopPlace = none → l.queueSpeed v = { l with speedPlace := none, onLine := some (.speed v) }))) ∧
  OutFrame.bytes (.stop .hold) = [0xA5, 0x61, 0, 0, 0xAE] ∧ OutFrame.bytes (.stop .resume) = [0xA5, 0x62, 0, 0, 0x13] ∧
  OutFrame.bytes (.speed .uncap) = [0xA5, 0x64, 0, 0, 0x6E] ∧
  OutFrame.bytes (.speed (.cap 200)) = [0xA5, 0x63, 0xC8, 0, 0x3D] ∧
  ∀ v : Half, ∃ crc : Byte, crc = crc8 [0x63, v.extractLsb' 0 8, v.extractLsb' 8 8] ∧
    OutFrame.bytes (.speed (.cap v)) = [0xA5, 0x63, v.extractLsb' 0 8, v.extractLsb' 8 8, crc]

/-- The hold-repeat timer's expiry while HELD restarts it, and queues HOLD when the stop-control place is empty; in
other guard states, or before its time, nothing happens. Its readings of the spec: log 3. -/
def Obligations.HoldRepeatsWhileHeld : Prop :=
  ∀ (s : State) (x : Arm), s.part.steady →
    let p := s.part
    let r := p.arm x
    let again := some (p.now + BitVec.ofNat 32 (p.figures.holdRepeat * 1000))
    let next := fun l' => exec (.holdRepeatExpiry x) s = .next { s with part := p.withArm x { r with link := l' } 0 }
    (r.guard.state = .held → timerDue p.now r.link.repeatTimer = true →
      (r.link.stopPlace = none → next { r.link.queueStop .hold with repeatTimer := again }) ∧
      (r.link.stopPlace.isSome = true → next { r.link with repeatTimer := again })) ∧
    (r.guard.state ≠ .held ∨ timerDue p.now r.link.repeatTimer = false → exec (.holdRepeatExpiry x) s = .next s)

/-! ## Reach monitoring (R64 to R79) -/

/-- The monitor takes the oldest frame while SERVING or FAULTED. A frame that repeats the last processed sequence
number leaves the FIFO and changes nothing else. A processed frame updates the record: speed used by the case of R15,
margin, envelope, timers from its arrival time, maximum watermarks; one report, one notice and one set of figures are
handed on, and nothing else changes. Without a frame, in other engine states, and while the frame before still owes
its clearance evaluation or the stop test unit its figures, nothing happens. Its readings of the spec: log 4, 11. -/
def Obligations.MonitorTakesTheOldestFrame : Prop :=
  ∀ (s : State) (x : Arm), s.part.steady →
    let p := s.part
    let r := p.arm x
    let m := r.monitor
    (r.link.fifo = [] ∨ p.guarding = false ∨ m.evaluationOwed = true ∨ r.figures ≠ [] →
      exec (.monitorTakeFrame x) s = .next s) ∧
    ∀ f rest, p.guarding = true → m.evaluationOwed = false → r.figures = [] → r.link.fifo = f :: rest →
      let stale := f.time + BitVec.ofNat 32 (p.figures.staleLimit * 1000)
      let loss := f.time + BitVec.ofNat 32 (p.figures.lossLimit * 1000)
      let reported := min f.speed.toNat 12000
      let carried := m.previous = true ∧ (f.seq ≠ m.seq + 1 ∨ m.known = false)
      let v := if m.previous = false then reported
        else if f.seq ≠ m.seq + 1 ∨ m.known = false then max reported m.speed
        else max reported (computedSpeed m.pos f.pos m.time f.time)
      let g := p.figures.arm x
      let mg := marginOf g r.test.alrn v
      let box := envelopeBox f.pos (g.radius + mg)
      let drive := driveState f.drive
      let marked := if p.engine = .serving then true else r.chain.changed
      let becomes := fun u => exec (.monitorTakeFrame x) s = .next { s with part := p.withArm x u 0 }
      (m.previous = true → f.seq = m.seq → becomes { r with link := { r.link with fifo := rest } }) ∧
      ((m.previous = true → f.seq ≠ m.seq) →
        becomes { r with
          chain := { r.chain with changed := marked }
          link := { r.link with fifo := rest }
          monitor :=
            { m with
              previous := true
              pos := f.pos
              seq := f.seq
              time := f.time
              speed := v
              margin := mg
              envelope := some ⟨box, cellBoxOf p.figures box⟩
              known := true
              stale := false
              restart := false
              staleTimer := some stale
              lossTimer := some loss
              maxSpeed := max m.maxSpeed v
              maxMargin := max m.maxMargin mg
              evaluationOwed := true }
          reports := r.reports ++ [⟨cellBoxOf p.figures box, f.seq, f.time, m.restart || decide carried⟩]
          notices := r.notices ++ [⟨drive, v, f.seq, f.time⟩]
          figures := [⟨f.pos, f.time, drive, v⟩] })

/-- The stale timer's expiry sets stale and restart; a RUNNING arm starts to hold for STALE, a HELD arm gains STALE,
an ADMITTING arm's count goes to 0, and an OFFLINE or STOPPED guard is left alone. Before its time, and while a frame
is being processed, nothing happens. A frame whose own freshness is spent already holds its RUNNING arm for STALE at
its end, behind the notice that removes STALE. Its readings of the spec: log 3, 11. -/
def Obligations.StaleExpiryHoldsTheArm : Prop :=
  ∀ (s : State) (x : Arm), s.part.steady → s.part.carries →
    let p := s.part
    let r := p.arm x
    let m := { r.monitor with staleTimer := none, stale := true, restart := true }
    (p.guarding = false ∨ r.monitor.evaluationOwed = true ∨ timerDue p.now r.monitor.staleTimer = false →
      exec (.staleExpiry x) s = .next s) ∧
    (∀ n, p.guarding = true → r.notices = [n] → n.drive ≠ .fault → r.guard.state = .running →
      r.guard.reasons.stale = false → r.monitor.evaluationOwed = true →
      timerDue p.now r.monitor.staleTimer = true → timerDue p.now r.monitor.lossTimer = false →
      (p.arm x.other).monitor.known = false →
      ∃ t, exec (.frameNotice x) s = .next t ∧ t.pending = s.pending ∧ t.part.view =
        (p.withArm x { p.holdsArm r .stale with notices := [], monitor := { m with evaluationOwed := false } }
          (causeBit (armCause x))).view) ∧
    (p.guarding = true → r.monitor.evaluationOwed = false → timerDue p.now r.monitor.staleTimer = true →
      r.guard.reasons.stale = false →
      ∃ t, exec (.staleExpiry x) s = .next t ∧ t.pending = s.pending ∧ t.part.view =
        (match r.guard.state with
        | .running => (p.withArm x { p.holdsArm r .stale with monitor := m } (causeBit (armCause x))).view
        | .held => (p.withArm x
            { r with
              monitor := m
              guard := { r.guard with reasons := { r.guard.reasons with stale := true } } }
            (causeBit (armCause x))).view
        | .admitting => (p.withArm x { r with monitor := m, guard := { r.guard with count := 0 } } 0).view
        | .offline => (p.withArm x { r with monitor := m } 0).view
        | .stopped => (p.withArm x { r with monitor := m } 0).view))

/-- The loss timer's expiry makes the envelope unknown, and an OFFLINE or STOPPED guard is left alone; before its
time, while a frame is being processed, and outside SERVING and FAULTED, nothing happens. An arm in service is stopped
by the loss (LOSS), at the end of a frame whose loss time is past already (LOSS), by the expiry of its hold-ack timer
while HELD and AWAITING (HOLD_ACK), and by an ESTOP byte in HUNT (ESTOP, with cause LINK as well); while SERVING, a
test that runs on it is aborted and its slot answered TEST_ABORTED. An admission meets LOSS and ESTOP by failing:
ADMIT_FAILED with that cause, the prior state again. The hold-ack expiry does nothing in other states or phases, or
before its time. Its readings of the spec: log 3, 6, 11, 12, 13. -/
def Obligations.EscalationsStopTheArm : Prop :=
  ∀ (s : State) (x : Arm), s.part.steady → s.part.carries →
    let p := s.part
    let r := p.arm x
    let lost := { r with monitor := { r.monitor with lossTimer := none, known := false } }
    let ends := fun (c : Instr) (u : ArmPart) (flags : Word) =>
      ∃ t, exec c s = .next t ∧ t.pending = s.pending ∧ t.part.view = (p.withArm x u flags).view
    let answered := fun u : ArmPart => { u with chain := { u.chain with answered := true } }
    let aborts := fun (c : Instr) (u : ArmPart) (cause : StopCause) (flags : Word) =>
      ∀ slot, p.engine = .serving → r.test.phase = .braking → r.test.slot = some slot →
        r.chain.openSlot = some slot →
        ∃ t, exec c s = .next t ∧ t.pending = s.pending ∧
          t.part.ops = p.ops ++ answerOps x slot p.now .testAborted (.test
            { verdict := .testAborted, stopCause := cause, v0 := r.test.v0, distance := 0, elapsed := 0
              reaction := 0, braking := 0, measured := 0, alrn := r.test.alrn }) ++ p.statusOps x ∧
          t.part.view =
            (p.withArm x ((answered u).escalated cause) (flags ||| causeBit .test ||| causeBit (armCause x))).view
    let fails := fun (c : Instr) (u : ArmPart) (cause : StopCause) (flags : Word) =>
      ∀ prior slot, p.engine = .serving → r.guard.state = .admitting → r.guard.prior = some prior →
        prior = .offline ∨ prior = .stopped → r.guard.admissionSlot = some slot → r.chain.openSlot = some slot →
        ∃ t, exec c s = .next t ∧ t.pending = s.pending ∧
          t.part.ops = p.ops ++ answerOps x slot p.now .admitFailed
            (.readmit .offline noReasons 0 prior cause.code r.guard.count false) ++ p.statusOps x ∧
          t.part.view =
            (p.withArm x ((answered u).admissionEnded prior (some cause)) (flags ||| causeBit (armCause x))).view
    (p.guarding = false ∨ r.monitor.evaluationOwed = true ∨ timerDue p.now r.monitor.lossTimer = false →
      exec (.lossExpiry x) s = .next s) ∧
    (p.guarding = true → r.monitor.evaluationOwed = false → timerDue p.now r.monitor.lossTimer = true →
      (r.guard.state = .offline ∨ r.guard.state = .stopped → ends (.lossExpiry x) lost 0) ∧
      (r.guard.state.inService = true → r.test.phase = .idle →
        ends (.lossExpiry x) (lost.escalated .loss) (causeBit (armCause x))) ∧
      (r.guard.state.inService = true → aborts (.lossExpiry x) lost .loss 0) ∧
      fails (.lossExpiry x) lost .loss 0) ∧
    (∀ n, p.guarding = true → r.notices = [n] → n.drive ≠ .fault → r.guard.state = .running →
      r.guard.reasons.stale = false → r.test.phase = .idle → r.monitor.evaluationOwed = true →
      timerDue p.now r.monitor.staleTimer = true → timerDue p.now r.monitor.lossTimer = true →
      ends (.frameNotice x) (({ p.holdsArm r .stale with
        notices := []
        monitor := { r.monitor with
          staleTimer := none, stale := true, restart := true, lossTimer := none, known := false
          evaluationOwed := false } } : ArmPart).escalated .loss) (causeBit (armCause x))) ∧
    (p.guarding = true → r.guard.state = .held → r.guard.phase = .awaiting →
      timerDue p.now r.guard.ackTimer = true → r.test.phase = .idle →
      ends (.holdAckExpiry x) (r.escalated .holdAck) (causeBit (armCause x))) ∧
    (r.guard.state = .held → r.guard.phase = .awaiting → timerDue p.now r.guard.ackTimer = true →
      aborts (.holdAckExpiry x) r .holdAck 0) ∧
    (r.guard.state ≠ .held ∨ r.guard.phase ≠ .awaiting ∨ timerDue p.now r.guard.ackTimer = false →
      exec (.holdAckExpiry x) s = .next s) ∧
    (r.link.state = .active → r.link.phase = .hunt → r.guard.state.inService = true → r.test.phase = .idle →
      ends (.rxByte x 0xE7 false) (r.escalated .estop) (causeBit .link ||| causeBit (armCause x))) ∧
    (r.link.state = .active → r.link.phase = .hunt →
      (r.guard.state.inService = true → aborts (.rxByte x 0xE7 false) r .estop (causeBit .link)) ∧
      fails (.rxByte x 0xE7 false) r .estop (causeBit .link))

/-- The clearance evaluation that follows the notice of a processed frame of x whose freshness is not spent: both
minimum-clearance watermarks are lowered to it; at or above the uncap gap both caps are lifted, and below the cap gap
an uncapped RUNNING arm x is capped with the creep speed and cause CLOSE; between the gaps nothing else changes. Its
readings of the spec: log 4, 11. -/
def Obligations.ClearanceCapsAndUncaps : Prop :=
  ∀ (s : State) (x : Arm) (n : Notice) (e d : Envelope), s.part.steady → s.part.carries →
    let p := s.part
    let y := x.other
    let r := p.arm x
    let o := p.arm y
    let c := clearance e.box d.box
    p.guarding = true → r.notices = [n] → n.drive = .moving → r.guard.state = .running →
    r.guard.reasons.stale = false → r.monitor.evaluationOwed = true →
    timerDue p.now r.monitor.staleTimer = false → timerDue p.now r.monitor.lossTimer = false →
    r.monitor.known = true → r.monitor.envelope = some e → o.monitor.known = true → o.monitor.envelope = some d →
    p.figures.capGap < p.figures.uncapGap →
    let low := fun (a : ArmPart) => { a with
      monitor := { a.monitor with minClearance := min a.monitor.minClearance c } }
    let lift := fun (a : ArmPart) => if a.monitor.capped = true
      then { a with monitor := { a.monitor with capped := false }, link := a.link.queueSpeed .uncap } else a
    let r' := low { r with notices := [], monitor := { r.monitor with evaluationOwed := false } }
    ∃ t, exec (.frameNotice x) s = .next t ∧ t.pending = s.pending ∧ t.part.view =
      (if p.figures.uncapGap ≤ c then ((p.withArm x (lift r') 0).withArm y (lift (low o)) 0).view
      else if c < p.figures.capGap ∧ r.monitor.capped = false then
        ((p.withArm x { r' with
          monitor := { r'.monitor with capped := true }
          link := r'.link.queueSpeed (.cap (BitVec.ofNat 16 p.figures.creep)) } (causeBit .close)).withArm y (low o)
            0).view
      else ((p.withArm x r' 0).withArm y (low o) 0).view)

/-! ## Envelope reports (R26 to R35) -/

/-- A report of an OFFLINE arm, or one taken outside SERVING and FAULTED, changes nothing; a report of an ADMITTING
arm gives its guard one answer and changes nothing else. A report of an arm in RUNNING, HELD or STOPPED that releases
no claim: every free cell it touches joins the park claim with cause PARK, no other cell changes, a foreign cell gives
cause BREACH and reason BREACH, and PARK follows the park limit. A RUNNING arm that gains a reason starts to hold:
HELD, HOLD queued, phase AWAITING, hold-ack and hold-repeat timers started, cause ARM_x; a HELD arm holds on, or
resumes if the set empties; a STOPPED arm stays. When cells have joined and both arms have a pending RESERVE that then
cross, the younger is refused CROSSED with the figures of its last evaluation and the older stays. The claims in force
follow leave evaluation. Nothing else of the part changes. Its readings of the spec: log 6. -/
def Obligations.ReportAnswersOrGrowsThePark : Prop :=
  ∀ (s : State) (x : Arm), s.part.steady →
    let p := s.part
    let r := p.arm x
    (r.reports = [] → exec (.envelopeReport x) s = .next s) ∧
    ∀ report rest, r.reports = report :: rest →
      let cells := p.table.cellsOf report.cells
      (p.guarding = false ∨ r.guard.state = .offline →
        exec (.envelopeReport x) s = .next { s with part := p.withArm x { r with reports := rest } 0 }) ∧
      (p.guarding = true → r.guard.state = .admitting →
        ∃ foreign, (foreign = true ↔ ∃ c ∈ cells, p.table.owner c = some x.other) ∧
          exec (.envelopeReport x) s = .next { s with part := p.withArm x { r with
            reports := rest
            answers := r.answers ++ [⟨foreign, report.cells, report.seq, report.time⟩] } 0 }) ∧
      (p.carries → p.tableLaw → p.guarding = true →
        r.guard.state = .running ∨ r.guard.state = .held ∨ r.guard.state = .stopped →
        (∀ m, m < 8 → ¬ (p.claim x m).leaves report p.figures.leaveCount) →
        (∀ wa wb, p.armA.waiting = some wa → p.armB.waiting = some wb → p.engine = .serving ∧ wa.age ≠ wb.age ∧
          p.armA.chain.openSlot = some wa.slot ∧ p.armB.chain.openSlot = some wb.slot) →
        ∃ t, exec (.envelopeReport x) s = .next t ∧ t.pending = s.pending ∧
          let q := t.part
          let u := q.arm x
          let foreign := cells.any fun c => p.table.owner c == some x.other
          let joined := cells.filter fun c => p.table.owner c == none
          let count := r.parkCount + joined.length
          let crosses := fun wa wb : PendingReserve => joined ≠ [] ∧ wa.box.shares wb.box = true ∧
            (∃ d ∈ p.table.cellsOf (some (wa.box.meet wb.box)), q.table.owner d = some .a) ∧
            ∃ d ∈ p.table.cellsOf (some (wa.box.meet wb.box)), q.table.owner d = some .b
          let refused : Option (Arm × PendingReserve) := match p.armA.waiting, p.armB.waiting with
            | some wa, some wb => if crosses wa wb then some (if wa.age = .younger then (.a, wa) else (.b, wb)) else none
            | _, _ => none
          let settled := fun (z : Arm) (v : ArmPart) => if refused.any (fun e => e.1 == z) = true
            then { v with waiting := none, chain := { v.chain with answered := true } } else v
          let reasons := { r.guard.reasons with
            breach := r.guard.reasons.breach || foreign
            park := if p.figures.parkLimit = 255 then r.guard.reasons.park else decide (p.figures.parkLimit < count) }
          let flags := (if joined = [] then 0 else causeBit .park) ||| (if foreign then causeBit .breach else 0) |||
            (if reasons = r.guard.reasons then 0 else causeBit (armCause x))
          let becomes := fun v : ArmPart =>
            u.view = (settled x { v with
              reports := rest
              claims := u.claims
              parkCount := count
              guard := { v.guard with reasons := reasons } }).view ∧
            q.view = ({ (p.withArm x u flags).updArm x.other (settled x.other) with table := q.table } : Part).view
          (∀ c, c ∈ cells → p.table.owner c = none →
            q.table.owner c = some x ∧ (q.table.entry c).holders = [parkNumber]) ∧
          (∀ c, c ∉ cells ∨ p.table.owner c ≠ none → q.table.entry c = p.table.entry c) ∧
          (∀ m, m < 8 → q.claim x m =
            if (p.claim x m).inForce = true then (p.claim x m).reported report else p.claim x m) ∧
          (q.causeSet .park = true ↔ p.causeSet .park = true ∨ ∃ c ∈ cells, p.table.owner c = none) ∧
          (q.causeSet .breach = true ↔ p.causeSet .breach = true ∨ ∃ c ∈ cells, p.table.owner c = some x.other) ∧
          (u.guard.reasons.breach = true ↔
            r.guard.reasons.breach = true ∨ ∃ c ∈ cells, p.table.owner c = some x.other) ∧
          (p.figures.parkLimit ≠ 255 → (u.guard.reasons.park = true ↔ p.figures.parkLimit < u.parkCount)) ∧
          (∃ blocks, q.ops = p.ops ++ (match refused with
            | some (z, w) => answerOps z w.slot p.now .crossed
              (.reserve none true (some w.box) w.count w.conflicts w.firstConflict w.since)
            | none => []) ++ blocks ∧ ∀ o ∈ blocks, o = .statusWrite .a ∨ o = .statusWrite .b) ∧
          (r.guard.state = .running → r.guard.reasons = noReasons → reasons = noReasons → becomes r) ∧
          (r.guard.state = .running → r.guard.reasons = noReasons → reasons ≠ noReasons →
            becomes (p.holdsArm r .breach)) ∧
          (r.guard.state = .held → reasons ≠ noReasons → becomes r) ∧
          (r.guard.state = .held → r.guard.reasons ≠ noReasons → reasons = noReasons → becomes (r.resumed .park)) ∧
          (r.guard.state = .stopped → becomes r))

/-- Leave evaluation of a report of an arm in RUNNING, HELD or STOPPED that grows no park, touches nothing foreign and
finds PARK as the park limit has it, with at most one claim, record n, to be released. Every claim in force that is not
released becomes entered with count 0 when touched; when untouched and LEAVING, or ON_LEAVE and entered, it counts one,
from 0 on a restart mark. The one that reaches the leave count is released, and when a cell becomes NONE the pending
RESERVEs are re-evaluated in the same step, the older first: that of the other arm is granted if no cell stands in its
way, and that of the reporting arm, whose conflicts stand, stays pending with its new figures. Its readings of the
spec: log 6. -/
def Obligations.LeaveEvaluationCountsAndReleases : Prop :=
  ∀ (s : State) (x : Arm) (report : Report) (rest : List Report) (n k : Nat), s.part.steady → s.part.carries →
    s.part.tableLaw →
    let p := s.part
    let r := p.arm x
    let y := x.other
    let c := p.claim x n
    let leaves := fun m : Nat => (p.claim x m).leaves report p.figures.leaveCount
    p.guarding = true → r.guard.state = .running ∨ r.guard.state = .held ∨ r.guard.state = .stopped →
    r.reports = report :: rest →
    (∀ d ∈ p.table.cellsOf report.cells, p.table.owner d = some x) →
    p.figures.parkLimit = 255 ∨ (r.guard.reasons.park = true ↔ p.figures.parkLimit < r.parkCount) →
    p.grantable y k → (∀ w, r.waiting = some w → p.conflictCells x w.box ≠ []) →
    (∀ v w, r.waiting = some v → (p.arm y).waiting = some w → v.age ≠ w.age) →
    n < 8 → (∀ m, m < 8 → m ≠ n → ¬ leaves m) →
      ∃ t, exec (.envelopeReport x) s = .next t ∧ t.pending = s.pending ∧
        let q := t.part
        (∀ m, m < 8 → ¬ leaves m → q.claim x m =
          if (p.claim x m).inForce = true then (p.claim x m).reported report else p.claim x m) ∧
        (¬ leaves n → q.table = p.table ∧ (q.arm y).view = (p.arm y).view ∧ (q.arm x).waiting = r.waiting) ∧
        (leaves n →
          let cells := p.table.cellsOf (some c.box)
          let freed := cells.filter fun d => (p.table.entry d).holders == [n]
          let zone := p.regrantedCells y freed []
          q.claim x n = freeClaim ∧ p.regrants q y k freed [] ∧
          (∃ blocks, q.ops = p.ops ++ p.regrantOps y k freed [] ++ blocks ∧
            ∀ o ∈ blocks, o = .statusWrite .a ∨ o = .statusWrite .b) ∧
          (q.arm x).waiting = (if freed = [] then r.waiting else r.waiting.map fun w =>
            let way := (p.table.cellsOf (some w.box)).filter fun d =>
              p.table.owner d == some y || (w.age == .younger && zone.contains d)
            { w with conflicts := way.length, firstConflict := way.head? }) ∧
          ∀ d, d ∉ zone →
            (d ∈ cells → (q.table.owner d = none ↔ (p.table.entry d).holders = [n]) ∧
              ∀ m, m ∈ (q.table.entry d).holders ↔ m ≠ n ∧ m ∈ (p.table.entry d).holders) ∧
            (d ∉ cells → q.table.entry d = p.table.entry d)) ∧
        (q.arm x).guard = r.guard ∧ (q.arm x).parkCount = r.parkCount ∧ (q.arm x).reports = rest ∧ q.cause = p.cause

/-! ## Guards (R86 to R107) -/

/-- x's guard takes its oldest frame notice, and the last notice of a processed frame whose freshness is not spent is
followed by that frame's clearance evaluation. HOLDING or STANDSTILL acknowledges a hold that is AWAITING; FAULT, and
MOVING above the still speed once the hold is acknowledged, stop an arm in service, aborting a test that runs on it
while SERVING, and FAULT fails an admission with DRIVE_FAULT; STALE then leaves the set, and a HELD arm resumes when
that empties it; a STOPPED or OFFLINE arm only loses STALE; an arm that RUNS keeps running. Without a notice nothing
happens, and outside SERVING and FAULTED a notice is dropped. Its readings of the spec: log 4, 6, 12, 13. -/
def Obligations.FrameNoticeDrivesTheGuard : Prop :=
  ∀ (s : State) (x : Arm), s.part.steady →
    let p := s.part
    let g := (p.arm x).guard
    (((p.arm x).notices = [] → exec (.frameNotice x) s = .next s)) ∧
    ∀ n rest, (p.arm x).notices = n :: rest →
      let r := { p.arm x with notices := rest }
      let answered := { r with chain := { r.chain with answered := true } }
      let ends := fun (u : ArmPart) (flags : Word) =>
        ∃ t, exec (.frameNotice x) s = .next t ∧ t.pending = s.pending ∧ t.part.view = (p.frameEnd x u flags).view
      let stays := fun u : ArmPart => ends u 0 ∧
        (r.monitor.evaluationOwed = false → exec (.frameNotice x) s = .next { s with part := p.withArm x u 0 })
      let answers := fun (slot : Nat) (v : Verdict) (f : ResultFigures) (u : ArmPart) (flags : Word) =>
        ∃ t more, exec (.frameNotice x) s = .next t ∧ t.pending = s.pending ∧
          t.part.ops = p.ops ++ answerOps x slot p.now v f ++ more ∧
          (r.monitor.evaluationOwed = false ∨ (p.arm x.other).monitor.capped = false → more = p.statusOps x) ∧
          t.part.view = (p.frameEnd x u flags).view
      let stops := fun cause : StopCause =>
        (r.test.phase = .idle → ends (r.escalated cause).unstale (causeBit (armCause x))) ∧
        (∀ slot, p.engine = .serving → r.test.phase = .braking → r.test.slot = some slot →
          r.chain.openSlot = some slot →
          answers slot .testAborted (.test
            { verdict := .testAborted, stopCause := cause, v0 := r.test.v0, distance := 0, elapsed := 0
              reaction := 0, braking := 0, measured := 0, alrn := r.test.alrn })
            (answered.escalated cause).unstale (causeBit .test ||| causeBit (armCause x)))
      let disobeys := g.phase = .acknowledged ∧ n.drive = .moving ∧ p.figures.stillSpeed < n.speed
      let acked := if g.phase = .awaiting ∧ (n.drive = .holding ∨ n.drive = .standstill)
        then { g with phase := .acknowledged, ackTimer := none } else g
      (p.guarding = false → exec (.frameNotice x) s = .next { s with part := p.withArm x r 0 }) ∧
      (p.guarding = true → p.carries →
        (r.monitor.evaluationOwed = true → rest = [] →
          timerDue p.now r.monitor.staleTimer = false ∧ timerDue p.now r.monitor.lossTimer = false) →
        (g.state = .running → g.reasons.stale = false → n.drive ≠ .fault → stays r) ∧
        (g.state = .held → n.drive ≠ .fault → ¬ disobeys →
          (g.reasons.stale = false → ends { r with guard := acked } 0) ∧
          (g.reasons = { noReasons with stale := true } → ends (r.resumed .stale) (causeBit (armCause x))) ∧
          (g.reasons.stale = true → g.reasons ≠ { noReasons with stale := true } →
            ends ({ r with guard := acked } : ArmPart).unstale (causeBit (armCause x)))) ∧
        (g.state = .held → disobeys → stops .disobeyed) ∧
        (g.state.inService = true → n.drive = .fault → stops .driveFault) ∧
        (∀ prior slot, p.engine = .serving → g.state = .admitting → n.drive = .fault →
          g.prior = some prior → prior = .offline ∨ prior = .stopped → g.admissionSlot = some slot →
          r.chain.openSlot = some slot →
          answers slot .admitFailed (.readmit .offline noReasons 0 prior 4 g.count false)
            (answered.admissionEnded prior (some .driveFault)).unstale (causeBit (armCause x))) ∧
        (g.state = .offline ∨ g.state = .stopped →
          (g.reasons.stale = false → stays r) ∧
          (g.reasons.stale = true → ends r.unstale (causeBit (armCause x)))))

/-- The two halves of an admission frame, in either order: the second of the two to arrive counts the frame (HOLDING
or STANDSTILL without a foreign touch counts one, MOVING or a foreign touch sets the count to 0) and drops its partner
and every earlier half; a half without a partner joins the unpaired ones. An answer that finds the guard not in
ADMITTING, or the engine not SERVING or FAULTED, is dropped. A notice takes STALE from the set as well, and the last
notice of a processed frame whose freshness is not spent is followed by its clearance evaluation. Its readings of the
spec: log 4. -/
def Obligations.AdmissionPairsHalvesAndCounts : Prop :=
  ∀ (s : State) (x : Arm), s.part.steady →
    let p := s.part
    let g := (p.arm x).guard
    let count := fun (n : Notice) (a : Answer) => if a.foreign = true ∨ n.drive = .moving then 0 else g.count + 1
    ((p.arm x).answers = [] → exec (.admissionAnswer x) s = .next s) ∧
    (∀ a rest, (p.arm x).answers = a :: rest →
      let r := { p.arm x with answers := rest }
      (p.guarding = false ∨ g.state ≠ .admitting →
        exec (.admissionAnswer x) s = .next { s with part := p.withArm x r 0 }) ∧
      (p.guarding = true → g.state = .admitting →
        ((∀ n, .notice n ∈ g.unpaired → n.seq ≠ a.seq ∨ n.time ≠ a.time) →
          exec (.admissionAnswer x) s = .next { s with part := p.withArm x { r with
            guard := { g with unpaired := g.unpaired ++ [.answer a] } } 0 }) ∧
        ∀ earlier n later, g.unpaired = earlier ++ .notice n :: later → n.seq = a.seq → n.time = a.time →
          n.drive ≠ .fault → (∀ m, .notice m ∈ earlier → m.seq ≠ a.seq ∨ m.time ≠ a.time) →
          count n a < p.figures.admitCount →
            exec (.admissionAnswer x) s = .next { s with part := p.withArm x { r with
              guard := { g with count := count n a, unpaired := later } } 0 })) ∧
    ∀ n rest, (p.arm x).notices = n :: rest → p.guarding = true → p.carries → g.state = .admitting →
      n.drive ≠ .fault →
      let r := { p.arm x with notices := rest }
      let ends := fun (u : ArmPart) (flags : Word) =>
        ∃ t, exec (.frameNotice x) s = .next t ∧ t.pending = s.pending ∧ t.part.view = (p.frameEnd x u flags).view
      let becomes := fun u : ArmPart =>
        (g.reasons.stale = false → ends u 0 ∧
          (r.monitor.evaluationOwed = false → exec (.frameNotice x) s = .next { s with part := p.withArm x u 0 })) ∧
        (g.reasons.stale = true → ends u.unstale (causeBit (armCause x)))
      (r.monitor.evaluationOwed = true → rest = [] →
        timerDue p.now r.monitor.staleTimer = false ∧ timerDue p.now r.monitor.lossTimer = false) →
      ((∀ a, .answer a ∈ g.unpaired → a.seq ≠ n.seq ∨ a.time ≠ n.time) →
        becomes { r with guard := { g with unpaired := g.unpaired ++ [.notice n] } }) ∧
      ∀ earlier a later, g.unpaired = earlier ++ .answer a :: later → a.seq = n.seq → a.time = n.time →
        (∀ b, .answer b ∈ earlier → b.seq ≠ n.seq ∨ b.time ≠ n.time) → count n a < p.figures.admitCount →
          becomes { r with guard := { g with count := count n a, unpaired := later } }

/-- Admission success, by the answer that finds its notice or by the notice that finds its answer (with no clearance
evaluation to follow: none owed, or the other envelope unknown), of an arm without a pending RESERVE: the park cells
outside the frame's cell box leave the park claim and the free cells inside join it; BREACH, STALE and TEST leave the
set and PARK follows the park limit; the arm is RUNNING, or HELD with a hold that starts; UNCAP is queued, the stop
cause is NONE, the stop line is released, and ADMITTED is queued. When park cells become NONE the pending RESERVE of
the other arm, if there is one, is re-evaluated in the same step, and a grant is queued before ADMITTED. Its readings
of the spec: log 4, 6, 12. -/
def Obligations.AdmissionSuccessPutsTheArmInService : Prop :=
  ∀ (s : State) (x : Arm) (n : Notice) (a : Answer) (later : List AdmissionHalf) (slot : Nat) (c : Instr)
    (k : Nat),
    s.part.steady → s.part.tableLaw →
    let p := s.part
    let r := p.arm x
    let g := r.guard
    let cells := p.table.cellsOf a.cells
    let parked := fun c : Nat => p.table.owner c = some x ∧ parkNumber ∈ (p.table.entry c).holders
    p.engine = .serving → p.carries → p.guardLaw x → g.state = .admitting → g.admissionSlot = some slot →
    r.chain.openSlot = some slot →
    (c = .admissionAnswer x ∧ r.answers.head? = some a ∧ g.unpaired = .notice n :: later) ∨
      (c = .frameNotice x ∧ r.notices = [n] ∧ g.unpaired = .answer a :: later ∧
        (r.monitor.evaluationOwed = false ∨ ((p.arm x.other).monitor.known = false ∧
          timerDue p.now r.monitor.staleTimer = false ∧ timerDue p.now r.monitor.lossTimer = false))) →
    n.seq = a.seq → n.time = a.time → n.drive = .holding ∨ n.drive = .standstill → a.foreign = false →
    p.figures.admitCount ≤ g.count + 1 → r.waiting = none → p.grantable x.other k →
    (∀ b, a.cells = some b → b.xhi < p.table.nx ∧ b.yhi < p.table.ny) →
      ∃ t, exec c s = .next t ∧ t.pending = s.pending ∧
        let q := t.part
        let u := q.arm x
        let reasons := { g.reasons with
          breach := false, stale := false, test := false
          park := if p.figures.parkLimit = 255 then g.reasons.park else decide (p.figures.parkLimit < u.parkCount) }
        let held := reasons ≠ noReasons
        let window := some (p.now + BitVec.ofNat 32 (p.figures.holdAckWindow * 1000))
        let again := some (p.now + BitVec.ofNat 32 (p.figures.holdRepeat * 1000))
        u.guard = { resetGuard with
          state := if held then .held else .running
          reasons := reasons
          phase := if held then .awaiting else .none
          ackTimer := if held then window else none
          stopAsserted := false } ∧
        u.link = (if held then { r.link.queueStop .hold with repeatTimer := again } else r.link).queueSpeed .uncap ∧
        (c = .admissionAnswer x →
          u.answers = r.answers.tail ∧ u.notices = r.notices ∧ u.monitor = r.monitor) ∧
        (c = .frameNotice x →
          u.answers = r.answers ∧ u.notices = [] ∧ u.monitor = { r.monitor with evaluationOwed := false }) ∧
        u.claims = r.claims ∧ u.test = r.test ∧ q.causeSet (armCause x) = true ∧
        q.hostMem = p.hostMem ∧
        ∃ gone : List Nat, gone.Nodup ∧ (∀ c, c ∈ gone ↔ parked c ∧ c ∉ cells) ∧
          let joined := cells.filter fun c => p.table.owner c == none
          let freed := gone.filter fun c => (p.table.entry c).holders == [parkNumber]
          let zone := p.regrantedCells x.other freed joined
          let blocks := fun z : Arm =>
            if z = x ∨ (p.regranted x.other freed joined).isSome = true then p.statusOps z else []
          u.parkCount = r.parkCount - gone.length + joined.length ∧ p.regrants q x.other k freed joined ∧
          q.ops = p.ops ++ p.regrantOps x.other k freed joined ++ answerOps x slot p.now .admitted
            (.readmit u.guard.state reasons u.parkCount .offline 0 0 false) ++ blocks .a ++ blocks .b ∧
          (∀ c, c ∈ cells → p.table.owner c = none → q.table.entry c = ⟨some x, [parkNumber]⟩) ∧
          (∀ c, c ∉ zone → c ∉ cells → parked c → ∀ m, m ∈ (q.table.entry c).holders ↔
            m ≠ parkNumber ∧ m ∈ (p.table.entry c).holders) ∧
          (∀ c, c ∉ zone → ¬ (c ∈ cells ∧ p.table.owner c = none) → ¬ (c ∉ cells ∧ parked c) →
            q.table.entry c = p.table.entry c)

/-- The admit window closes on an admission: ADMIT_FAILED with the window as failure cause, the prior state again. The
wait timer ends a pending RESERVE with EXPIRED and the figures of its last evaluation, no cell changing. Neither
happens before its time, or without an admission or a pending RESERVE. Its readings of the spec: log 3, 6, 12. -/
def Obligations.WindowsEndAdmissionsAndWaits : Prop :=
  ∀ (s : State) (x : Arm), s.part.steady →
    let p := s.part
    let r := p.arm x
    let g := r.guard
    let answered := { r with chain := { r.chain with answered := true } }
    (g.state ≠ .admitting ∨ p.guarding = false ∨ timerDue p.now g.windowTimer = false →
      exec (.admitWindowExpiry x) s = .next s) ∧
    (∀ prior slot, p.engine = .serving → p.carries → g.state = .admitting →
      timerDue p.now g.windowTimer = true → g.prior = some prior → prior = .offline ∨ prior = .stopped →
      g.admissionSlot = some slot → r.chain.openSlot = some slot →
      ∃ t, exec (.admitWindowExpiry x) s = .next t ∧ t.pending = s.pending ∧
        t.part.ops = p.ops ++ answerOps x slot p.now .admitFailed
          (.readmit .offline noReasons 0 prior 10 g.count false) ++ p.statusOps x ∧
        t.part.view = (p.withArm x (answered.admissionEnded prior none) (causeBit (armCause x))).view) ∧
    (r.waiting = none → exec (.waitTimerExpiry x) s = .next s) ∧
    ∀ w, r.waiting = some w →
      (timerDue p.now w.timer = false → exec (.waitTimerExpiry x) s = .next s) ∧
      (p.engine = .serving → p.carries → timerDue p.now w.timer = true → r.chain.openSlot = some w.slot →
        ∃ t, exec (.waitTimerExpiry x) s = .next t ∧ t.pending = s.pending ∧
          t.part.ops = p.ops ++ answerOps x w.slot p.now .expired
            (.reserve none true (some w.box) w.count w.conflicts w.firstConflict w.since) ∧
          t.part.view = (p.withArm x { answered with waiting := none } 0).view)

/-- CELLSTOP: a change of the input is in STATE at once and starts the 10 µs filter, a change back ends the pulse, and
nothing happens while a level waits in the filter. Once it has lasted the guards see it. Assertion while SERVING or
FAULTED, with no test running: every arm in service is STOPPED with CELL_STOP, an arm in ADMITTING falls back to its
prior state, and the rest is unchanged. While SERVING an admission is answered ADMIT_FAILED with CELL_STOP and a test
that runs is aborted and answered TEST_ABORTED, in the order in which the arms are taken, and the status blocks
follow. In other engine states, and on release, the level alone changes. Its readings of the spec: log 3, 6, 12, 13,
14. -/
def Obligations.CellstopStopsBothArms : Prop :=
  ∀ (s : State) (first : Arm), s.part.steady →
    let p := s.part
    let lasted := timerDue p.now p.cellstopFilter
    (∀ level : Bool,
      let c := if level = true then Instr.cellstopAsserted first else .cellstopReleased
      (p.cellstop = level →
        exec c s = .next { s with part := { p with cellstopPin := level, cellstopFilter := none } }) ∧
      (p.cellstop ≠ level → p.cellstopPin ≠ level →
        exec c s = .next { s with part := { p with cellstopPin := level, cellstopFilter := some (p.now + 10) } }) ∧
      (p.cellstop ≠ level → p.cellstopPin = level → lasted = false → exec c s = .next s)) ∧
    (p.cellstop = true → p.cellstopPin = false → lasted = true →
      exec .cellstopReleased s = .next { s with part := { p with cellstop := false, cellstopFilter := none } }) ∧
    (p.cellstop = false → p.cellstopPin = true → lasted = true → p.guarding = false →
      exec (.cellstopAsserted first) s =
        .next { s with part := { p with cellstop := true, cellstopFilter := none } }) ∧
    (p.cellstop = false → p.cellstopPin = true → lasted = true → p.guarding = true → p.carries →
      p.armA.test.phase = .idle → p.armB.test.phase = .idle →
      (∀ x prior, (p.arm x).guard.state = .admitting → (p.arm x).guard.prior = some prior →
        prior = .offline ∨ prior = .stopped) →
      ∃ t, exec (.cellstopAsserted first) s = .next t ∧ t.pending = s.pending ∧
        let q := t.part
        q.cellstop = true ∧ q.cellstopPin = true ∧ q.cellstopFilter = none ∧ q.table = p.table ∧
        q.hostMem = p.hostMem ∧ q.engine = p.engine ∧
        ∀ x : Arm,
          let r := p.arm x
          (r.guard.state.inService = true →
            (q.arm x).view = (r.escalated .cellStop).view ∧ q.causeSet (armCause x) = true) ∧
          (∀ prior, r.guard.state = .admitting → r.guard.prior = some prior →
            (q.arm x).guard = { (r.admissionEnded prior (some .cellStop)).guard with stopAsserted := true } ∧
            q.causeSet (armCause x) = true) ∧
          (r.guard.state = .offline ∨ r.guard.state = .stopped → (q.arm x).view = r.view)) ∧
    (p.cellstop = false → p.cellstopPin = true → lasted = true → p.engine = .serving → p.carries →
      (∀ x, (p.arm x).guard.state = .admitting →
        ((p.arm x).guard.prior = some .offline ∨ (p.arm x).guard.prior = some .stopped) ∧
        (p.arm x).guard.admissionSlot.isSome = true ∧ (p.arm x).guard.admissionSlot = (p.arm x).chain.openSlot ∧
        (p.arm x).test.phase = .idle) →
      (∀ x, (p.arm x).test.phase = .braking → (p.arm x).guard.state.inService = true ∧
        (p.arm x).test.slot.isSome = true ∧ (p.arm x).test.slot = (p.arm x).chain.openSlot) →
      let answers := fun x : Arm =>
        let r := p.arm x
        match r.chain.openSlot with
        | none => []
        | some slot =>
          if r.guard.state = .admitting then
            answerOps x slot p.now .admitFailed
              (.readmit .offline noReasons 0 (r.guard.prior.getD .offline) 6 r.guard.count false)
          else if r.test.phase = .braking then
            answerOps x slot p.now .testAborted (.test
              { verdict := .testAborted, stopCause := .cellStop, v0 := r.test.v0, distance := 0, elapsed := 0
                reaction := 0, braking := 0, measured := 0, alrn := r.test.alrn })
          else []
      let blocks := fun x : Arm =>
        if (p.arm x).guard.state = .offline ∨ (p.arm x).guard.state = .stopped then [] else p.statusOps x
      ∃ t, exec (.cellstopAsserted first) s = .next t ∧ t.pending = s.pending ∧
        t.part.ops = p.ops ++ answers first ++ answers first.other ++ blocks .a ++ blocks .b ∧
        ∀ x : Arm,
          let r := p.arm x
          let answered := { r with chain := { r.chain with answered := true } }
          (r.guard.state.inService = true → r.test.phase = .idle →
            (t.part.arm x).view = (r.escalated .cellStop).view) ∧
          (r.test.phase = .braking → (t.part.arm x).view = (answered.escalated .cellStop).view ∧
            t.part.causeSet .test = true) ∧
          (∀ prior, r.guard.state = .admitting → r.guard.prior = some prior →
            (t.part.arm x).view = (answered.admissionEnded prior (some .cellStop)).view) ∧
          (r.guard.state = .offline ∨ r.guard.state = .stopped → (t.part.arm x).view = r.view) ∧
          (r.guard.state.inService = true ∨ r.guard.state = .admitting →
            t.part.causeSet (armCause x) = true))

/-! ## Stop tests (R108 to R119) -/

/-- x's stop test unit takes a frame's figures. They become the last ones seen; a BRAKING unit counts slow MOVING and
HOLDING frames, and a STANDSTILL frame, or the second slow one in a row, ends the test with the figures of R113:
passed, TEST leaves the set and an arm held for TEST alone resumes; deficient, the arm is STOPPED and alrn is 500.
Outside SERVING and FAULTED figures are dropped. The test window's expiry ends a running test as OVERRUN with alrn
500. Its readings of the spec: log 3, 6, 9, 12. -/
def Obligations.StopTestWatchesAndMeasures : Prop :=
  ∀ (s : State) (x : Arm), s.part.steady →
    let p := s.part
    let u := (p.arm x).test
    ((p.arm x).figures = [] → exec (.frameFigures x) s = .next s) ∧
    (∀ f rest, (p.arm x).figures = f :: rest →
      let r := { p.arm x with figures := rest }
      let unit := fun (v : TestUnit) =>
        exec (.frameFigures x) s = .next { s with part := p.withArm x { r with test := v } 0 }
      let slow := (f.drive = .moving ∨ f.drive = .holding) ∧ f.speed ≤ p.figures.stillSpeed
      (p.guarding = false → unit u) ∧
      (p.guarding = true → u.phase = .idle → unit { u with seen := f }) ∧
      (p.guarding = true → u.phase = .braking →
        (f.drive ≠ .standstill → ¬ slow → unit { u with seen := f, slow := 0 }) ∧
        (slow → u.slow = 0 → unit { u with seen := f, slow := 1 }) ∧
        (∀ slot, f.drive = .standstill ∨ (slow ∧ u.slow ≠ 0) → p.engine = .serving → p.carries →
          u.slot = some slot → r.chain.openSlot = some slot → r.guard.state = .held → r.guard.reasons.test = true →
          let d := distance u.p0 f.pos
          let way := u.v0 * (p.figures.arm x).reaction / 1000
          let am := if d ≤ way then 0 else u.v0 * u.v0 / (2 * (d - way))
          let deficient := way < d ∧ am < 500
          let acfg := (p.figures.arm x).acfg
          let result : TestResult :=
            { verdict := if deficient then .testDeficient else .testPassed, stopCause := .none, v0 := u.v0
              distance := d, elapsed := f.time - u.t0, reaction := way, braking := (d : Int) - (way : Int)
              measured := am, alrn := if d ≤ way then acfg else if am < 500 then 500 else min acfg am }
          let done := { r with
            chain := { r.chain with answered := true }
            test := { resetTest result.alrn with last := some result, seen := f } }
          let flags := causeBit .test ||| causeBit (armCause x)
          let stopped := done.escalated .testDeficient
          ∃ t, exec (.frameFigures x) s = .next t ∧ t.pending = s.pending ∧
            t.part.ops = p.ops ++ answerOps x slot p.now result.verdict (.test result) ++ p.statusOps x ∧
            (¬ deficient → r.guard.reasons = { noReasons with test := true } →
              t.part.view = (p.withArm x (done.resumed .test) flags).view) ∧
            (¬ deficient → r.guard.reasons ≠ { noReasons with test := true } →
              t.part.view = (p.withArm x { done with
                guard := { r.guard with reasons := { r.guard.reasons with test := false } } } flags).view) ∧
            (deficient → t.part.view = (p.withArm x { stopped with
              guard := { stopped.guard with reasons := { r.guard.reasons with test := false } } } flags).view)))) ∧
    (u.phase = .idle ∨ timerDue p.now u.timer = false → exec (.testWindowExpiry x) s = .next s) ∧
    ∀ slot, p.engine = .serving → p.carries → u.phase = .braking → timerDue p.now u.timer = true →
      u.slot = some slot → (p.arm x).chain.openSlot = some slot → (p.arm x).guard.state = .held →
      (p.arm x).guard.reasons.test = true →
      let result : TestResult :=
        { verdict := .testOverrun, stopCause := .none, v0 := u.v0, distance := 0, elapsed := 0, reaction := 0
          braking := 0, measured := 0, alrn := 500 }
      let r := p.arm x
      let stopped := ({ r with
        chain := { r.chain with answered := true }
        test := { resetTest 500 with last := some result, seen := u.seen } } : ArmPart).escalated .testOverrun
      ∃ t, exec (.testWindowExpiry x) s = .next t ∧ t.pending = s.pending ∧
        t.part.ops = p.ops ++ answerOps x slot p.now .testOverrun (.test result) ++ p.statusOps x ∧
        t.part.view = (p.withArm x { stopped with
          guard := { stopped.guard with reasons := { r.guard.reasons with test := false } } }
          (causeBit .test ||| causeBit (armCause x))).view

/-! ## The margin unit (R5 to R16) -/

/-- The margin's terms are rounded up (each is the least integer at or above its quotient), their sum with the pad is
saturated at 2047 mm, and the half-width adds the tool radius. The distance of two positions is the least integer
whose square is not below the sum of the squared differences, at most 113510 mm, with the roots R13 works out;
computed speeds and stop tests use it. -/
def Obligations.MarginAndDistanceRoundUp : Prop :=
  (∀ (g : ArmFigures) (alrn v : Nat), 0 < alrn → ∃ t1 t2 : Nat,
    (∀ t, t1 ≤ t ↔ v * g.reaction ≤ 1000 * t) ∧ (∀ t, t2 ≤ t ↔ v * v ≤ 2 * alrn * t) ∧
    marginOf g alrn v = min 2047 (t1 + t2 + g.pad) ∧ halfWidth g alrn v = g.radius + marginOf g alrn v) ∧
  (∀ a b : Pos,
    let dx := b.x.toInt - a.x.toInt
    let dy := b.y.toInt - a.y.toInt
    let dz := b.z.toInt - a.z.toInt
    (∀ d : Nat, distance a b ≤ d ↔ dx * dx + dy * dy + dz * dz ≤ (d : Int) * d) ∧ distance a b ≤ 113510 ∧
      distance a b = ceilRoot (dx * dx + dy * dy + dz * dz).toNat) ∧
  [30, 2600, 0, 1, 2].map ceilRoot = [6, 51, 0, 1, 2] ∧
  (∀ (a b : Pos) (t0 t1 : Word), ∃ v : Nat,
    (∀ u, v ≤ u ↔ distance a b * 1000000 ≤ max 100 (t1 - t0).toNat * u) ∧ computedSpeed a b t0 t1 = min v 12000) ∧
  ∀ (u : TestUnit) (g : ArmFigures) (f : Figures), (measuredResult u g f).distance = distance u.p0 f.pos

/-- The cell box of a box of space: outside exactly when some axis has no touched index, and otherwise it holds
exactly the indices within the counts whose cells the box touches, as many as its cell count. Two cell boxes share a
cell exactly when on each axis the larger lo is not above the smaller hi, which is when some index triple lies in
both, and outside shares none. -/
def Obligations.CellBoxesHoldTheTouchedCells : Prop :=
  (∀ (f : Setup) (b : Box), 0 < f.edge → 0 < f.nx → 0 < f.ny → 0 < f.nz → b.xlo ≤ b.xhi → b.ylo ≤ b.yhi →
    b.zlo ≤ b.zhi →
    let touched := fun (lo hi origin : Int) (i : Nat) =>
      origin + (i : Int) * f.edge ≤ hi ∧ lo < origin + ((i : Int) + 1) * f.edge
    (cellBoxOf f b = none ↔
      (∀ i, i < f.nx → ¬ touched b.xlo b.xhi f.ox i) ∨ (∀ i, i < f.ny → ¬ touched b.ylo b.yhi f.oy i) ∨
        ∀ i, i < f.nz → ¬ touched b.zlo b.zhi f.oz i) ∧
    ∀ c, cellBoxOf f b = some c →
      (∀ i j k, c.containsIndex i j k = true ↔
        (i < f.nx ∧ touched b.xlo b.xhi f.ox i) ∧ (j < f.ny ∧ touched b.ylo b.yhi f.oy j) ∧
          (k < f.nz ∧ touched b.zlo b.zhi f.oz k)) ∧
      (c.cells f.nx f.ny).Nodup ∧ (c.cells f.nx f.ny).length = c.size ∧
      ∀ i j k, i < f.nx → j < f.ny →
        (cellNumber f.nx f.ny i j k ∈ c.cells f.nx f.ny ↔ c.containsIndex i j k = true)) ∧
  ∀ b c : CellBox,
    (∀ i j k, b.containsIndex i j k = true ↔
      (b.xlo ≤ i ∧ i ≤ b.xhi) ∧ (b.ylo ≤ j ∧ j ≤ b.yhi) ∧ b.zlo ≤ k ∧ k ≤ b.zhi) ∧
    (b.shares c = true ↔ max b.xlo c.xlo ≤ min b.xhi c.xhi ∧ max b.ylo c.ylo ≤ min b.yhi c.yhi ∧
      max b.zlo c.zlo ≤ min b.zhi c.zhi) ∧
    (b.shares c = true ↔ ∃ i j k, b.containsIndex i j k = true ∧ c.containsIndex i j k = true) ∧
    b.touchedBy (some c) = b.shares c ∧ b.touchedBy none = false

/-- The clearance of two boxes is the largest of the three axis gaps, each the largest of 0 and the two differences,
cut at 65535: 0 exactly when the boxes overlap or touch on all three axes, and the same in either order. It is asked
for only when both envelopes are known; it then lowers both minimum-clearance watermarks, lifts the caps at or above
the uncap gap, and below the cap gap caps the arm in service whose frame prompted it. -/
def Obligations.ClearanceIsTheLargestAxisGap : Prop :=
  (∀ a b : Box, a.xlo ≤ a.xhi → a.ylo ≤ a.yhi → a.zlo ≤ a.zhi → b.xlo ≤ b.xhi → b.ylo ≤ b.yhi → b.zlo ≤ b.zhi →
    (∀ c : Nat, c < 65535 → (clearance a b ≤ c ↔
      b.xlo - a.xhi ≤ (c : Int) ∧ a.xlo - b.xhi ≤ (c : Int) ∧ b.ylo - a.yhi ≤ (c : Int) ∧ a.ylo - b.yhi ≤ (c : Int) ∧
        b.zlo - a.zhi ≤ (c : Int) ∧ a.zlo - b.zhi ≤ (c : Int))) ∧
    clearance a b ≤ 65535 ∧ clearance b a = clearance a b ∧
    (clearance a b = 0 ↔ ∃ x y z : Int, (a.xlo ≤ x ∧ x ≤ a.xhi ∧ b.xlo ≤ x ∧ x ≤ b.xhi) ∧
      (a.ylo ≤ y ∧ y ≤ a.yhi ∧ b.ylo ≤ y ∧ y ≤ b.yhi) ∧ (a.zlo ≤ z ∧ z ≤ a.zhi ∧ b.zlo ≤ z ∧ z ≤ b.zhi))) ∧
  (∀ (p : Part) (x : Arm),
    p.armA.monitor.known = false ∨ p.armB.monitor.known = false → p.evaluateClearance x = p) ∧
  ∀ (p : Part) (x : Arm) (a b : Envelope),
    p.armA.monitor.known = true → p.armB.monitor.known = true →
    p.armA.monitor.envelope = some a → p.armB.monitor.envelope = some b →
    let c := clearance a.box b.box
    let q := p.evaluateClearance x
    (∀ z, (q.arm z).monitor.minClearance = min (p.arm z).monitor.minClearance c) ∧
    (p.figures.uncapGap ≤ c → ∀ z, (q.arm z).monitor.capped = false) ∧
    (c < p.figures.uncapGap → (q.arm x.other).monitor.capped = (p.arm x.other).monitor.capped ∧
      ((q.arm x).monitor.capped = true ↔ (p.arm x).monitor.capped = true ∨
        (c < p.figures.capGap ∧ (p.arm x).guard.state.inService = true)))

/-! ## What every step keeps -/

/-- Reset satisfies every law. Its readings of the spec: log 8, 14. -/
def Obligations.LawsHoldAtReset : Prop :=
  let p := State.reset.part
  (∀ x, p.guardLaw x ∧ p.testLaw x ∧ p.linkLaw x ∧ p.stopLineLaw x) ∧
    p.engineLaw ∧ p.settledLaw ∧ p.chainLaw ∧ p.decelerationLaw ∧ p.registerLaw ∧ p.inputLaw ∧ p.tableLaw ∧
    (∀ x, p.parkLaw x) ∧ Memory.wf p.hostMem = true

/-- Every step keeps the laws of the guards and of the stop test units: reasons, phase and timers fit the state, a
test runs only on an arm held for TEST, and no arm is in service, and none capped, outside SERVING and FAULTED. Its
readings of the spec: log 2. -/
def Obligations.StepKeepsGuardAndTestLaws : Prop :=
  ∀ s t : State, (∀ x, s.part.guardLaw x ∧ s.part.testLaw x) → step s = .next t →
    ∀ x, t.part.guardLaw x ∧ t.part.testLaw x

/-- Every step keeps the laws of the drive links, and each stop line is released exactly while the engine is SERVING
or FAULTED and its guard RUNNING or HELD (asserted while the reset pin is). Its readings of the spec: log 2, 18. -/
def Obligations.StepKeepsLinkAndStopLineLaws : Prop :=
  ∀ s t : State, (∀ x, s.part.guardLaw x ∧ s.part.linkLaw x ∧ s.part.stopLineLaw x) → step s = .next t →
    ∀ x, t.part.linkLaw x ∧ t.part.stopLineLaw x

/-- Every step keeps the laws of the engine, the chains, the learned decelerations, the registers and the CELLSTOP
filter and the canonical form of host memory; and every step of a part out of reset leaves no operation unstarted and
no due block unqueued. Its readings of the spec: log 2, 7, 14. -/
def Obligations.StepKeepsEngineLaws : Prop :=
  ∀ s t : State,
    let laws := fun p : Part => p.engineLaw ∧ p.chainLaw ∧ p.decelerationLaw ∧ p.registerLaw ∧
      p.inputLaw ∧ Memory.wf p.hostMem = true ∧ (p.inReset = false → p.settledLaw)
    laws s.part → step s = .next t → laws t.part

/-- Every step keeps the law of the cell table: owner and holder set in step, and each claim number in exactly the
cells of its claim's box; and with it every step keeps the park law: the park count is the number of cells of the arm
that 8 holds, and no two claims in force of one arm carry one tag. Its readings of the spec: log 2, 5, 26. -/
def Obligations.StepKeepsTheTableLaw : Prop :=
  ∀ s t : State, s.part.tableLaw → step s = .next t →
    t.part.tableLaw ∧ ((∀ x, s.part.parkLaw x) → ∀ x, t.part.parkLaw x)

end
end

