-- ==== Sys2Proof/Laws/State.lean ====
section
/-! SUPPORT. One lemma per field per update of the state, so that no later proof unfolds a record update. -/

namespace Sys2Proof.Machine

/-! ## The two arms -/

@[simp] theorem Arm.other_other (x : Arm) : x.other.other = x := by cases x <;> rfl
@[simp] theorem Arm.other_ne (x : Arm) : x.other ≠ x := by cases x <;> simp [Arm.other]
@[simp] theorem Arm.ne_other (x : Arm) : x ≠ x.other := by cases x <;> simp [Arm.other]
@[simp] theorem Arm.other_a : Arm.a.other = .b := rfl
@[simp] theorem Arm.other_b : Arm.b.other = .a := rfl
@[simp] theorem Part.arm_a (p : Part) : p.arm .a = p.armA := rfl
@[simp] theorem Part.arm_b (p : Part) : p.arm .b = p.armB := rfl

/-- The other arm is the arm that is not x. -/
theorem Arm.eq_other_of_ne {x y : Arm} (h : y ≠ x) : y = x.other := by cases x <;> cases y <;> simp_all [Arm.other]

/-! ## updArm, and the updates of one block through it -/

@[simp] theorem Part.updArm_arm (p : Part) (x : Arm) (f : ArmPart → ArmPart) :
    (p.updArm x f).arm x = f (p.arm x) := by cases x <;> rfl
@[simp] theorem Part.updArm_arm_other (p : Part) (x : Arm) (f : ArmPart → ArmPart) :
    (p.updArm x f).arm x.other = p.arm x.other := by cases x <;> rfl
@[simp] theorem Part.updArm_other_arm (p : Part) (x : Arm) (f : ArmPart → ArmPart) :
    (p.updArm x.other f).arm x = p.arm x := by cases x <;> rfl
theorem Part.updArm_arm_of_ne (p : Part) {x y : Arm} (f : ArmPart → ArmPart) (h : y ≠ x) :
    (p.updArm x f).arm y = p.arm y := by rw [Arm.eq_other_of_ne h, Part.updArm_arm_other]
theorem Part.updArm_arm_ite (p : Part) (x y : Arm) (f : ArmPart → ArmPart) :
    (p.updArm x f).arm y = if y = x then f (p.arm y) else p.arm y := by
  by_cases h : y = x
  · subst h; simp
  · simp [h, Part.updArm_arm_of_ne p f h]
@[simp] theorem Part.updArm_updArm (p : Part) (x : Arm) (f g : ArmPart → ArmPart) :
    (p.updArm x f).updArm x g = p.updArm x (fun r => g (f r)) := by cases x <;> rfl
@[simp] theorem Part.updArm_const_self (p : Part) (x : Arm) : (p.updArm x fun _ => p.arm x) = p := by
  cases x <;> rfl
@[simp] theorem Part.updArm_id (p : Part) (x : Arm) : (p.updArm x fun r => r) = p := by cases x <;> rfl
theorem Part.updArm_congr (p : Part) (x : Arm) {f g : ArmPart → ArmPart} (h : f (p.arm x) = g (p.arm x)) :
    p.updArm x f = p.updArm x g := by cases x <;> simp_all [Part.updArm, Part.arm]

@[simp] theorem Part.updArm_now (p : Part) (x : Arm) (f : ArmPart → ArmPart) :
    (p.updArm x f).now = p.now := by cases x <;> rfl
@[simp] theorem Part.updArm_inReset (p : Part) (x : Arm) (f : ArmPart → ArmPart) :
    (p.updArm x f).inReset = p.inReset := by cases x <;> rfl
@[simp] theorem Part.updArm_busMaster (p : Part) (x : Arm) (f : ArmPart → ArmPart) :
    (p.updArm x f).busMaster = p.busMaster := by cases x <;> rfl
@[simp] theorem Part.updArm_msgEnable (p : Part) (x : Arm) (f : ArmPart → ArmPart) :
    (p.updArm x f).msgEnable = p.msgEnable := by cases x <;> rfl
@[simp] theorem Part.updArm_pcieUp (p : Part) (x : Arm) (f : ArmPart → ArmPart) :
    (p.updArm x f).pcieUp = p.pcieUp := by cases x <;> rfl
@[simp] theorem Part.updArm_cellstopPin (p : Part) (x : Arm) (f : ArmPart → ArmPart) :
    (p.updArm x f).cellstopPin = p.cellstopPin := by cases x <;> rfl
@[simp] theorem Part.updArm_cellstop (p : Part) (x : Arm) (f : ArmPart → ArmPart) :
    (p.updArm x f).cellstop = p.cellstop := by cases x <;> rfl
@[simp] theorem Part.updArm_cellstopFilter (p : Part) (x : Arm) (f : ArmPart → ArmPart) :
    (p.updArm x f).cellstopFilter = p.cellstopFilter := by cases x <;> rfl
@[simp] theorem Part.updArm_cause (p : Part) (x : Arm) (f : ArmPart → ArmPart) :
    (p.updArm x f).cause = p.cause := by cases x <;> rfl
@[simp] theorem Part.updArm_causeMask (p : Part) (x : Arm) (f : ArmPart → ArmPart) :
    (p.updArm x f).causeMask = p.causeMask := by cases x <;> rfl
@[simp] theorem Part.updArm_baseLo (p : Part) (x : Arm) (f : ArmPart → ArmPart) :
    (p.updArm x f).baseLo = p.baseLo := by cases x <;> rfl
@[simp] theorem Part.updArm_baseHi (p : Part) (x : Arm) (f : ArmPart → ArmPart) :
    (p.updArm x f).baseHi = p.baseHi := by cases x <;> rfl
@[simp] theorem Part.updArm_engine (p : Part) (x : Arm) (f : ArmPart → ArmPart) :
    (p.updArm x f).engine = p.engine := by cases x <;> rfl
@[simp] theorem Part.updArm_serve (p : Part) (x : Arm) (f : ArmPart → ArmPart) :
    (p.updArm x f).serve = p.serve := by cases x <;> rfl
@[simp] theorem Part.updArm_outcome (p : Part) (x : Arm) (f : ArmPart → ArmPart) :
    (p.updArm x f).outcome = p.outcome := by cases x <;> rfl
@[simp] theorem Part.updArm_fieldNumber (p : Part) (x : Arm) (f : ArmPart → ArmPart) :
    (p.updArm x f).fieldNumber = p.fieldNumber := by cases x <;> rfl
@[simp] theorem Part.updArm_faultKind (p : Part) (x : Arm) (f : ArmPart → ArmPart) :
    (p.updArm x f).faultKind = p.faultKind := by cases x <;> rfl
@[simp] theorem Part.updArm_setup (p : Part) (x : Arm) (f : ArmPart → ArmPart) :
    (p.updArm x f).setup = p.setup := by cases x <;> rfl
@[simp] theorem Part.updArm_opQueue (p : Part) (x : Arm) (f : ArmPart → ArmPart) :
    (p.updArm x f).opQueue = p.opQueue := by cases x <;> rfl
@[simp] theorem Part.updArm_inProgress (p : Part) (x : Arm) (f : ArmPart → ArmPart) :
    (p.updArm x f).inProgress = p.inProgress := by cases x <;> rfl
@[simp] theorem Part.updArm_pollTimer (p : Part) (x : Arm) (f : ArmPart → ArmPart) :
    (p.updArm x f).pollTimer = p.pollTimer := by cases x <;> rfl
@[simp] theorem Part.updArm_publishTimer (p : Part) (x : Arm) (f : ArmPart → ArmPart) :
    (p.updArm x f).publishTimer = p.publishTimer := by cases x <;> rfl
@[simp] theorem Part.updArm_table (p : Part) (x : Arm) (f : ArmPart → ArmPart) :
    (p.updArm x f).table = p.table := by cases x <;> rfl
@[simp] theorem Part.updArm_messages (p : Part) (x : Arm) (f : ArmPart → ArmPart) :
    (p.updArm x f).messages = p.messages := by cases x <;> rfl
@[simp] theorem Part.updArm_hostMem (p : Part) (x : Arm) (f : ArmPart → ArmPart) :
    (p.updArm x f).hostMem = p.hostMem := by cases x <;> rfl
@[simp] theorem Part.updArm_freeUsed (p : Part) (x : Arm) (f : ArmPart → ArmPart) :
    (p.updArm x f).freeUsed = p.freeUsed := by cases x <;> rfl
@[simp] theorem Part.updArm_figures (p : Part) (x : Arm) (f : ArmPart → ArmPart) :
    (p.updArm x f).figures = p.figures := by cases x <;> rfl
@[simp] theorem Part.updArm_guarding (p : Part) (x : Arm) (f : ArmPart → ArmPart) :
    (p.updArm x f).guarding = p.guarding := by cases x <;> rfl

theorem Part.updChain_eq (p : Part) (x : Arm) (f : Chain → Chain) :
    p.updChain x f = p.updArm x fun r => { r with chain := f r.chain } := rfl
theorem Part.updMonitor_eq (p : Part) (x : Arm) (f : Monitor → Monitor) :
    p.updMonitor x f = p.updArm x fun r => { r with monitor := f r.monitor } := rfl
theorem Part.updGuard_eq (p : Part) (x : Arm) (f : Guard → Guard) :
    p.updGuard x f = p.updArm x fun r => { r with guard := f r.guard } := rfl
theorem Part.updTest_eq (p : Part) (x : Arm) (f : TestUnit → TestUnit) :
    p.updTest x f = p.updArm x fun r => { r with test := f r.test } := rfl
theorem Part.updLink_eq (p : Part) (x : Arm) (f : Link → Link) :
    p.updLink x f = p.updArm x fun r => { r with link := f r.link } := rfl
theorem Part.setClaim_eq (p : Part) (x : Arm) (n : Nat) (c : Claim) :
    p.setClaim x n c = p.updArm x fun r => { r with claims := r.claims.set n c } := rfl
theorem Part.setParkCount_eq (p : Part) (x : Arm) (n : Nat) :
    p.setParkCount x n = p.updArm x fun r => { r with parkCount := n } := rfl
theorem Part.setWaiting_eq (p : Part) (x : Arm) (w : Option PendingReserve) :
    p.setWaiting x w = p.updArm x fun r => { r with waiting := w } := rfl

/-! ## setCause -/

@[simp] theorem Part.setCause_now (p : Part) (c : Cause) : (p.setCause c).now = p.now := rfl
@[simp] theorem Part.setCause_inReset (p : Part) (c : Cause) : (p.setCause c).inReset = p.inReset := rfl
@[simp] theorem Part.setCause_busMaster (p : Part) (c : Cause) : (p.setCause c).busMaster = p.busMaster := rfl
@[simp] theorem Part.setCause_msgEnable (p : Part) (c : Cause) : (p.setCause c).msgEnable = p.msgEnable := rfl
@[simp] theorem Part.setCause_pcieUp (p : Part) (c : Cause) : (p.setCause c).pcieUp = p.pcieUp := rfl
@[simp] theorem Part.setCause_cellstopPin (p : Part) (c : Cause) : (p.setCause c).cellstopPin = p.cellstopPin := rfl
@[simp] theorem Part.setCause_cellstop (p : Part) (c : Cause) : (p.setCause c).cellstop = p.cellstop := rfl
@[simp] theorem Part.setCause_cellstopFilter (p : Part) (c : Cause) : (p.setCause c).cellstopFilter = p.cellstopFilter := rfl
@[simp] theorem Part.setCause_cause (p : Part) (c : Cause) : (p.setCause c).cause = p.cause ||| BitVec.twoPow 32 c.bit := rfl
@[simp] theorem Part.setCause_causeMask (p : Part) (c : Cause) : (p.setCause c).causeMask = p.causeMask := rfl
@[simp] theorem Part.setCause_baseLo (p : Part) (c : Cause) : (p.setCause c).baseLo = p.baseLo := rfl
@[simp] theorem Part.setCause_baseHi (p : Part) (c : Cause) : (p.setCause c).baseHi = p.baseHi := rfl
@[simp] theorem Part.setCause_engine (p : Part) (c : Cause) : (p.setCause c).engine = p.engine := rfl
@[simp] theorem Part.setCause_serve (p : Part) (c : Cause) : (p.setCause c).serve = p.serve := rfl
@[simp] theorem Part.setCause_outcome (p : Part) (c : Cause) : (p.setCause c).outcome = p.outcome := rfl
@[simp] theorem Part.setCause_fieldNumber (p : Part) (c : Cause) : (p.setCause c).fieldNumber = p.fieldNumber := rfl
@[simp] theorem Part.setCause_faultKind (p : Part) (c : Cause) : (p.setCause c).faultKind = p.faultKind := rfl
@[simp] theorem Part.setCause_setup (p : Part) (c : Cause) : (p.setCause c).setup = p.setup := rfl
@[simp] theorem Part.setCause_opQueue (p : Part) (c : Cause) : (p.setCause c).opQueue = p.opQueue := rfl
@[simp] theorem Part.setCause_inProgress (p : Part) (c : Cause) : (p.setCause c).inProgress = p.inProgress := rfl
@[simp] theorem Part.setCause_pollTimer (p : Part) (c : Cause) : (p.setCause c).pollTimer = p.pollTimer := rfl
@[simp] theorem Part.setCause_publishTimer (p : Part) (c : Cause) : (p.setCause c).publishTimer = p.publishTimer := rfl
@[simp] theorem Part.setCause_table (p : Part) (c : Cause) : (p.setCause c).table = p.table := rfl
@[simp] theorem Part.setCause_messages (p : Part) (c : Cause) : (p.setCause c).messages = p.messages := rfl
@[simp] theorem Part.setCause_hostMem (p : Part) (c : Cause) : (p.setCause c).hostMem = p.hostMem := rfl
@[simp] theorem Part.setCause_freeUsed (p : Part) (c : Cause) : (p.setCause c).freeUsed = p.freeUsed := rfl
@[simp] theorem Part.setCause_arm (p : Part) (c : Cause) (x : Arm) : (p.setCause c).arm x = p.arm x := by cases x <;> rfl
@[simp] theorem Part.setCause_figures (p : Part) (c : Cause) : (p.setCause c).figures = p.figures := rfl
@[simp] theorem Part.setCause_guarding (p : Part) (c : Cause) : (p.setCause c).guarding = p.guarding := rfl

/-! ## queueOp -/

@[simp] theorem Part.queueOp_now (p : Part) (op : MemOp) : (p.queueOp op).now = p.now := rfl
@[simp] theorem Part.queueOp_inReset (p : Part) (op : MemOp) : (p.queueOp op).inReset = p.inReset := rfl
@[simp] theorem Part.queueOp_busMaster (p : Part) (op : MemOp) : (p.queueOp op).busMaster = p.busMaster := rfl
@[simp] theorem Part.queueOp_msgEnable (p : Part) (op : MemOp) : (p.queueOp op).msgEnable = p.msgEnable := rfl
@[simp] theorem Part.queueOp_pcieUp (p : Part) (op : MemOp) : (p.queueOp op).pcieUp = p.pcieUp := rfl
@[simp] theorem Part.queueOp_cellstopPin (p : Part) (op : MemOp) : (p.queueOp op).cellstopPin = p.cellstopPin := rfl
@[simp] theorem Part.queueOp_cellstop (p : Part) (op : MemOp) : (p.queueOp op).cellstop = p.cellstop := rfl
@[simp] theorem Part.queueOp_cellstopFilter (p : Part) (op : MemOp) : (p.queueOp op).cellstopFilter = p.cellstopFilter := rfl
@[simp] theorem Part.queueOp_cause (p : Part) (op : MemOp) : (p.queueOp op).cause = p.cause := rfl
@[simp] theorem Part.queueOp_causeMask (p : Part) (op : MemOp) : (p.queueOp op).causeMask = p.causeMask := rfl
@[simp] theorem Part.queueOp_baseLo (p : Part) (op : MemOp) : (p.queueOp op).baseLo = p.baseLo := rfl
@[simp] theorem Part.queueOp_baseHi (p : Part) (op : MemOp) : (p.queueOp op).baseHi = p.baseHi := rfl
@[simp] theorem Part.queueOp_engine (p : Part) (op : MemOp) : (p.queueOp op).engine = p.engine := rfl
@[simp] theorem Part.queueOp_serve (p : Part) (op : MemOp) : (p.queueOp op).serve = p.serve := rfl
@[simp] theorem Part.queueOp_outcome (p : Part) (op : MemOp) : (p.queueOp op).outcome = p.outcome := rfl
@[simp] theorem Part.queueOp_fieldNumber (p : Part) (op : MemOp) : (p.queueOp op).fieldNumber = p.fieldNumber := rfl
@[simp] theorem Part.queueOp_faultKind (p : Part) (op : MemOp) : (p.queueOp op).faultKind = p.faultKind := rfl
@[simp] theorem Part.queueOp_setup (p : Part) (op : MemOp) : (p.queueOp op).setup = p.setup := rfl
@[simp] theorem Part.queueOp_opQueue (p : Part) (op : MemOp) : (p.queueOp op).opQueue = p.opQueue ++ [op] := rfl
@[simp] theorem Part.queueOp_inProgress (p : Part) (op : MemOp) : (p.queueOp op).inProgress = p.inProgress := rfl
@[simp] theorem Part.queueOp_pollTimer (p : Part) (op : MemOp) : (p.queueOp op).pollTimer = p.pollTimer := rfl
@[simp] theorem Part.queueOp_publishTimer (p : Part) (op : MemOp) : (p.queueOp op).publishTimer = p.publishTimer := rfl
@[simp] theorem Part.queueOp_table (p : Part) (op : MemOp) : (p.queueOp op).table = p.table := rfl
@[simp] theorem Part.queueOp_messages (p : Part) (op : MemOp) : (p.queueOp op).messages = p.messages := rfl
@[simp] theorem Part.queueOp_hostMem (p : Part) (op : MemOp) : (p.queueOp op).hostMem = p.hostMem := rfl
@[simp] theorem Part.queueOp_freeUsed (p : Part) (op : MemOp) : (p.queueOp op).freeUsed = p.freeUsed := rfl
@[simp] theorem Part.queueOp_arm (p : Part) (op : MemOp) (x : Arm) : (p.queueOp op).arm x = p.arm x := by cases x <;> rfl
@[simp] theorem Part.queueOp_figures (p : Part) (op : MemOp) : (p.queueOp op).figures = p.figures := rfl
@[simp] theorem Part.queueOp_guarding (p : Part) (op : MemOp) : (p.queueOp op).guarding = p.guarding := rfl

/-! ## setTable -/

@[simp] theorem Part.setTable_now (p : Part) (t : CellTable) : (p.setTable t).now = p.now := rfl
@[simp] theorem Part.setTable_inReset (p : Part) (t : CellTable) : (p.setTable t).inReset = p.inReset := rfl
@[simp] theorem Part.setTable_busMaster (p : Part) (t : CellTable) : (p.setTable t).busMaster = p.busMaster := rfl
@[simp] theorem Part.setTable_msgEnable (p : Part) (t : CellTable) : (p.setTable t).msgEnable = p.msgEnable := rfl
@[simp] theorem Part.setTable_pcieUp (p : Part) (t : CellTable) : (p.setTable t).pcieUp = p.pcieUp := rfl
@[simp] theorem Part.setTable_cellstopPin (p : Part) (t : CellTable) : (p.setTable t).cellstopPin = p.cellstopPin := rfl
@[simp] theorem Part.setTable_cellstop (p : Part) (t : CellTable) : (p.setTable t).cellstop = p.cellstop := rfl
@[simp] theorem Part.setTable_cellstopFilter (p : Part) (t : CellTable) : (p.setTable t).cellstopFilter = p.cellstopFilter := rfl
@[simp] theorem Part.setTable_cause (p : Part) (t : CellTable) : (p.setTable t).cause = p.cause := rfl
@[simp] theorem Part.setTable_causeMask (p : Part) (t : CellTable) : (p.setTable t).causeMask = p.causeMask := rfl
@[simp] theorem Part.setTable_baseLo (p : Part) (t : CellTable) : (p.setTable t).baseLo = p.baseLo := rfl
@[simp] theorem Part.setTable_baseHi (p : Part) (t : CellTable) : (p.setTable t).baseHi = p.baseHi := rfl
@[simp] theorem Part.setTable_engine (p : Part) (t : CellTable) : (p.setTable t).engine = p.engine := rfl
@[simp] theorem Part.setTable_serve (p : Part) (t : CellTable) : (p.setTable t).serve = p.serve := rfl
@[simp] theorem Part.setTable_outcome (p : Part) (t : CellTable) : (p.setTable t).outcome = p.outcome := rfl
@[simp] theorem Part.setTable_fieldNumber (p : Part) (t : CellTable) : (p.setTable t).fieldNumber = p.fieldNumber := rfl
@[simp] theorem Part.setTable_faultKind (p : Part) (t : CellTable) : (p.setTable t).faultKind = p.faultKind := rfl
@[simp] theorem Part.setTable_setup (p : Part) (t : CellTable) : (p.setTable t).setup = p.setup := rfl
@[simp] theorem Part.setTable_opQueue (p : Part) (t : CellTable) : (p.setTable t).opQueue = p.opQueue := rfl
@[simp] theorem Part.setTable_inProgress (p : Part) (t : CellTable) : (p.setTable t).inProgress = p.inProgress := rfl
@[simp] theorem Part.setTable_pollTimer (p : Part) (t : CellTable) : (p.setTable t).pollTimer = p.pollTimer := rfl
@[simp] theorem Part.setTable_publishTimer (p : Part) (t : CellTable) : (p.setTable t).publishTimer = p.publishTimer := rfl
@[simp] theorem Part.setTable_table (p : Part) (t : CellTable) : (p.setTable t).table = t := rfl
@[simp] theorem Part.setTable_messages (p : Part) (t : CellTable) : (p.setTable t).messages = p.messages := rfl
@[simp] theorem Part.setTable_hostMem (p : Part) (t : CellTable) : (p.setTable t).hostMem = p.hostMem := rfl
@[simp] theorem Part.setTable_freeUsed (p : Part) (t : CellTable) : (p.setTable t).freeUsed = p.freeUsed := rfl
@[simp] theorem Part.setTable_arm (p : Part) (t : CellTable) (x : Arm) : (p.setTable t).arm x = p.arm x := by cases x <;> rfl
@[simp] theorem Part.setTable_figures (p : Part) (t : CellTable) : (p.setTable t).figures = p.figures := rfl
@[simp] theorem Part.setTable_guarding (p : Part) (t : CellTable) : (p.setTable t).guarding = p.guarding := rfl

/-! ## markDue -/

/-- All that markDue can do: the mark is set while SERVING or CLOSING, and nothing happens otherwise (R154). -/
theorem Part.markDue_cases (p : Part) (x : Arm) :
    (p.marksKept = true ∧ p.markDue x = p.updChain x fun c => { c with publishDue := true }) ∨
      (p.marksKept = false ∧ p.markDue x = p) := by
  unfold Part.markDue; split <;> simp_all
@[simp] theorem Part.markDue_now (p : Part) (x : Arm) : (p.markDue x).now = p.now := by
  unfold Part.markDue; split <;> simp [Part.updChain]
@[simp] theorem Part.markDue_inReset (p : Part) (x : Arm) : (p.markDue x).inReset = p.inReset := by
  unfold Part.markDue; split <;> simp [Part.updChain]
@[simp] theorem Part.markDue_busMaster (p : Part) (x : Arm) : (p.markDue x).busMaster = p.busMaster := by
  unfold Part.markDue; split <;> simp [Part.updChain]
@[simp] theorem Part.markDue_msgEnable (p : Part) (x : Arm) : (p.markDue x).msgEnable = p.msgEnable := by
  unfold Part.markDue; split <;> simp [Part.updChain]
@[simp] theorem Part.markDue_pcieUp (p : Part) (x : Arm) : (p.markDue x).pcieUp = p.pcieUp := by
  unfold Part.markDue; split <;> simp [Part.updChain]
@[simp] theorem Part.markDue_cellstopPin (p : Part) (x : Arm) : (p.markDue x).cellstopPin = p.cellstopPin := by
  unfold Part.markDue; split <;> simp [Part.updChain]
@[simp] theorem Part.markDue_cellstop (p : Part) (x : Arm) : (p.markDue x).cellstop = p.cellstop := by
  unfold Part.markDue; split <;> simp [Part.updChain]
@[simp] theorem Part.markDue_cellstopFilter (p : Part) (x : Arm) : (p.markDue x).cellstopFilter = p.cellstopFilter := by
  unfold Part.markDue; split <;> simp [Part.updChain]
@[simp] theorem Part.markDue_cause (p : Part) (x : Arm) : (p.markDue x).cause = p.cause := by
  unfold Part.markDue; split <;> simp [Part.updChain]
@[simp] theorem Part.markDue_causeMask (p : Part) (x : Arm) : (p.markDue x).causeMask = p.causeMask := by
  unfold Part.markDue; split <;> simp [Part.updChain]
@[simp] theorem Part.markDue_baseLo (p : Part) (x : Arm) : (p.markDue x).baseLo = p.baseLo := by
  unfold Part.markDue; split <;> simp [Part.updChain]
@[simp] theorem Part.markDue_baseHi (p : Part) (x : Arm) : (p.markDue x).baseHi = p.baseHi := by
  unfold Part.markDue; split <;> simp [Part.updChain]
@[simp] theorem Part.markDue_engine (p : Part) (x : Arm) : (p.markDue x).engine = p.engine := by
  unfold Part.markDue; split <;> simp [Part.updChain]
@[simp] theorem Part.markDue_serve (p : Part) (x : Arm) : (p.markDue x).serve = p.serve := by
  unfold Part.markDue; split <;> simp [Part.updChain]
@[simp] theorem Part.markDue_outcome (p : Part) (x : Arm) : (p.markDue x).outcome = p.outcome := by
  unfold Part.markDue; split <;> simp [Part.updChain]
@[simp] theorem Part.markDue_fieldNumber (p : Part) (x : Arm) : (p.markDue x).fieldNumber = p.fieldNumber := by
  unfold Part.markDue; split <;> simp [Part.updChain]
@[simp] theorem Part.markDue_faultKind (p : Part) (x : Arm) : (p.markDue x).faultKind = p.faultKind := by
  unfold Part.markDue; split <;> simp [Part.updChain]
@[simp] theorem Part.markDue_setup (p : Part) (x : Arm) : (p.markDue x).setup = p.setup := by
  unfold Part.markDue; split <;> simp [Part.updChain]
@[simp] theorem Part.markDue_opQueue (p : Part) (x : Arm) : (p.markDue x).opQueue = p.opQueue := by
  unfold Part.markDue; split <;> simp [Part.updChain]
@[simp] theorem Part.markDue_inProgress (p : Part) (x : Arm) : (p.markDue x).inProgress = p.inProgress := by
  unfold Part.markDue; split <;> simp [Part.updChain]
@[simp] theorem Part.markDue_pollTimer (p : Part) (x : Arm) : (p.markDue x).pollTimer = p.pollTimer := by
  unfold Part.markDue; split <;> simp [Part.updChain]
@[simp] theorem Part.markDue_publishTimer (p : Part) (x : Arm) : (p.markDue x).publishTimer = p.publishTimer := by
  unfold Part.markDue; split <;> simp [Part.updChain]
@[simp] theorem Part.markDue_table (p : Part) (x : Arm) : (p.markDue x).table = p.table := by
  unfold Part.markDue; split <;> simp [Part.updChain]
@[simp] theorem Part.markDue_messages (p : Part) (x : Arm) : (p.markDue x).messages = p.messages := by
  unfold Part.markDue; split <;> simp [Part.updChain]
@[simp] theorem Part.markDue_hostMem (p : Part) (x : Arm) : (p.markDue x).hostMem = p.hostMem := by
  unfold Part.markDue; split <;> simp [Part.updChain]
@[simp] theorem Part.markDue_freeUsed (p : Part) (x : Arm) : (p.markDue x).freeUsed = p.freeUsed := by
  unfold Part.markDue; split <;> simp [Part.updChain]
@[simp] theorem Part.markDue_figures (p : Part) (x : Arm) : (p.markDue x).figures = p.figures := by
  unfold Part.markDue; split <;> simp [Part.updChain]
@[simp] theorem Part.markDue_guarding (p : Part) (x : Arm) : (p.markDue x).guarding = p.guarding := by
  unfold Part.markDue; split <;> simp [Part.updChain]
@[simp] theorem Part.markDue_arm_hold (p : Part) (x y : Arm) : ((p.markDue x).arm y).hold = (p.arm y).hold := by
  unfold Part.markDue; split <;> cases x <;> cases y <;> rfl
@[simp] theorem Part.markDue_arm_claims (p : Part) (x y : Arm) : ((p.markDue x).arm y).claims = (p.arm y).claims := by
  unfold Part.markDue; split <;> cases x <;> cases y <;> rfl
@[simp] theorem Part.markDue_arm_parkCount (p : Part) (x y : Arm) : ((p.markDue x).arm y).parkCount = (p.arm y).parkCount := by
  unfold Part.markDue; split <;> cases x <;> cases y <;> rfl
@[simp] theorem Part.markDue_arm_waiting (p : Part) (x y : Arm) : ((p.markDue x).arm y).waiting = (p.arm y).waiting := by
  unfold Part.markDue; split <;> cases x <;> cases y <;> rfl
@[simp] theorem Part.markDue_arm_monitor (p : Part) (x y : Arm) : ((p.markDue x).arm y).monitor = (p.arm y).monitor := by
  unfold Part.markDue; split <;> cases x <;> cases y <;> rfl
@[simp] theorem Part.markDue_arm_guard (p : Part) (x y : Arm) : ((p.markDue x).arm y).guard = (p.arm y).guard := by
  unfold Part.markDue; split <;> cases x <;> cases y <;> rfl
@[simp] theorem Part.markDue_arm_test (p : Part) (x y : Arm) : ((p.markDue x).arm y).test = (p.arm y).test := by
  unfold Part.markDue; split <;> cases x <;> cases y <;> rfl
@[simp] theorem Part.markDue_arm_link (p : Part) (x y : Arm) : ((p.markDue x).arm y).link = (p.arm y).link := by
  unfold Part.markDue; split <;> cases x <;> cases y <;> rfl
@[simp] theorem Part.markDue_arm_reports (p : Part) (x y : Arm) : ((p.markDue x).arm y).reports = (p.arm y).reports := by
  unfold Part.markDue; split <;> cases x <;> cases y <;> rfl
@[simp] theorem Part.markDue_arm_notices (p : Part) (x y : Arm) : ((p.markDue x).arm y).notices = (p.arm y).notices := by
  unfold Part.markDue; split <;> cases x <;> cases y <;> rfl
@[simp] theorem Part.markDue_arm_answers (p : Part) (x y : Arm) : ((p.markDue x).arm y).answers = (p.arm y).answers := by
  unfold Part.markDue; split <;> cases x <;> cases y <;> rfl
@[simp] theorem Part.markDue_arm_figures (p : Part) (x y : Arm) : ((p.markDue x).arm y).figures = (p.arm y).figures := by
  unfold Part.markDue; split <;> cases x <;> cases y <;> rfl

/-! ## markChanged -/

/-- All that markChanged can do: the mark is set while SERVING or CLOSING, and nothing happens otherwise (R154). -/
theorem Part.markChanged_cases (p : Part) (x : Arm) :
    (p.marksKept = true ∧ p.markChanged x = p.updChain x fun c => { c with changed := true }) ∨
      (p.marksKept = false ∧ p.markChanged x = p) := by
  unfold Part.markChanged; split <;> simp_all
@[simp] theorem Part.markChanged_now (p : Part) (x : Arm) : (p.markChanged x).now = p.now := by
  unfold Part.markChanged; split <;> simp [Part.updChain]
@[simp] theorem Part.markChanged_inReset (p : Part) (x : Arm) : (p.markChanged x).inReset = p.inReset := by
  unfold Part.markChanged; split <;> simp [Part.updChain]
@[simp] theorem Part.markChanged_busMaster (p : Part) (x : Arm) : (p.markChanged x).busMaster = p.busMaster := by
  unfold Part.markChanged; split <;> simp [Part.updChain]
@[simp] theorem Part.markChanged_msgEnable (p : Part) (x : Arm) : (p.markChanged x).msgEnable = p.msgEnable := by
  unfold Part.markChanged; split <;> simp [Part.updChain]
@[simp] theorem Part.markChanged_pcieUp (p : Part) (x : Arm) : (p.markChanged x).pcieUp = p.pcieUp := by
  unfold Part.markChanged; split <;> simp [Part.updChain]
@[simp] theorem Part.markChanged_cellstopPin (p : Part) (x : Arm) : (p.markChanged x).cellstopPin = p.cellstopPin := by
  unfold Part.markChanged; split <;> simp [Part.updChain]
@[simp] theorem Part.markChanged_cellstop (p : Part) (x : Arm) : (p.markChanged x).cellstop = p.cellstop := by
  unfold Part.markChanged; split <;> simp [Part.updChain]
@[simp] theorem Part.markChanged_cellstopFilter (p : Part) (x : Arm) : (p.markChanged x).cellstopFilter = p.cellstopFilter := by
  unfold Part.markChanged; split <;> simp [Part.updChain]
@[simp] theorem Part.markChanged_cause (p : Part) (x : Arm) : (p.markChanged x).cause = p.cause := by
  unfold Part.markChanged; split <;> simp [Part.updChain]
@[simp] theorem Part.markChanged_causeMask (p : Part) (x : Arm) : (p.markChanged x).causeMask = p.causeMask := by
  unfold Part.markChanged; split <;> simp [Part.updChain]
@[simp] theorem Part.markChanged_baseLo (p : Part) (x : Arm) : (p.markChanged x).baseLo = p.baseLo := by
  unfold Part.markChanged; split <;> simp [Part.updChain]
@[simp] theorem Part.markChanged_baseHi (p : Part) (x : Arm) : (p.markChanged x).baseHi = p.baseHi := by
  unfold Part.markChanged; split <;> simp [Part.updChain]
@[simp] theorem Part.markChanged_engine (p : Part) (x : Arm) : (p.markChanged x).engine = p.engine := by
  unfold Part.markChanged; split <;> simp [Part.updChain]
@[simp] theorem Part.markChanged_serve (p : Part) (x : Arm) : (p.markChanged x).serve = p.serve := by
  unfold Part.markChanged; split <;> simp [Part.updChain]
@[simp] theorem Part.markChanged_outcome (p : Part) (x : Arm) : (p.markChanged x).outcome = p.outcome := by
  unfold Part.markChanged; split <;> simp [Part.updChain]
@[simp] theorem Part.markChanged_fieldNumber (p : Part) (x : Arm) : (p.markChanged x).fieldNumber = p.fieldNumber := by
  unfold Part.markChanged; split <;> simp [Part.updChain]
@[simp] theorem Part.markChanged_faultKind (p : Part) (x : Arm) : (p.markChanged x).faultKind = p.faultKind := by
  unfold Part.markChanged; split <;> simp [Part.updChain]
@[simp] theorem Part.markChanged_setup (p : Part) (x : Arm) : (p.markChanged x).setup = p.setup := by
  unfold Part.markChanged; split <;> simp [Part.updChain]
@[simp] theorem Part.markChanged_opQueue (p : Part) (x : Arm) : (p.markChanged x).opQueue = p.opQueue := by
  unfold Part.markChanged; split <;> simp [Part.updChain]
@[simp] theorem Part.markChanged_inProgress (p : Part) (x : Arm) : (p.markChanged x).inProgress = p.inProgress := by
  unfold Part.markChanged; split <;> simp [Part.updChain]
@[simp] theorem Part.markChanged_pollTimer (p : Part) (x : Arm) : (p.markChanged x).pollTimer = p.pollTimer := by
  unfold Part.markChanged; split <;> simp [Part.updChain]
@[simp] theorem Part.markChanged_publishTimer (p : Part) (x : Arm) : (p.markChanged x).publishTimer = p.publishTimer := by
  unfold Part.markChanged; split <;> simp [Part.updChain]
@[simp] theorem Part.markChanged_table (p : Part) (x : Arm) : (p.markChanged x).table = p.table := by
  unfold Part.markChanged; split <;> simp [Part.updChain]
@[simp] theorem Part.markChanged_messages (p : Part) (x : Arm) : (p.markChanged x).messages = p.messages := by
  unfold Part.markChanged; split <;> simp [Part.updChain]
@[simp] theorem Part.markChanged_hostMem (p : Part) (x : Arm) : (p.markChanged x).hostMem = p.hostMem := by
  unfold Part.markChanged; split <;> simp [Part.updChain]
@[simp] theorem Part.markChanged_freeUsed (p : Part) (x : Arm) : (p.markChanged x).freeUsed = p.freeUsed := by
  unfold Part.markChanged; split <;> simp [Part.updChain]
@[simp] theorem Part.markChanged_figures (p : Part) (x : Arm) : (p.markChanged x).figures = p.figures := by
  unfold Part.markChanged; split <;> simp [Part.updChain]
@[simp] theorem Part.markChanged_guarding (p : Part) (x : Arm) : (p.markChanged x).guarding = p.guarding := by
  unfold Part.markChanged; split <;> simp [Part.updChain]
@[simp] theorem Part.markChanged_arm_hold (p : Part) (x y : Arm) : ((p.markChanged x).arm y).hold = (p.arm y).hold := by
  unfold Part.markChanged; split <;> cases x <;> cases y <;> rfl
@[simp] theorem Part.markChanged_arm_claims (p : Part) (x y : Arm) : ((p.markChanged x).arm y).claims = (p.arm y).claims := by
  unfold Part.markChanged; split <;> cases x <;> cases y <;> rfl
@[simp] theorem Part.markChanged_arm_parkCount (p : Part) (x y : Arm) : ((p.markChanged x).arm y).parkCount = (p.arm y).parkCount := by
  unfold Part.markChanged; split <;> cases x <;> cases y <;> rfl
@[simp] theorem Part.markChanged_arm_waiting (p : Part) (x y : Arm) : ((p.markChanged x).arm y).waiting = (p.arm y).waiting := by
  unfold Part.markChanged; split <;> cases x <;> cases y <;> rfl
@[simp] theorem Part.markChanged_arm_monitor (p : Part) (x y : Arm) : ((p.markChanged x).arm y).monitor = (p.arm y).monitor := by
  unfold Part.markChanged; split <;> cases x <;> cases y <;> rfl
@[simp] theorem Part.markChanged_arm_guard (p : Part) (x y : Arm) : ((p.markChanged x).arm y).guard = (p.arm y).guard := by
  unfold Part.markChanged; split <;> cases x <;> cases y <;> rfl
@[simp] theorem Part.markChanged_arm_test (p : Part) (x y : Arm) : ((p.markChanged x).arm y).test = (p.arm y).test := by
  unfold Part.markChanged; split <;> cases x <;> cases y <;> rfl
@[simp] theorem Part.markChanged_arm_link (p : Part) (x y : Arm) : ((p.markChanged x).arm y).link = (p.arm y).link := by
  unfold Part.markChanged; split <;> cases x <;> cases y <;> rfl
@[simp] theorem Part.markChanged_arm_reports (p : Part) (x y : Arm) : ((p.markChanged x).arm y).reports = (p.arm y).reports := by
  unfold Part.markChanged; split <;> cases x <;> cases y <;> rfl
@[simp] theorem Part.markChanged_arm_notices (p : Part) (x y : Arm) : ((p.markChanged x).arm y).notices = (p.arm y).notices := by
  unfold Part.markChanged; split <;> cases x <;> cases y <;> rfl
@[simp] theorem Part.markChanged_arm_answers (p : Part) (x y : Arm) : ((p.markChanged x).arm y).answers = (p.arm y).answers := by
  unfold Part.markChanged; split <;> cases x <;> cases y <;> rfl
@[simp] theorem Part.markChanged_arm_figures (p : Part) (x y : Arm) : ((p.markChanged x).arm y).figures = (p.arm y).figures := by
  unfold Part.markChanged; split <;> cases x <;> cases y <;> rfl

end Sys2Proof.Machine
end

