-- ==== Sys2Proof/Laws/Operations.lean ====
section
/-! SUPPORT. For each shared operation, once, everything it can do. -/

namespace Sys2Proof.Machine

/-! ## The drive link -/

theorem Link.transmit_cases (l : Link) :
    (∃ f, l.state = .active ∧ l.onLine = none ∧ l.stopPlace = some f ∧
      l.transmit = { l with stopPlace := none, onLine := some (.stop f) }) ∨
    (∃ f, l.state = .active ∧ l.onLine = none ∧ l.stopPlace = none ∧ l.speedPlace = some f ∧
      l.transmit = { l with speedPlace := none, onLine := some (.speed f) }) ∨
    ((l.state = .active → l.onLine = none → l.stopPlace = none ∧ l.speedPlace = none) ∧ l.transmit = l) := by
  unfold Link.transmit
  split
  · next h =>
    cases hs : l.stopPlace with
    | some f => exact .inl ⟨f, h.1, h.2, rfl, rfl⟩
    | none =>
      cases hv : l.speedPlace with
      | some f => exact .inr (.inl ⟨f, h.1, h.2, rfl, rfl, rfl⟩)
      | none => exact .inr (.inr ⟨fun _ _ => ⟨rfl, rfl⟩, rfl⟩)
  · next h => exact .inr (.inr ⟨fun ha ho => absurd ⟨ha, ho⟩ h, rfl⟩)

/-- Transmission moves a frame from a place to the line and changes nothing else of the link. -/
theorem Link.transmit_rest (l : Link) :
    l.transmit.state = l.state ∧ l.transmit.phase = l.phase ∧ l.transmit.received = l.received ∧
      l.transmit.gapTimer = l.gapTimer ∧ l.transmit.fifo = l.fifo ∧ l.transmit.repeatTimer = l.repeatTimer := by
  rcases l.transmit_cases with ⟨f, _, _, _, h⟩ | ⟨f, _, _, _, _, h⟩ | ⟨_, h⟩ <;> rw [h] <;> simp

@[simp] theorem Link.transmit_state (l : Link) : l.transmit.state = l.state := l.transmit_rest.1
@[simp] theorem Link.transmit_phase (l : Link) : l.transmit.phase = l.phase := l.transmit_rest.2.1
@[simp] theorem Link.transmit_received (l : Link) : l.transmit.received = l.received := l.transmit_rest.2.2.1
@[simp] theorem Link.transmit_gapTimer (l : Link) : l.transmit.gapTimer = l.gapTimer := l.transmit_rest.2.2.2.1
@[simp] theorem Link.transmit_fifo (l : Link) : l.transmit.fifo = l.fifo := l.transmit_rest.2.2.2.2.1
@[simp] theorem Link.transmit_repeatTimer (l : Link) : l.transmit.repeatTimer = l.repeatTimer :=
  l.transmit_rest.2.2.2.2.2

/-- After transmission an ACTIVE link whose line is idle has nothing waiting (R133). -/
theorem Link.transmit_idle (l : Link) (ha : l.transmit.state = .active) (hl : l.transmit.onLine = none) :
    l.transmit.stopPlace = none ∧ l.transmit.speedPlace = none := by
  rcases l.transmit_cases with ⟨f, _, _, _, h⟩ | ⟨f, _, _, _, _, h⟩ | ⟨hn, h⟩ <;> rw [h] at ha hl ⊢
  · simp at hl
  · simp at hl
  · exact hn ha hl

/-! ## Results (R147, R148) -/

theorem Part.handResult_cases (p : Part) (x : Arm) (slot : Nat) (v : Verdict) (f : ResultFigures) :
    ((p.engine = .serving ∧ (p.arm x).chain.openSlot = some slot) ∧
      p.handResult x slot v f = ((p.updChain x fun c => { c with answered := true }).queueOp
        (.figureWrite x slot 0x24 (finalBytes p.now v f))).queueOp (.stageWrite x slot .done)) ∨
    (¬ (p.engine = .serving ∧ (p.arm x).chain.openSlot = some slot) ∧ p.handResult x slot v f = p) := by
  unfold Part.handResult; split <;> simp_all

theorem Part.waitingNotice_cases (p : Part) (x : Arm) (slot : Nat) (f : ResultFigures) :
    (p.engine = .serving ∧ p.waitingNotice x slot f =
      ((p.queueOp (.figureWrite x slot 0x29 f.bytes)).queueOp (.stageWrite x slot .waiting)).markDue x) ∨
    (p.engine ≠ .serving ∧ p.waitingNotice x slot f = p) := by
  unfold Part.waitingNotice; split <;> simp_all

/-! ## Guards (R90 to R104) -/

/-- A reason that is present changes nothing; a new one joins the set, and only a RUNNING guard moves on it. -/
theorem Part.addReason_cases (p : Part) (x : Arm) (r : HoldReason) :
    let g := (p.arm x).guard
    let q := (p.updGuard x fun g => { g with reasons := g.reasons.put true r }).guardChanged x
    (g.reasons.has r = true ∧ p.addReason x r = p) ∨
    (g.reasons.has r = false ∧ g.state = .running ∧ p.addReason x r = q.enterHeld x) ∨
    (g.reasons.has r = false ∧ g.state ≠ .running ∧ p.addReason x r = q) := by
  unfold Part.addReason
  by_cases h : (p.arm x).guard.reasons.has r = true
  · simp [h]
  · by_cases hs : (p.arm x).guard.state = .running
    · exact .inr (.inl ⟨by simpa using h, hs, by simp only [h, hs]; rfl⟩)
    · exact .inr (.inr ⟨by simpa using h, hs, by simp only [h, hs]; rfl⟩)

/-- A reason that is absent changes nothing; one that goes leaves the set, and a HELD guard whose set it empties
resumes. -/
theorem Part.removeReason_cases (p : Part) (x : Arm) (r : HoldReason) :
    let g := (p.arm x).guard
    let q := (p.updGuard x fun g => { g with reasons := g.reasons.put false r }).guardChanged x
    (g.reasons.has r = false ∧ p.removeReason x r = p) ∨
    (g.reasons.has r = true ∧ (g.state = .held ∧ (g.reasons.put false r).empty = true) ∧
      p.removeReason x r = q.enterRunning x) ∨
    (g.reasons.has r = true ∧ ¬ (g.state = .held ∧ (g.reasons.put false r).empty = true) ∧
      p.removeReason x r = q) := by
  unfold Part.removeReason
  by_cases h : (p.arm x).guard.reasons.has r = true
  · by_cases hs : (p.arm x).guard.state = .held ∧ ((p.arm x).guard.reasons.put false r).empty = true
    · exact .inr (.inl ⟨h, hs, by simp only [h, if_true]; exact if_pos hs⟩)
    · exact .inr (.inr ⟨h, hs, by simp only [h, if_true]; exact if_neg hs⟩)
  · exact .inl ⟨by simpa using h, by simp [h]⟩

theorem Part.clearReason_cases (p : Part) (x : Arm) (r : HoldReason) :
    ((p.arm x).guard.reasons.has r = true ∧ p.clearReason x r =
      (p.updGuard x fun g => { g with reasons := g.reasons.put false r }).guardChanged x) ∨
    ((p.arm x).guard.reasons.has r = false ∧ p.clearReason x r = p) := by
  unfold Part.clearReason
  by_cases h : (p.arm x).guard.reasons.has r = true
  · exact .inl ⟨h, by simp only [h, if_true]⟩
  · exact .inr ⟨by simpa using h, by simp [h]⟩

theorem Part.clearCapped_cases (p : Part) (x : Arm) :
    ((p.arm x).monitor.capped = true ∧
      p.clearCapped x = (p.updMonitor x fun m => { m with capped := false }).markDue x) ∨
    ((p.arm x).monitor.capped = false ∧ p.clearCapped x = p) := by
  unfold Part.clearCapped; split <;> simp_all

theorem Part.abortTest_cases (p : Part) (x : Arm) (cause : StopCause) :
    ((p.arm x).test.phase = .braking ∧ p.abortTest x cause =
      (p.recordTest x (unmeasured .testAborted cause (p.arm x).test.v0 (p.arm x).test.alrn)).clearReason x .test) ∨
    ((p.arm x).test.phase ≠ .braking ∧ p.abortTest x cause = p) := by
  unfold Part.abortTest; simp only; split <;> simp_all

/-- An escalation stops an arm in service, fails an admission, and does nothing else (R98, R99). -/
theorem Part.escalate_cases (p : Part) (x : Arm) (cause : StopCause) :
    ((p.arm x).guard.state.inService = true ∧ p.escalate x cause = p.enterStopped x cause) ∨
    ((p.arm x).guard.state = .admitting ∧ p.escalate x cause = p.failAdmission x (.escalation cause)) ∨
    (((p.arm x).guard.state = .offline ∨ (p.arm x).guard.state = .stopped) ∧ p.escalate x cause = p) := by
  unfold Part.escalate
  cases h : (p.arm x).guard.state <;> simp [GuardState.inService]

/-! ## Claims and pending RESERVEs (R24, R50, R54) -/

theorem Part.endWaiting_cases (p : Part) (x : Arm) (v : Verdict) :
    (∃ w, (p.arm x).waiting = some w ∧
      p.endWaiting x v = (p.setWaiting x none).handResult x w.slot v w.figures) ∨
    ((p.arm x).waiting = none ∧ p.endWaiting x v = p) := by
  unfold Part.endWaiting; split <;> simp_all

theorem Part.reevaluateArm_cases (p : Part) (x : Arm) :
    ((p.arm x).waiting = none ∧ p.reevaluateArm x = p) ∨
    (∃ w n, (p.arm x).waiting = some w ∧ p.conflictCells x w.box = [] ∧ freeRecord (p.arm x).claims = some n ∧
      tagInForce (p.arm x).claims w.tag = false ∧
      p.reevaluateArm x = ((p.setWaiting x none).fillClaim x n
        (grantedClaim w.tag w.mode w.box w.count p.now w.slot)).handResult x w.slot .granted
          (.reserve (some n) true (some w.box) w.count 0 none w.since)) ∨
    (∃ w, (p.arm x).waiting = some w ∧ (p.conflictCells x w.box ≠ [] ∨ freeRecord (p.arm x).claims = none ∨
        tagInForce (p.arm x).claims w.tag = true) ∧
      p.reevaluateArm x = p.setWaiting x (some { w with
        conflicts := (p.conflictCells x w.box).length, firstConflict := (p.conflictCells x w.box).head? })) := by
  unfold Part.reevaluateArm
  cases hw : (p.arm x).waiting with
  | none => exact .inl ⟨rfl, rfl⟩
  | some w =>
    cases hc : p.conflictCells x w.box with
    | nil =>
      cases hf : freeRecord (p.arm x).claims with
      | none => exact .inr (.inr ⟨w, rfl, .inr (.inl rfl), by simp [hc]⟩)
      | some n =>
        cases ht : tagInForce (p.arm x).claims w.tag with
        | true => exact .inr (.inr ⟨w, rfl, .inr (.inr ht), by simp [hc, ht]⟩)
        | false => exact .inr (.inl ⟨w, n, rfl, hc, rfl, ht, by simp [hc, ht]⟩)
    | cons c rest => exact .inr (.inr ⟨w, rfl, .inl (by simp [hc]), by simp [hc]⟩)

/-- A part without pending RESERVEs is as it was after a re-evaluation. -/
theorem Part.reevaluate_idle (p : Part) (ha : p.armA.waiting = none) (hb : p.armB.waiting = none) :
    p.reevaluate = p := by
  have h : ∀ x, p.reevaluateArm x = p := fun x => by cases x <;> simp [Part.reevaluateArm, ha, hb]
  simp [Part.reevaluate, Part.bothArms, h]

theorem Part.reevaluateIf_idle (p : Part) (n : Nat) (ha : p.armA.waiting = none) (hb : p.armB.waiting = none) :
    p.reevaluateIf n = p := by
  unfold Part.reevaluateIf; split
  · rfl
  · exact p.reevaluate_idle ha hb

theorem Part.parkClaim_cases (p : Part) (x : Arm) (n : Nat) :
    ((p.claim x n).inForce = true ∧ p.parkClaim x n =
      ((p.setTable (p.table.parkAll x n (p.table.cellsOf (some (p.claim x n).box)))).setClaim x n freeClaim).setParkCount x
        ((p.arm x).parkCount + ((p.table.cellsOf (some (p.claim x n).box)).filter fun c =>
          !(p.table.entry c).holders.contains parkNumber).length)) ∨
    ((p.claim x n).inForce = false ∧ p.parkClaim x n = p) := by
  unfold Part.parkClaim
  by_cases h : (p.claim x n).inForce = true
  · exact .inl ⟨h, by simp only [h, if_true]⟩
  · exact .inr ⟨by simpa using h, by simp [h]⟩

theorem Part.compareParkLimit_cases (p : Part) (x : Arm) :
    (p.figures.parkLimit = 255 ∧ p.compareParkLimit x = p) ∨
    (p.figures.parkLimit ≠ 255 ∧ p.figures.parkLimit < (p.arm x).parkCount ∧
      p.compareParkLimit x = p.addReason x .park) ∨
    (p.figures.parkLimit ≠ 255 ∧ (p.arm x).parkCount ≤ p.figures.parkLimit ∧
      p.compareParkLimit x = p.removeReason x .park) := by
  unfold Part.compareParkLimit
  by_cases h : p.figures.parkLimit = 255
  · simp [h]
  · by_cases h' : p.figures.parkLimit < (p.arm x).parkCount
    · simp [h, h']
    · exact .inr (.inr ⟨h, by omega, by simp [h, h']⟩)

/-! ## Walks (R143, R144) -/

theorem Part.tryCandidate_cases (p : Part) (x : Arm) (slot : Nat) :
    (p.isCursor slot = true ∧ p.tryCandidate x slot = (p.setCause .chain, false)) ∨
    (p.isCursor slot = false ∧ p.tryCandidate x slot =
      ((p.updChain x fun c => { c with walk := .readingSlot }).queueOp (.slotRead x slot), true)) := by
  unfold Part.tryCandidate; split <;> simp_all

theorem Part.beginWalk_cases (p : Part) (x : Arm) :
    ((p.arm x).chain.openSlot.isSome = true ∧ p.beginWalk x = (p, false)) ∨
    ((p.arm x).chain.openSlot = none ∧ (p.arm x).chain.cursor = none ∧
      p.beginWalk x = p.tryCandidate x (p.figures.entry x)) ∨
    (∃ slot, (p.arm x).chain.openSlot = none ∧ (p.arm x).chain.cursor = some slot ∧ p.beginWalk x =
      ((p.updChain x fun c => { c with walk := .readingNext }).queueOp (.nextRead x slot), true)) := by
  unfold Part.beginWalk
  cases ho : (p.arm x).chain.openSlot <;> cases hc : (p.arm x).chain.cursor <;> simp [ho, hc]

theorem Part.prompt_cases (p : Part) (x : Arm) :
    (p.engine ≠ .serving ∧ p.prompt x = p) ∨
    (p.engine = .serving ∧ (p.arm x).chain.walk = .none ∧ p.prompt x = (p.beginWalk x).1) ∨
    (p.engine = .serving ∧ (p.arm x).chain.walk ≠ .none ∧
      p.prompt x = p.updChain x fun c => { c with walkAgain := true }) := by
  unfold Part.prompt
  by_cases h : p.engine = .serving
  · by_cases hw : (p.arm x).chain.walk = .none <;> simp [h, hw]
  · simp [h]

/-! ## Operations of the engine (R150 to R155) -/

theorem Part.publish_cases (p : Part) (x : Arm) :
    ((p.engine = .serving ∧ (p.arm x).chain.publishDue = true ∧ (p.arm x).chain.blockQueued = false) ∧
      p.publish x = p.queueStatus x) ∨
    (¬ (p.engine = .serving ∧ (p.arm x).chain.publishDue = true ∧ (p.arm x).chain.blockQueued = false) ∧
      p.publish x = p) := by
  unfold Part.publish; split <;> simp_all

theorem Part.startNext_cases (p : Part) :
    (p.inProgress.isSome = true ∧ p.startNext = p) ∨
    (p.inProgress = none ∧ p.opQueue = [] ∧ p.engine = .closing ∧ p.startNext = p.closeDone) ∨
    (p.inProgress = none ∧ p.opQueue = [] ∧ p.engine ≠ .closing ∧ p.startNext = p) ∨
    (∃ op rest, p.inProgress = none ∧ p.opQueue = op :: rest ∧ p.busUp ∧
      p.startNext = { p with opQueue := rest }.beginOp op) ∨
    (∃ op rest, p.inProgress = none ∧ p.opQueue = op :: rest ∧ ¬ p.busUp ∧
      p.startNext = { p with opQueue := rest }.takeFault op.faultKind) := by
  unfold Part.startNext
  cases hi : p.inProgress with
  | some r => simp
  | none =>
    cases hq : p.opQueue with
    | nil => by_cases he : p.engine = .closing <;> simp [he]
    | cons op rest =>
      by_cases hb : p.busMaster = true ∧ p.pcieUp = true
      · exact .inr (.inr (.inr (.inl ⟨op, rest, rfl, rfl, hb, by simp [hb.1, hb.2]⟩)))
      · refine .inr (.inr (.inr (.inr ⟨op, rest, rfl, rfl, hb, ?_⟩)))
        have hb' : ¬ (p.busMaster && p.pcieUp) = true := by simpa using hb
        simp only [hb']
        rfl

theorem Part.dropRunning_cases (p : Part) :
    (p.inProgress = none ∧ p.dropRunning = p) ∨
    (∃ r, p.inProgress = some r ∧ r.op.isRead = true ∧ p.dropRunning = { p with inProgress := none }) ∨
    (∃ r, p.inProgress = some r ∧ r.op.isRead = false ∧ p.dropRunning =
      { p with
        hostMem := memWrite p.hostMem r.addr (r.bytes.take (Config.bytesSent p.freeUsed))
        inProgress := none
        freeUsed := p.freeUsed + 1 }) := by
  unfold Part.dropRunning
  cases hi : p.inProgress with
  | none => exact .inl ⟨rfl, rfl⟩
  | some r =>
    cases hw : r.op.isRead with
    | true => exact .inr (.inl ⟨r, rfl, hw, by simp [hw]⟩)
    | false => exact .inr (.inr ⟨r, rfl, hw, by simp [hw, Part.landWrite]⟩)

theorem Part.takeFault_cases (p : Part) (kind : FaultKind) :
    (p.engine = .loading ∧ p.takeFault kind = { (p.endLoad .refused 0).setCause .fault with faultKind := kind }) ∨
    (p.engine = .serving ∧ p.takeFault kind = p.enterFaulted kind) ∨
    (p.engine = .closing ∧
      p.takeFault kind = { ({ p with opQueue := [] }.setCause .fault).closeDone with faultKind := kind }) ∨
    ((p.engine = .idle ∨ p.engine = .faulted) ∧ p.takeFault kind = p) := by
  unfold Part.takeFault
  cases p.engine <;> simp

theorem Part.failRunning_cases (p : Part) (kind : MemOp → FaultKind) :
    (p.inProgress = none ∧ p.failRunning kind = p) ∨
    (∃ r, p.inProgress = some r ∧ r.abandoned = true ∧ p.failRunning kind = p.dropRunning) ∨
    (∃ r, p.inProgress = some r ∧ r.abandoned = false ∧
      p.failRunning kind = p.dropRunning.takeFault (kind r.op)) := by
  unfold Part.failRunning
  cases hi : p.inProgress with
  | none => exact .inl ⟨rfl, rfl⟩
  | some r => cases ha : r.abandoned <;> simp [ha]

/-! ## Serving's starts and ends (R22, R25) -/

theorem Part.clearClaims_cases (p : Part) (x : Arm) :
    (((p.arm x).parkCount ≠ 0 ∨ ((p.arm x).claims.any Claim.inForce) = true) ∧ p.clearClaims x =
      (p.updArm x fun r => { r with claims := freeClaims, parkCount := 0 }).markDue x) ∨
    ((p.arm x).parkCount = 0 ∧ ((p.arm x).claims.any Claim.inForce) = false ∧
      p.clearClaims x = p.updArm x fun r => { r with claims := freeClaims, parkCount := 0 }) := by
  unfold Part.clearClaims
  by_cases hp : (p.arm x).parkCount = 0 <;> cases hc : (p.arm x).claims.any Claim.inForce <;> simp [hp, hc]

theorem Part.guardOffline_cases (p : Part) (x : Arm) (cause : StopCause) :
    ∃ q, q = (p.updGuard x fun _ =>
      { resetGuard with reasons := { noReasons with host := (p.arm x).hold }, stopCause := cause }) ∧
    (p.guardOffline x cause = q.guardChanged x ∨ p.guardOffline x cause = q.markDue x ∨ p.guardOffline x cause = q) := by
  refine ⟨_, rfl, ?_⟩
  unfold Part.guardOffline
  simp only
  split
  · exact .inl rfl
  · split
    · exact .inr (.inl rfl)
    · exact .inr (.inr rfl)

/-! ## The end of a frame (R71 to R74) -/

/-- The end of a frame waits for the guard to have had every notice. -/
theorem Part.settleEvaluation_cases (p : Part) (x : Arm) :
    ((p.arm x).monitor.evaluationOwed = true ∧ (p.arm x).notices = [] ∧ p.settleEvaluation x =
      ((p.updMonitor x fun m => { m with evaluationOwed := false }).expirePassed x).evaluateClearance x) ∨
    (((p.arm x).monitor.evaluationOwed = false ∨ (p.arm x).notices ≠ []) ∧ p.settleEvaluation x = p) := by
  unfold Part.settleEvaluation
  cases ho : (p.arm x).monitor.evaluationOwed <;> by_cases hn : (p.arm x).notices = [] <;> simp [hn]

/-- Freshness that is not spent leaves the part as it is. -/
theorem Part.expirePassed_fresh (p : Part) (x : Arm) (hs : timerDue p.now (p.arm x).monitor.staleTimer = false)
    (hl : timerDue p.now (p.arm x).monitor.lossTimer = false) : p.expirePassed x = p := by
  simp [Part.expirePassed, hs, hl]

/-! ## CELLSTOP (R89) -/

theorem Part.assertCellstop_cases (p : Part) (first : Arm) :
    ((p.setCellstopPin true).cellstopLasted = true ∧
      p.assertCellstop first = (p.setCellstopPin true).seeCellstop.bothArms first Part.cellstopEscalates) ∨
    ((p.setCellstopPin true).cellstopLasted = false ∧ p.assertCellstop first = p.setCellstopPin true) := by
  unfold Part.assertCellstop
  cases h : (p.setCellstopPin true).cellstopLasted <;> simp [h]

theorem Part.releaseCellstop_cases (p : Part) :
    ((p.setCellstopPin false).cellstopLasted = true ∧ p.releaseCellstop = (p.setCellstopPin false).seeCellstop) ∨
    ((p.setCellstopPin false).cellstopLasted = false ∧ p.releaseCellstop = p.setCellstopPin false) := by
  unfold Part.releaseCellstop
  cases h : (p.setCellstopPin false).cellstopLasted <;> simp [h]

end Sys2Proof.Machine
end

