-- ==== Sys2Proof/Laws/Settle.lean ====
section
/-! SUPPORT. The end of a step: where it changes nothing, and what it leaves alone. -/

namespace Sys2Proof.Machine

/-! ## The view of a part -/

@[simp] theorem ArmPart.view_view (r : ArmPart) : r.view.view = r.view := rfl
@[simp] theorem Part.view_armA (p : Part) : p.view.armA = p.armA.view := rfl
@[simp] theorem Part.view_armB (p : Part) : p.view.armB = p.armB.view := rfl
@[simp] theorem Part.view_arm (p : Part) (x : Arm) : p.view.arm x = (p.arm x).view := by cases x <;> rfl

/-- An update of one arm that its view does not show leaves the part's view. -/
theorem Part.updArm_view (p : Part) (x : Arm) (f : ArmPart → ArmPart) (h : (f (p.arm x)).view = (p.arm x).view) :
    (p.updArm x f).view = p.view := by
  cases x <;> simp_all [Part.updArm, Part.view, Part.arm]

/-- Equal views make equal arms' views. -/
theorem Part.arm_view_of_view {p q : Part} (h : p.view = q.view) (x : Arm) : (p.arm x).view = (q.arm x).view := by
  rw [← Part.view_arm, ← Part.view_arm, h]

theorem Part.markDue_view (p : Part) (x : Arm) : (p.markDue x).view = p.view := by
  rcases p.markDue_cases x with ⟨_, h⟩ | ⟨_, h⟩ <;> rw [h]
  exact p.updArm_view x _ rfl

theorem Part.markChanged_view (p : Part) (x : Arm) : (p.markChanged x).view = p.view := by
  rcases p.markChanged_cases x with ⟨_, h⟩ | ⟨_, h⟩ <;> rw [h]
  exact p.updArm_view x _ rfl

theorem Part.queueOp_view (p : Part) (op : MemOp) : (p.queueOp op).view = p.view := rfl

theorem Part.queueStatus_view (p : Part) (x : Arm) : (p.queueStatus x).view = p.view := p.updArm_view x _ rfl

theorem Part.publish_view (p : Part) (x : Arm) : (p.publish x).view = p.view := by
  rcases p.publish_cases x with ⟨_, h⟩ | ⟨_, h⟩ <;> rw [h]
  exact p.queueStatus_view x

theorem Part.raiseEdition_view (p : Part) (op : MemOp) : (p.raiseEdition op).view = p.view := by
  cases op <;> first | rfl | exact p.updArm_view _ _ rfl

theorem Part.beginOp_view (p : Part) (op : MemOp) : (p.beginOp op).view = p.view := by
  have h := p.raiseEdition_view op
  unfold Part.beginOp
  rw [← h]; rfl

theorem Part.driveStopLine_view (p : Part) (x : Arm) : (p.driveStopLine x).view = p.view := p.updArm_view x _ rfl

theorem Part.sendMessage_view (b p : Part) : (Part.sendMessage b p).view = p.view := by
  unfold Part.sendMessage; split <;> rfl

/-! ## Operations that wait -/

@[simp] theorem Part.raiseEdition_opQueue (p : Part) (op : MemOp) : (p.raiseEdition op).opQueue = p.opQueue := by
  cases op <;> simp [Part.raiseEdition, Part.updChain]

@[simp] theorem Part.raiseEdition_inProgress (p : Part) (op : MemOp) :
    (p.raiseEdition op).inProgress = p.inProgress := by
  cases op <;> simp [Part.raiseEdition, Part.updChain]

@[simp] theorem Part.beginOp_opQueue (p : Part) (op : MemOp) : (p.beginOp op).opQueue = p.opQueue := by
  simp [Part.beginOp]

theorem Part.beginOp_inProgress (p : Part) (op : MemOp) :
    ((p.beginOp op).inProgress.map fun r => r.op) = some op := rfl

@[simp] theorem Part.driveStopLine_ops (p : Part) (x : Arm) : (p.driveStopLine x).ops = p.ops := by
  simp [Part.driveStopLine, Part.updGuard, Part.ops]

@[simp] theorem Part.sendMessage_ops (b p : Part) : (Part.sendMessage b p).ops = p.ops := by
  unfold Part.sendMessage; split <;> rfl

/-- An interface that carries starts the next operation and changes nothing that the view shows; CLOSING must still
have an operation. -/
theorem Part.startNext_carries (p : Part) (hc : p.carries)
    (he : p.engine = .closing → p.inProgress.isSome = true ∨ p.opQueue ≠ []) :
    p.startNext.view = p.view ∧ p.startNext.ops = p.ops := by
  rcases p.startNext_cases with ⟨_, h⟩ | ⟨hi, hq, hcl, h⟩ | ⟨_, _, _, h⟩ | ⟨op, rest, hi, hq, _, h⟩ |
    ⟨op, rest, hi, hq, hb, h⟩
  · rw [h]; exact ⟨rfl, rfl⟩
  · simp [hi, hq] at he; exact absurd hcl he
  · rw [h]; exact ⟨rfl, rfl⟩
  · rw [h]
    refine ⟨(Part.beginOp_view _ op).trans rfl, ?_⟩
    simp [Part.ops, hi, hq, Part.beginOp_inProgress]
  · exact absurd (hc.resolve_left (by simp [hi])) hb

/-- The status block write that the end of a step adds for x. -/
def Part.dueOps (p : Part) (x : Arm) : List MemOp :=
  if p.engine = .serving ∧ (p.arm x).chain.publishDue = true ∧ (p.arm x).chain.blockQueued = false
    then [.statusWrite x] else []

theorem Part.publish_ops (p : Part) (x : Arm) : (p.publish x).ops = p.ops ++ p.dueOps x := by
  rcases p.publish_cases x with ⟨hd, h⟩ | ⟨hd, h⟩ <;> rw [h, Part.dueOps]
  · rw [if_pos hd]; simp [Part.queueStatus, Part.ops, Part.updChain]
  · rw [if_neg hd]; simp

theorem Part.publish_rest (p : Part) (x : Arm) :
    (p.publish x).engine = p.engine ∧ (p.publish x).inProgress = p.inProgress ∧
      (p.publish x).busMaster = p.busMaster ∧ (p.publish x).pcieUp = p.pcieUp ∧
      (p.publish x).arm x.other = p.arm x.other := by
  rcases p.publish_cases x with ⟨_, h⟩ | ⟨_, h⟩ <;> rw [h] <;> simp [Part.queueStatus, Part.updChain]

/-- What the end of a step does where the interface carries: it queues the due status blocks, A before B, and changes
nothing that the view shows. -/
theorem Part.settle_carries (b p : Part) (hc : p.carries)
    (he : p.engine = .closing → p.inProgress.isSome = true ∨ p.opQueue ≠ []) :
    (Part.settle b p).view = p.view ∧ (Part.settle b p).ops = p.ops ++ p.dueOps .a ++ p.dueOps .b := by
  obtain ⟨ha1, ha2, ha3, ha4, ha5⟩ := p.publish_rest .a
  obtain ⟨hb1, hb2, hb3, hb4, -⟩ := (p.publish .a).publish_rest .b
  have hd : (p.publish .a).dueOps .b = p.dueOps .b := by
    unfold Part.dueOps; rw [ha1]; simp only [Arm.other_a] at ha5; rw [ha5]
  have hops : ((p.publish .a).publish .b).ops = p.ops ++ p.dueOps .a ++ p.dueOps .b := by
    rw [Part.publish_ops, Part.publish_ops, hd]
  have hc' : ((p.publish .a).publish .b).carries := by
    unfold Part.carries; rw [hb2, ha2, hb3, ha3, hb4, ha4]; exact hc
  have he' : ((p.publish .a).publish .b).engine = .closing →
      ((p.publish .a).publish .b).inProgress.isSome = true ∨ ((p.publish .a).publish .b).opQueue ≠ [] := by
    intro h
    rw [hb1, ha1] at h
    rw [hb2, ha2]
    rcases he h with h' | h'
    · exact .inl h'
    · refine .inr fun hn => ?_
      have hne : p.engine ≠ .serving := by rw [h]; simp
      have e1 : p.publish .a = p := by unfold Part.publish; simp [hne]
      have e2 : p.publish .b = p := by unfold Part.publish; simp [hne]
      rw [e1, e2] at hn
      exact h' hn
  obtain ⟨hv, ho⟩ := Part.startNext_carries _ hc' he'
  constructor
  · rw [Part.settle, Part.sendMessage_view, Part.driveStopLine_view, Part.driveStopLine_view, hv, Part.publish_view,
      Part.publish_view]
  · rw [Part.settle, Part.sendMessage_ops, Part.driveStopLine_ops, Part.driveStopLine_ops, ho, hops]

theorem Part.driveStopLine_of_law (p : Part) (x : Arm)
    (h : (p.arm x).guard.stopAsserted = !p.lineReleased x) : p.driveStopLine x = p := by
  unfold Part.driveStopLine
  rw [Part.updGuard_eq]
  have : p.updArm x (fun r => { r with guard := { r.guard with stopAsserted := !p.lineReleased x } }) =
      p.updArm x fun r => r := by
    apply Part.updArm_congr; rw [← h]
  rw [this, Part.updArm_id]

/-- The end of a step changes nothing where nothing is owed: no operation to start, no block to queue, both stop lines
at their level, and no message to send. -/
theorem Part.settle_of_settled (b p : Part) (hr : p.inReset = false) (hs : p.settledLaw) (hl : p.linesLaw)
    (hm : p.msgEnable = true → p.interruptCondition = true → b.interruptCondition = true) :
    Part.settle b p = p := by
  obtain ⟨hidle, hdue⟩ := hs
  have hl' : ∀ x, (p.arm x).guard.stopAsserted = !p.lineReleased x := by
    intro x; cases x
    · simpa [Part.stopLineLaw, hr] using hl.1
    · simpa [Part.stopLineLaw, hr] using hl.2
  have e1 : ∀ x, p.publish x = p := by
    intro x
    rcases p.publish_cases x with ⟨⟨he, hd, hb⟩, _⟩ | ⟨_, h⟩
    · obtain ⟨h1, h2⟩ := hdue he
      cases x
      · simp only [Part.arm_a] at hd hb; rw [h1 hd] at hb; simp at hb
      · simp only [Part.arm_b] at hd hb; rw [h2 hd] at hb; simp at hb
    · exact h
  have e2 : p.startNext = p := by
    rcases p.startNext_cases with ⟨_, h⟩ | ⟨hi, _, hcl, _⟩ | ⟨_, _, _, h⟩ | ⟨_, _, hi, hq, _, _⟩ | ⟨_, _, hi, hq, _, _⟩
    · exact h
    · exact absurd hcl (hidle hi).2
    · exact h
    · rw [(hidle hi).1] at hq; simp at hq
    · rw [(hidle hi).1] at hq; simp at hq
  rw [Part.settle, e1, e1, e2, Part.driveStopLine_of_law _ _ (hl' .a), Part.driveStopLine_of_law _ _ (hl' .b),
    Part.sendMessage]
  split
  · next h =>
    simp only [Bool.and_eq_true, Bool.not_eq_true'] at h
    have := hm h.1.1 h.1.2
    rw [h.2] at this; simp at this
  · rfl

/-- A command of a part out of reset ends its step. -/
theorem Part.step_of_out (p : Part) (f : Part → Part) (h : p.inReset = false) :
    p.step f = Part.settle p (f p) := by simp [Part.step, h]

/-- A command that changes nothing of a steady part leaves the state. -/
theorem onPart_unchanged (s : State) (f : Part → Part) (h : s.part.steady) (hf : f s.part = s.part) :
    onPart s (fun p => p.step f) = .next s := by
  obtain ⟨hr, hs, hl⟩ := h
  have : s.part.step f = s.part := by
    rw [Part.step_of_out _ _ hr, hf, Part.settle_of_settled _ _ hr hs hl (fun _ h => h)]
  simp [onPart, this]

end Sys2Proof.Machine
end

