-- ==== Sys2Proof/Laws/Memory.lean ====
section
/-! SUPPORT. Sparse lists, holder sets and host memory: what a read gives after a write, and that every operation keeps
the canonical form. -/

namespace Sys2Proof.Machine

/-! ## Sparse lists -/

theorem keysAbove_mono {β : Type} {j k : Nat} (h : j < k) :
    ∀ {l : List (Nat × β)}, keysAbove k l = true → keysAbove j l = true
  | [], _ => rfl
  | (m, _) :: rest, hl => by
    simp only [keysAbove, Bool.and_eq_true, decide_eq_true_eq] at hl ⊢
    exact ⟨by omega, keysAbove_mono h hl.2⟩

theorem sparseFind_of_keysAbove {β : Type} {j k : Nat} (h : j ≤ k) :
    ∀ {l : List (Nat × β)}, keysAbove k l = true → sparseFind j l = none
  | [], _ => rfl
  | (m, _) :: rest, hl => by
    simp only [keysAbove, Bool.and_eq_true, decide_eq_true_eq] at hl
    rw [sparseFind, if_neg (by omega)]
    exact sparseFind_of_keysAbove h hl.2

theorem sparseFind_insert_self {β : Type} (k : Nat) (v : β) :
    ∀ l : List (Nat × β), sparseFind k (sparseInsert k v l) = some v
  | [] => by simp [sparseInsert, sparseFind]
  | (j, w) :: rest => by
    unfold sparseInsert
    split
    · simp [sparseFind]
    · split
      · simp [sparseFind]
      · rw [sparseFind, if_neg ‹_›]; exact sparseFind_insert_self k v rest

theorem sparseFind_insert_ne {β : Type} {j k : Nat} (v : β) (h : j ≠ k) :
    ∀ l : List (Nat × β), sparseFind j (sparseInsert k v l) = sparseFind j l
  | [] => by simp [sparseInsert, sparseFind, Ne.symm h]
  | (m, w) :: rest => by
    unfold sparseInsert
    split
    · rw [sparseFind, if_neg (Ne.symm h)]
    · split
      · next hm => subst hm; simp [sparseFind, Ne.symm h]
      · by_cases hj : m = j
        · simp [sparseFind, hj]
        · simp [sparseFind, hj, sparseFind_insert_ne v h rest]

/-- What every key finds after an insertion. -/
theorem sparseFind_insert {β : Type} (j k : Nat) (v : β) (l : List (Nat × β)) :
    sparseFind j (sparseInsert k v l) = if j = k then some v else sparseFind j l := by
  by_cases h : j = k
  · subst h; simp [sparseFind_insert_self]
  · simp [h, sparseFind_insert_ne v h]

/-- What every key finds after a removal from a list in canonical form. -/
theorem sparseFind_erase {β : Type} (j k : Nat) :
    ∀ l : List (Nat × β), sparseWf l = true →
      sparseFind j (sparseErase k l) = if j = k then none else sparseFind j l
  | [], _ => by simp [sparseErase, sparseFind]
  | (m, w) :: rest, hl => by
    simp only [sparseWf, Bool.and_eq_true] at hl
    unfold sparseErase
    by_cases hm : m = k
    · subst hm
      rw [if_pos rfl]
      by_cases hj : j = m
      · subst hj; rw [if_pos rfl]; exact sparseFind_of_keysAbove (Nat.le_refl _) hl.1
      · rw [if_neg hj, sparseFind, if_neg (Ne.symm hj)]
    · rw [if_neg hm, sparseFind, sparseFind, sparseFind_erase j k rest hl.2]
      by_cases hj : j = k
      · subst hj; simp [hm]
      · simp [hj]

theorem keysAbove_insert {β : Type} {j k : Nat} (v : β) (h : j < k) :
    ∀ l : List (Nat × β), keysAbove j l = true → keysAbove j (sparseInsert k v l) = true
  | [], _ => by simp [sparseInsert, keysAbove, h]
  | (m, w) :: rest, hl => by
    simp only [keysAbove, Bool.and_eq_true, decide_eq_true_eq] at hl
    unfold sparseInsert
    split
    · simp [keysAbove, h, hl.1, hl.2]
    · split
      · simp [keysAbove, h, hl.2]
      · simp [keysAbove, hl.1, keysAbove_insert v h rest hl.2]

/-- An insertion keeps the canonical form. -/
theorem sparseInsert_wf {β : Type} (k : Nat) (v : β) :
    ∀ l : List (Nat × β), sparseWf l = true → sparseWf (sparseInsert k v l) = true
  | [], _ => by simp [sparseInsert, sparseWf, keysAbove]
  | (m, w) :: rest, hl => by
    simp only [sparseWf, Bool.and_eq_true] at hl
    unfold sparseInsert
    split
    · next h => simp [sparseWf, keysAbove, h, keysAbove_mono h hl.1, hl.1, hl.2]
    · split
      · next h => subst h; simp [sparseWf, hl.1, hl.2]
      · next h h' =>
        simp only [sparseWf, Bool.and_eq_true]
        exact ⟨keysAbove_insert v (by omega) rest hl.1, sparseInsert_wf k v rest hl.2⟩

theorem keysAbove_erase {β : Type} {j : Nat} (k : Nat) :
    ∀ l : List (Nat × β), keysAbove j l = true → keysAbove j (sparseErase k l) = true
  | [], _ => rfl
  | (m, w) :: rest, hl => by
    simp only [keysAbove, Bool.and_eq_true, decide_eq_true_eq] at hl
    unfold sparseErase
    split
    · exact hl.2
    · simp [keysAbove, hl.1, keysAbove_erase k rest hl.2]

/-- A removal keeps the canonical form. -/
theorem sparseErase_wf {β : Type} (k : Nat) :
    ∀ l : List (Nat × β), sparseWf l = true → sparseWf (sparseErase k l) = true
  | [], _ => rfl
  | (m, w) :: rest, hl => by
    simp only [sparseWf, Bool.and_eq_true] at hl
    unfold sparseErase
    split
    · exact hl.2
    · simp [sparseWf, keysAbove_erase k rest hl.1, sparseErase_wf k rest hl.2]

/-- In canonical form an entry is listed exactly when its key finds it. -/
theorem mem_iff_sparseFind {β : Type} (k : Nat) (v : β) :
    ∀ l : List (Nat × β), sparseWf l = true → ((k, v) ∈ l ↔ sparseFind k l = some v)
  | [], _ => by simp [sparseFind]
  | (m, w) :: rest, hl => by
    simp only [sparseWf, Bool.and_eq_true] at hl
    have ih := mem_iff_sparseFind k v rest hl.2
    by_cases hm : m = k
    · subst hm
      have hno : (m, v) ∉ rest := by
        rw [ih, sparseFind_of_keysAbove (Nat.le_refl _) hl.1]; simp
      simp [sparseFind, hno, eq_comm]
    · simp [sparseFind, hm, Ne.symm hm, ih]

theorem sparseInsert_mem {β : Type} {k : Nat} {v : β} {e : Nat × β} :
    ∀ {l : List (Nat × β)}, e ∈ sparseInsert k v l → e = (k, v) ∨ e ∈ l
  | [], h => by simp_all [sparseInsert]
  | (m, w) :: rest, h => by
    unfold sparseInsert at h
    split at h
    · simpa using h
    · split at h
      · rcases List.mem_cons.mp h with h | h
        · exact .inl h
        · exact .inr (List.mem_cons_of_mem _ h)
      · rcases List.mem_cons.mp h with h | h
        · exact .inr (h ▸ List.mem_cons_self)
        · rcases sparseInsert_mem h with h | h
          · exact .inl h
          · exact .inr (List.mem_cons_of_mem _ h)

theorem sparseErase_mem {β : Type} {k : Nat} {e : Nat × β} :
    ∀ {l : List (Nat × β)}, e ∈ sparseErase k l → e ∈ l
  | [], h => by simp [sparseErase] at h
  | (m, w) :: rest, h => by
    unfold sparseErase at h
    split at h
    · exact List.mem_cons_of_mem _ h
    · rcases List.mem_cons.mp h with h | h
      · exact h ▸ List.mem_cons_self
      · exact List.mem_cons_of_mem _ (sparseErase_mem h)

/-! ## Holder sets -/

@[simp] theorem mem_holderInsert (m n : Nat) : ∀ l : List Nat, m ∈ holderInsert n l ↔ m = n ∨ m ∈ l
  | [] => by simp [holderInsert]
  | k :: rest => by
    unfold holderInsert
    split
    · simp
    · split
      · next h => subst h; simp
      · simp only [List.mem_cons, mem_holderInsert m n rest]
        constructor <;> rintro (h | h | h) <;> simp [h]

@[simp] theorem mem_holderErase (m n : Nat) (l : List Nat) : m ∈ holderErase n l ↔ m ≠ n ∧ m ∈ l := by
  simp [holderErase, and_comm]

theorem holderInsert_ne_nil (n : Nat) (l : List Nat) : holderInsert n l ≠ [] := by
  intro h
  have : n ∈ holderInsert n l := by simp
  simp [h] at this

/-- Adding a number keeps the set strictly rising. -/
theorem holderInsert_pairwise (n : Nat) :
    ∀ l : List Nat, l.Pairwise (· < ·) → (holderInsert n l).Pairwise (· < ·)
  | [], _ => by simp [holderInsert]
  | k :: rest, hl => by
    rw [List.pairwise_cons] at hl
    unfold holderInsert
    split
    · next h =>
      refine List.pairwise_cons.mpr ⟨fun m hm => ?_, List.pairwise_cons.mpr hl⟩
      rcases List.mem_cons.mp hm with rfl | hm
      · exact h
      · exact Nat.lt_trans h (hl.1 m hm)
    · split
      · exact List.pairwise_cons.mpr hl
      · refine List.pairwise_cons.mpr ⟨fun m hm => ?_, holderInsert_pairwise n rest hl.2⟩
        rcases (mem_holderInsert m n rest).mp hm with rfl | hm
        · omega
        · exact hl.1 m hm

/-- Removing a number keeps the set strictly rising. -/
theorem holderErase_pairwise (n : Nat) (l : List Nat) (h : l.Pairwise (· < ·)) :
    (holderErase n l).Pairwise (· < ·) := h.filter _

/-! ## Host memory -/

/-- Writing bytes keeps the canonical form. -/
theorem memWrite_wf : ∀ (bytes : List Byte) (addr : Addr) (mem : List Host.Cell),
    Memory.wf mem = true → Memory.wf (memWrite mem addr bytes) = true
  | [], _, _, h => h
  | _ :: rest, addr, _, h => memWrite_wf rest (addr + 1) _ (sparseInsert_wf _ _ _ h)

/-- A byte outside the bytes written reads as before. -/
theorem memRead_memWrite_outside : ∀ (bytes : List Byte) (addr a : Addr) (mem : List Host.Cell),
    (∀ i, i < bytes.length → a ≠ addr + BitVec.ofNat 64 i) →
      memRead (memWrite mem addr bytes) a = memRead mem a
  | [], _, _, _, _ => rfl
  | b :: rest, addr, a, mem, h => by
    rw [memWrite, memRead_memWrite_outside rest (addr + 1) a]
    · have h0 := h 0 (by simp)
      simp only [BitVec.add_zero] at h0
      exact sparseFind_insert_ne b (fun e => h0 (BitVec.eq_of_toNat_eq e)) mem
    · intro i hi
      have := h (i + 1) (by simp; omega)
      intro e
      exact this (by rw [e]; apply BitVec.eq_of_toNat_eq; simp [BitVec.toNat_add]; omega)

/-- The bytes written are read back, for at most 2⁶⁴ of them. -/
theorem memRead_memWrite_inside : ∀ (bytes : List Byte) (addr : Addr) (mem : List Host.Cell),
    bytes.length ≤ 2 ^ 64 → ∀ i, (h : i < bytes.length) →
      memRead (memWrite mem addr bytes) (addr + BitVec.ofNat 64 i) = some bytes[i]
  | [], _, _, _, _, h => by simp at h
  | b :: rest, addr, mem, hl, i, h => by
    simp only [List.length_cons] at hl h
    rw [memWrite]
    cases i with
    | zero =>
      rw [memRead_memWrite_outside]
      · simp [memRead, sparseFind_insert_self]
      · intro j hj e
        have := congrArg BitVec.toNat e
        simp only [BitVec.toNat_add, BitVec.toNat_ofNat] at this
        have := addr.isLt
        simp at *
        omega
    | succ j =>
      have e : addr + BitVec.ofNat 64 (j + 1) = addr + 1 + BitVec.ofNat 64 j := by
        apply BitVec.eq_of_toNat_eq; simp [BitVec.toNat_add]; omega
      rw [e, memRead_memWrite_inside rest (addr + 1) _ (by omega) j (by omega)]
      simp

/-- A write operation that lands keeps the canonical form. -/
theorem landWrite_wf (p : Part) (r : RunningOp) (h : Memory.wf p.hostMem = true) :
    Memory.wf (p.landWrite r).hostMem = true := memWrite_wf _ _ _ h

/-- Giving up the operation in progress keeps the canonical form. -/
theorem dropRunning_wf (p : Part) (h : Memory.wf p.hostMem = true) : Memory.wf p.dropRunning.hostMem = true := by
  unfold Part.dropRunning
  split
  · split
    · exact h
    · exact landWrite_wf _ _ h
  · exact h

theorem reset_wf : Memory.wf State.reset.part.hostMem = true := rfl

end Sys2Proof.Machine
end

