-- ==== Sys2Proof/Laws/Tables.lean ====
section
/-! SUPPORT. The cell table: what an entry is after each operation, and the cells of a cell box. -/

namespace Sys2Proof.Machine

/-! ## Entries -/

@[simp] theorem CellTable.setEntry_nx (t : CellTable) (c : Nat) (e : CellEntry) : (t.setEntry c e).nx = t.nx := rfl
@[simp] theorem CellTable.setEntry_ny (t : CellTable) (c : Nat) (e : CellEntry) : (t.setEntry c e).ny = t.ny := rfl
@[simp] theorem CellTable.setEntry_nz (t : CellTable) (c : Nat) (e : CellEntry) : (t.setEntry c e).nz = t.nz := rfl
@[simp] theorem CellTable.setEntry_cellsOf (t : CellTable) (c : Nat) (e : CellEntry) (b : Option CellBox) :
    (t.setEntry c e).cellsOf b = t.cellsOf b := by cases b <;> rfl

/-- Every entry after one is set. -/
theorem CellTable.entry_setEntry (t : CellTable) (h : t.wf) (c d : Nat) (e : CellEntry) :
    (t.setEntry c e).entry d = if d = c then e else t.entry d := by
  unfold CellTable.setEntry CellTable.entry
  split
  · next he => rw [sparseFind_erase d c _ h.1]; split <;> simp [he]
  · rw [sparseFind_insert]; split <;> rfl

/-- What an entry of a lawful table is: free, or owned and held in canonical form. -/
abbrev CellEntry.good (e : CellEntry) : Prop :=
  e = freeEntry ∨ (e.owner ≠ none ∧ e.holders ≠ [] ∧ e.holders.Pairwise (· < ·) ∧ ∀ n ∈ e.holders, n ≤ 8)

theorem CellTable.entry_good (t : CellTable) (h : t.wf) (c : Nat) : (t.entry c).good := by
  unfold CellTable.entry
  cases hf : sparseFind c t.cells with
  | none => exact .inl rfl
  | some e => exact .inr (h.2 _ ((mem_iff_sparseFind c e _ h.1).mpr hf))

theorem CellTable.setEntry_wf (t : CellTable) (h : t.wf) (c : Nat) (e : CellEntry) (he : e.good) :
    (t.setEntry c e).wf := by
  unfold CellTable.setEntry
  split
  · exact ⟨sparseErase_wf _ _ h.1, fun m hm => h.2 m (sparseErase_mem hm)⟩
  · next hne =>
    refine ⟨sparseInsert_wf _ _ _ h.1, fun m hm => ?_⟩
    rcases sparseInsert_mem hm with rfl | hm
    · exact he.resolve_left hne
    · exact h.2 m hm

/-- A cell is NONE exactly when nothing holds it (R19). -/
theorem CellTable.owner_none_iff (t : CellTable) (h : t.wf) (c : Nat) :
    t.owner c = none ↔ (t.entry c).holders = [] := by
  rcases t.entry_good h c with he | ⟨ho, hh, -⟩
  · simp [CellTable.owner, he, freeEntry]
  · exact ⟨fun e => absurd e ho, fun e => absurd e hh⟩

theorem CellTable.entry_pairwise (t : CellTable) (h : t.wf) (c : Nat) : (t.entry c).holders.Pairwise (· < ·) := by
  rcases t.entry_good h c with he | ⟨-, -, hp, -⟩
  · simp [he, freeEntry]
  · exact hp

theorem CellTable.entry_le (t : CellTable) (h : t.wf) (c : Nat) : ∀ n ∈ (t.entry c).holders, n ≤ 8 := by
  rcases t.entry_good h c with he | ⟨-, -, -, hl⟩
  · simp [he, freeEntry]
  · exact hl

/-! ## One cell -/

theorem holderInsert_idem (n : Nat) : ∀ l : List Nat, holderInsert n (holderInsert n l) = holderInsert n l
  | [] => by simp [holderInsert]
  | k :: rest => by
    rw [holderInsert]
    by_cases h : n < k
    · simp [h, holderInsert]
    · by_cases h' : n = k
      · subst h'; simp [holderInsert]
      · simp [h, h', holderInsert, holderInsert_idem n rest]

theorem CellTable.addHolder_wf (t : CellTable) (h : t.wf) (x : Arm) (n c : Nat) (hn : n ≤ 8) : (t.addHolder x n c).wf := by
  refine t.setEntry_wf h c _ (.inr ⟨?_, holderInsert_ne_nil _ _, holderInsert_pairwise _ _ (t.entry_pairwise h c), ?_⟩)
  · dsimp only
    split
    · simp
    · next hne => exact fun e => hne ((t.owner_none_iff h c).mp e)
  · intro m hm
    rcases (mem_holderInsert m n _).mp hm with rfl | hm
    · exact hn
    · exact t.entry_le h c m hm

theorem CellTable.removeHolder_wf (t : CellTable) (h : t.wf) (n c : Nat) : (t.removeHolder n c).wf := by
  refine t.setEntry_wf h c _ ?_
  by_cases hr : holderErase n (t.entry c).holders = []
  · exact .inl (by simp [hr, freeEntry])
  · refine .inr ⟨?_, hr, holderErase_pairwise _ _ (t.entry_pairwise h c), fun m hm =>
      t.entry_le h c m ((mem_holderErase m n _).mp hm).2⟩
    simp only [hr, if_false]
    intro e
    rw [(t.owner_none_iff h c).mp e] at hr
    simp [holderErase] at hr

theorem CellTable.parkCell_wf (t : CellTable) (h : t.wf) (x : Arm) (n c : Nat) : (t.parkCell x n c).wf := by
  refine t.setEntry_wf h c _ (.inr ⟨by simp, holderInsert_ne_nil _ _,
    holderInsert_pairwise _ _ (holderErase_pairwise _ _ (t.entry_pairwise h c)), ?_⟩)
  intro m hm
  rcases (mem_holderInsert m parkNumber _).mp hm with rfl | hm
  · simp [parkNumber]
  · exact t.entry_le h c m ((mem_holderErase m n _).mp hm).2

/-! ## Lists of cells -/

/-- The entry of a cell once `n` of arm `x` has joined it. -/
def CellEntry.joined (e : CellEntry) (x : Arm) (n : Nat) : CellEntry :=
  ⟨if e.holders = [] then some x else e.owner, holderInsert n e.holders⟩

/-- The entry of a cell once `n` has left it. -/
def CellEntry.left (e : CellEntry) (n : Nat) : CellEntry :=
  ⟨if holderErase n e.holders = [] then none else e.owner, holderErase n e.holders⟩

/-- The entry of a cell once `n` of arm `x` has been parked there. -/
def CellEntry.parked (e : CellEntry) (x : Arm) (n : Nat) : CellEntry :=
  ⟨some x, holderInsert parkNumber (holderErase n e.holders)⟩

theorem CellEntry.joined_joined (e : CellEntry) (x : Arm) (n : Nat) : (e.joined x n).joined x n = e.joined x n := by
  simp [CellEntry.joined, holderInsert_idem, holderInsert_ne_nil]

theorem holderErase_idem (n : Nat) (l : List Nat) : holderErase n (holderErase n l) = holderErase n l := by
  simp [holderErase]

theorem CellEntry.left_left (e : CellEntry) (n : Nat) : (e.left n).left n = e.left n := by
  simp only [CellEntry.left, holderErase_idem]
  split <;> rfl

/-- Every entry after `n` of arm `x` has joined a list of cells, and the canonical form. -/
theorem CellTable.addAll_spec (x : Arm) (n : Nat) (hn : n ≤ 8) : ∀ (l : List Nat) (t : CellTable), t.wf →
    (t.addAll x n l).wf ∧ (t.addAll x n l).nx = t.nx ∧ (t.addAll x n l).ny = t.ny ∧ (t.addAll x n l).nz = t.nz ∧
      ∀ d, (t.addAll x n l).entry d = if d ∈ l then (t.entry d).joined x n else t.entry d
  | [], t, h => ⟨h, rfl, rfl, rfl, fun d => by simp [CellTable.addAll]⟩
  | c :: rest, t, h => by
    obtain ⟨hw, hx, hy, hz, he⟩ := CellTable.addAll_spec x n hn rest (t.addHolder x n c) (t.addHolder_wf h x n c hn)
    refine ⟨hw, hx, hy, hz, fun d => ?_⟩
    rw [CellTable.addAll, he d, CellTable.addHolder, CellTable.entry_setEntry t h]
    by_cases hd : d = c
    · subst hd
      by_cases hr : d ∈ rest
      · rw [if_pos rfl, if_pos hr, if_pos List.mem_cons_self]; exact (t.entry d).joined_joined x n
      · simp [hr, CellEntry.joined]
    · simp [hd]

/-- Every entry after `n` has left a list of cells, and the canonical form. -/
theorem CellTable.removeAll_spec (n : Nat) : ∀ (l : List Nat) (t : CellTable), t.wf →
    (t.removeAll n l).wf ∧ (t.removeAll n l).nx = t.nx ∧ (t.removeAll n l).ny = t.ny ∧ (t.removeAll n l).nz = t.nz ∧
      ∀ d, (t.removeAll n l).entry d = if d ∈ l then (t.entry d).left n else t.entry d
  | [], t, h => ⟨h, rfl, rfl, rfl, fun d => by simp [CellTable.removeAll]⟩
  | c :: rest, t, h => by
    obtain ⟨hw, hx, hy, hz, he⟩ := CellTable.removeAll_spec n rest (t.removeHolder n c) (t.removeHolder_wf h n c)
    refine ⟨hw, hx, hy, hz, fun d => ?_⟩
    rw [CellTable.removeAll, he d, CellTable.removeHolder, CellTable.entry_setEntry t h]
    by_cases hd : d = c
    · subst hd
      by_cases hr : d ∈ rest
      · rw [if_pos rfl, if_pos hr, if_pos List.mem_cons_self]; exact (t.entry d).left_left n
      · simp [hr, CellEntry.left]
    · simp [hd]

/-- Every entry after a list of cells, none twice, has been parked, and the canonical form. -/
theorem CellTable.parkAll_spec (x : Arm) (n : Nat) : ∀ (l : List Nat) (t : CellTable), l.Nodup → t.wf →
    (t.parkAll x n l).wf ∧ (t.parkAll x n l).nx = t.nx ∧ (t.parkAll x n l).ny = t.ny ∧ (t.parkAll x n l).nz = t.nz ∧
      ∀ d, (t.parkAll x n l).entry d = if d ∈ l then (t.entry d).parked x n else t.entry d
  | [], t, _, h => ⟨h, rfl, rfl, rfl, fun d => by simp [CellTable.parkAll]⟩
  | c :: rest, t, hl, h => by
    rw [List.nodup_cons] at hl
    obtain ⟨hw, hx, hy, hz, he⟩ := CellTable.parkAll_spec x n rest (t.parkCell x n c) hl.2 (t.parkCell_wf h x n c)
    refine ⟨hw, hx, hy, hz, fun d => ?_⟩
    rw [CellTable.parkAll, he d, CellTable.parkCell, CellTable.entry_setEntry t h]
    by_cases hd : d = c
    · subst hd; simp [hl.1, CellEntry.parked]
    · simp [hd]

/-! ## The cells of a cell box (R1, R12) -/

@[simp] theorem mem_indexRange (i lo hi : Nat) : i ∈ indexRange lo hi ↔ lo ≤ i ∧ i ≤ hi := by
  simp only [indexRange, List.mem_range'_1]; omega

theorem CellBox.mem_cells (b : CellBox) (nx ny c : Nat) :
    c ∈ b.cells nx ny ↔ ∃ i j k, b.containsIndex i j k = true ∧ c = cellNumber nx ny i j k := by
  simp only [CellBox.cells, List.mem_flatMap, List.mem_map, mem_indexRange, CellBox.containsIndex, Bool.and_eq_true,
    decide_eq_true_eq]
  constructor
  · rintro ⟨k, hk, j, hj, i, hi, rfl⟩; exact ⟨i, j, k, ⟨⟨hi, hj⟩, hk⟩, rfl⟩
  · rintro ⟨i, j, k, ⟨⟨hi, hj⟩, hk⟩, rfl⟩; exact ⟨k, hk, j, hj, i, hi, rfl⟩

/-- The indices of a cell are those of its number (R1). -/
theorem cellNumber_indices {nx ny i j k : Nat} (hi : i < nx) (hj : j < ny) :
    cellNumber nx ny i j k % nx = i ∧ cellNumber nx ny i j k / nx % ny = j ∧
      cellNumber nx ny i j k / (nx * ny) = k := by
  have hx : 0 < nx := by omega
  have hy : 0 < ny := by omega
  have e : cellNumber nx ny i j k = i + nx * (j + ny * k) := by
    rw [cellNumber, Nat.mul_add, Nat.mul_assoc, Nat.add_assoc]
  have e1 : (i + nx * (j + ny * k)) / nx = j + ny * k := by
    rw [Nat.add_mul_div_left _ _ hx, Nat.div_eq_of_lt hi, Nat.zero_add]
  refine ⟨?_, ?_, ?_⟩
  · rw [e, Nat.add_mul_mod_self_left, Nat.mod_eq_of_lt hi]
  · rw [e, e1, Nat.add_mul_mod_self_left, Nat.mod_eq_of_lt hj]
  · rw [e, ← Nat.div_div_eq_div_mul, e1, Nat.add_mul_div_left _ _ hy, Nat.div_eq_of_lt hj, Nat.zero_add]

/-- A box within the counts: its cells are those whose number's indices lie in it. -/
theorem CellBox.containsCell_iff (b : CellBox) {nx ny : Nat} (hx : b.xhi < nx) (hy : b.yhi < ny) (c : Nat) :
    b.containsCell nx ny c = true ↔ c ∈ b.cells nx ny := by
  rw [CellBox.mem_cells]
  constructor
  · intro h
    refine ⟨_, _, _, h, ?_⟩
    rw [cellNumber, ← Nat.div_div_eq_div_mul]
    have h1 := Nat.div_add_mod c nx
    have h2 := Nat.div_add_mod (c / nx) ny
    calc c = nx * (c / nx) + c % nx := h1.symm
      _ = nx * (ny * (c / nx / ny) + c / nx % ny) + c % nx := by rw [h2]
      _ = _ := by rw [Nat.mul_add, Nat.mul_assoc]; omega
  · rintro ⟨i, j, k, h, rfl⟩
    have h' := h
    simp only [CellBox.containsIndex, Bool.and_eq_true, decide_eq_true_eq] at h'
    obtain ⟨e1, e2, e3⟩ := cellNumber_indices (nx := nx) (ny := ny) (i := i) (j := j) (k := k) (by omega) (by omega)
    rw [CellBox.containsCell, e1, e2, e3]; exact h

/-- The clamped index range of an axis lies within its count, for a count above 0 (R11). -/
theorem axisCells_bound {bmin bmax origin : Int} {edge n lo hi : Nat} (hn : 0 < n)
    (h : axisCells bmin bmax origin edge n = some (lo, hi)) : hi < n := by
  unfold axisCells at h
  dsimp only at h
  split at h
  · simp at h
  · simp only [Option.some.injEq, Prod.mk.injEq] at h
    omega

/-- A cell box lies within the counts (R11). -/
theorem cellBoxOf_bound {f : Setup} {b : Box} {c : CellBox} (hx : 0 < f.nx) (hy : 0 < f.ny) (hz : 0 < f.nz)
    (h : cellBoxOf f b = some c) : c.xhi < f.nx ∧ c.yhi < f.ny ∧ c.zhi < f.nz := by
  unfold cellBoxOf at h
  split at h
  · next h1 h2 h3 =>
    obtain rfl := Option.some.inj h
    exact ⟨axisCells_bound hx h1, axisCells_bound hy h2, axisCells_bound hz h3⟩
  · simp at h

/-! ## The table's law from a finite check -/

/-- The cells that claim number `n` of arm `x` holds. -/
def CellTable.heldBy (t : CellTable) (x : Arm) (n : Nat) : List Nat :=
  (t.cells.filter fun e => e.2.owner == some x && e.2.holders.contains n).map fun e => e.1

theorem CellTable.mem_heldBy (t : CellTable) (h : t.wf) (x : Arm) (n c : Nat) :
    c ∈ t.heldBy x n ↔ t.owner c = some x ∧ n ∈ (t.entry c).holders := by
  simp only [CellTable.heldBy, List.mem_map, List.mem_filter, Bool.and_eq_true, beq_iff_eq, List.contains_iff_mem,
    CellTable.owner, CellTable.entry]
  constructor
  · rintro ⟨⟨d, e⟩, ⟨hm, ho, hn⟩, rfl⟩
    rw [(mem_iff_sparseFind d e _ h.1).mp hm]; exact ⟨ho, hn⟩
  · rintro ⟨ho, hn⟩
    cases hf : sparseFind c t.cells with
    | none => simp [hf, freeEntry] at ho
    | some e =>
      rw [hf] at ho hn
      exact ⟨(c, e), ⟨(mem_iff_sparseFind c e _ h.1).mpr hf, ho, hn⟩, rfl⟩

/-- The table's law, checked record by record: each claim in force holds the cells of its box, the others none. -/
def Part.tableCheck (p : Part) : Bool :=
  decide p.table.wf && p.armA.claims.length == 8 && p.armB.claims.length == 8 &&
    [Arm.a, Arm.b].all fun x => (List.range 8).all fun n =>
      let held := p.table.heldBy x n
      let cells := if (p.claim x n).inForce then p.table.cellsOf (some (p.claim x n).box) else []
      held.all (cells.contains ·) && cells.all (held.contains ·)

/-- The finite check is the table's law. -/
theorem Part.tableLaw_of_check (p : Part) (h : p.tableCheck = true) : p.tableLaw := by
  simp only [Part.tableCheck, Bool.and_eq_true, decide_eq_true_eq, beq_iff_eq, List.all_eq_true, List.mem_range,
    List.contains_iff_mem] at h
  obtain ⟨⟨⟨hw, ha⟩, hb⟩, hall⟩ := h
  refine ⟨hw, ha, hb, fun x n c hn => ?_⟩
  obtain ⟨h1, h2⟩ := hall x (by cases x <;> simp) n hn
  rw [← CellTable.mem_heldBy _ hw]
  by_cases hf : (p.claim x n).inForce = true
  · simp only [hf, if_true] at h1 h2
    exact ⟨fun hc => ⟨hf, h1 c hc⟩, fun hc => h2 c hc.2⟩
  · simp only [hf] at h1
    constructor
    · intro hc; simpa using h1 c hc
    · intro hc; exact absurd hc.1 hf

/-! ## Park cells (R21) -/

theorem CellTable.mem_parkCells (t : CellTable) (h : t.wf) (x : Arm) (c : Nat) :
    c ∈ t.parkCells x ↔ t.owner c = some x ∧ parkNumber ∈ (t.entry c).holders := by
  have := t.mem_heldBy h x parkNumber c
  simpa [CellTable.parkCells, CellTable.heldBy] using this

theorem sparseWf_keys_nodup {β : Type} : ∀ {l : List (Nat × β)}, sparseWf l = true → (l.map Prod.fst).Nodup
  | [], _ => by simp
  | (j, v) :: rest, h => by
    simp only [sparseWf, Bool.and_eq_true] at h
    simp only [List.map_cons, List.nodup_cons]
    refine ⟨fun hm => ?_, sparseWf_keys_nodup h.2⟩
    obtain ⟨e, he, hj⟩ := List.mem_map.mp hm
    have := (mem_iff_sparseFind e.1 e.2 rest h.2).mp he
    rw [hj, sparseFind_of_keysAbove (Nat.le_refl j) h.1] at this
    cases this

theorem CellTable.parkCells_nodup (t : CellTable) (h : t.wf) (x : Arm) : (t.parkCells x).Nodup :=
  (sparseWf_keys_nodup h.1).sublist (List.filter_sublist.map Prod.fst)

/-- The park cells of a table are counted by membership alone. -/
theorem CellTable.parkCells_length (t : CellTable) (h : t.wf) (x : Arm) {l : List Nat} (hl : l.Nodup)
    (hm : ∀ c, c ∈ l ↔ t.owner c = some x ∧ parkNumber ∈ (t.entry c).holders) : (t.parkCells x).length = l.length :=
  ((List.perm_ext_iff_of_nodup (t.parkCells_nodup h x) hl).mpr fun c => by
    rw [t.mem_parkCells h x c, hm c]).length_eq

end Sys2Proof.Machine
end

