-- ==== Sys2Proof/Laws/Frames.lean ====
section
/-! SUPPORT. The shared operations that leave the cell table and the claim records alone. -/

namespace Sys2Proof.Machine

/-- `q` has the cell table and the claim records of `p`. -/
def Part.sameTable (p q : Part) : Prop := q.table = p.table ∧ ∀ y, (q.arm y).claims = (p.arm y).claims

theorem Part.sameTable.rfl {p : Part} : p.sameTable p := ⟨Eq.refl _, fun _ => Eq.refl _⟩

theorem Part.sameTable.trans {p q r : Part} (h : p.sameTable q) (k : q.sameTable r) : p.sameTable r :=
  ⟨k.1.trans h.1, fun y => (k.2 y).trans (h.2 y)⟩

/-- The table's law reads the table and the claim records alone. -/
theorem Part.sameTable.law {p q : Part} (h : p.sameTable q) (hp : p.tableLaw) : q.tableLaw := by
  obtain ⟨ht, hc⟩ := h
  have hcl : ∀ x n, q.claim x n = p.claim x n := fun x n => by unfold Part.claim; rw [hc]
  obtain ⟨h1, h2, h3, h4⟩ := hp
  refine ⟨by rw [ht]; exact h1, ?_, ?_, fun x n c hn => ?_⟩
  · have := hc .a; simp only [Part.arm_a] at this; rw [this]; exact h2
  · have := hc .b; simp only [Part.arm_b] at this; rw [this]; exact h3
  · rw [ht, hcl]; exact h4 x n c hn

theorem Part.sameTable_updArm (p : Part) (x : Arm) (f : ArmPart → ArmPart)
    (h : (f (p.arm x)).claims = (p.arm x).claims) : p.sameTable (p.updArm x f) :=
  ⟨by simp, fun y => by rw [Part.updArm_arm_ite]; split <;> simp_all⟩

theorem Part.sameTable_of_view {p q : Part} (h : q.view = p.view) : p.sameTable q :=
  ⟨show q.view.table = p.view.table by rw [h],
    fun y => show (q.arm y).view.claims = (p.arm y).view.claims by rw [Part.arm_view_of_view h y]⟩

theorem Part.sameTable_setCause (p : Part) (c : Cause) : p.sameTable (p.setCause c) := ⟨rfl, fun y => by simp⟩
theorem Part.sameTable_queueOp (p : Part) (op : MemOp) : p.sameTable (p.queueOp op) := ⟨rfl, fun y => by simp⟩
theorem Part.sameTable_markDue (p : Part) (x : Arm) : p.sameTable (p.markDue x) := ⟨by simp, fun y => by simp⟩
theorem Part.sameTable_markChanged (p : Part) (x : Arm) : p.sameTable (p.markChanged x) := ⟨by simp, fun y => by simp⟩

theorem Part.sameTable_guardChanged (p : Part) (x : Arm) : p.sameTable (p.guardChanged x) :=
  (p.sameTable_setCause _).trans (Part.sameTable_markDue _ x)

theorem Part.sameTable_enterHeld (p : Part) (x : Arm) : p.sameTable (p.enterHeld x) :=
  (p.sameTable_updArm x _ rfl).trans (Part.sameTable_updArm _ x _ rfl)

theorem Part.sameTable_enterRunning (p : Part) (x : Arm) : p.sameTable (p.enterRunning x) :=
  (p.sameTable_updArm x _ rfl).trans (Part.sameTable_updArm _ x _ rfl)

theorem Part.sameTable_addReason (p : Part) (x : Arm) (r : HoldReason) : p.sameTable (p.addReason x r) := by
  have h := (p.sameTable_updArm x (fun a => { a with guard := { a.guard with
    reasons := a.guard.reasons.put true r } }) rfl).trans (Part.sameTable_guardChanged _ x)
  rcases p.addReason_cases x r with ⟨_, e⟩ | ⟨_, _, e⟩ | ⟨_, _, e⟩ <;> rw [e]
  · exact .rfl
  · exact h.trans (Part.sameTable_enterHeld _ x)
  · exact h

theorem Part.sameTable_removeReason (p : Part) (x : Arm) (r : HoldReason) : p.sameTable (p.removeReason x r) := by
  have h := (p.sameTable_updArm x (fun a => { a with guard := { a.guard with
    reasons := a.guard.reasons.put false r } }) rfl).trans (Part.sameTable_guardChanged _ x)
  rcases p.removeReason_cases x r with ⟨_, e⟩ | ⟨_, _, e⟩ | ⟨_, _, e⟩ <;> rw [e]
  · exact .rfl
  · exact h.trans (Part.sameTable_enterRunning _ x)
  · exact h

theorem Part.sameTable_clearReason (p : Part) (x : Arm) (r : HoldReason) : p.sameTable (p.clearReason x r) := by
  rcases p.clearReason_cases x r with ⟨_, e⟩ | ⟨_, e⟩ <;> rw [e]
  · exact (p.sameTable_updArm x _ rfl).trans (Part.sameTable_guardChanged _ x)
  · exact .rfl

theorem Part.sameTable_handResult (p : Part) (x : Arm) (slot : Nat) (v : Verdict) (f : ResultFigures) :
    p.sameTable (p.handResult x slot v f) := by
  rcases p.handResult_cases x slot v f with ⟨_, e⟩ | ⟨_, e⟩ <;> rw [e]
  · exact ((p.sameTable_updArm x _ rfl).trans (Part.sameTable_queueOp _ _)).trans (Part.sameTable_queueOp _ _)
  · exact .rfl

theorem Part.sameTable_waitingNotice (p : Part) (x : Arm) (slot : Nat) (f : ResultFigures) :
    p.sameTable (p.waitingNotice x slot f) := by
  rcases p.waitingNotice_cases x slot f with ⟨_, e⟩ | ⟨_, e⟩ <;> rw [e]
  · exact ((p.sameTable_queueOp _).trans (Part.sameTable_queueOp _ _)).trans (Part.sameTable_markDue _ x)
  · exact .rfl

theorem Part.sameTable_recordTest (p : Part) (x : Arm) (r : TestResult) : p.sameTable (p.recordTest x r) := by
  have h := ((p.sameTable_updArm x (fun a => { a with test := { a.test.toIdle with
    alrn := r.alrn, last := some r } }) rfl).trans (Part.sameTable_setCause _ .test)).trans (Part.sameTable_markDue _ x)
  unfold Part.recordTest
  dsimp only
  split
  · exact h.trans (Part.sameTable_handResult _ x _ _ _)
  · exact h

theorem Part.sameTable_abortTest (p : Part) (x : Arm) (cause : StopCause) : p.sameTable (p.abortTest x cause) := by
  rcases p.abortTest_cases x cause with ⟨_, e⟩ | ⟨_, e⟩ <;> rw [e]
  · exact (p.sameTable_recordTest x _).trans (Part.sameTable_clearReason _ x .test)
  · exact .rfl

theorem Part.sameTable_clearCapped (p : Part) (x : Arm) : p.sameTable (p.clearCapped x) := by
  rcases p.clearCapped_cases x with ⟨_, e⟩ | ⟨_, e⟩ <;> rw [e]
  · exact (p.sameTable_updArm x _ rfl).trans (Part.sameTable_markDue _ x)
  · exact .rfl

theorem Part.sameTable_enterStopped (p : Part) (x : Arm) (cause : StopCause) : p.sameTable (p.enterStopped x cause) :=
  ((((p.sameTable_updArm x _ rfl).trans (Part.sameTable_updArm _ x _ rfl)).trans
    (Part.sameTable_clearCapped _ x)).trans (Part.sameTable_guardChanged _ x)).trans (Part.sameTable_abortTest _ x cause)

theorem Part.sameTable_leaveAdmission (p : Part) (x : Arm) (c : Option StopCause) :
    p.sameTable (p.leaveAdmission x c) :=
  (((p.sameTable_updArm x _ rfl).trans (Part.sameTable_updArm _ x _ rfl)).trans
    (Part.sameTable_clearCapped _ x)).trans (Part.sameTable_guardChanged _ x)

theorem Part.sameTable_failAdmission (p : Part) (x : Arm) (f : AdmissionFailure) :
    p.sameTable (p.failAdmission x f) := by
  unfold Part.failAdmission
  dsimp only
  split
  · exact (p.sameTable_leaveAdmission x _).trans (Part.sameTable_handResult _ x _ _ _)
  · exact p.sameTable_leaveAdmission x _

theorem Part.sameTable_escalate (p : Part) (x : Arm) (cause : StopCause) : p.sameTable (p.escalate x cause) := by
  rcases p.escalate_cases x cause with ⟨_, e⟩ | ⟨_, e⟩ | ⟨_, e⟩ <;> rw [e]
  · exact p.sameTable_enterStopped x cause
  · exact p.sameTable_failAdmission x _
  · exact .rfl

theorem Part.sameTable_setWaiting (p : Part) (x : Arm) (w : Option PendingReserve) : p.sameTable (p.setWaiting x w) :=
  p.sameTable_updArm x _ rfl

theorem Part.sameTable_endWaiting (p : Part) (x : Arm) (v : Verdict) : p.sameTable (p.endWaiting x v) := by
  rcases p.endWaiting_cases x v with ⟨w, _, e⟩ | ⟨_, e⟩ <;> rw [e]
  · exact (p.sameTable_setWaiting x none).trans (Part.sameTable_handResult _ x _ _ _)
  · exact .rfl

theorem Part.sameTable_compareParkLimit (p : Part) (x : Arm) : p.sameTable (p.compareParkLimit x) := by
  rcases p.compareParkLimit_cases x with ⟨_, e⟩ | ⟨_, _, e⟩ | ⟨_, _, e⟩ <;> rw [e]
  · exact .rfl
  · exact p.sameTable_addReason x _
  · exact p.sameTable_removeReason x _

theorem Part.sameTable_crossingCheck (p : Part) : p.sameTable p.crossingCheck := by
  unfold Part.crossingCheck
  split
  · split
    · exact p.sameTable_endWaiting _ _
    · exact .rfl
  · exact .rfl

theorem Part.sameTable_tryCandidate (p : Part) (x : Arm) (slot : Nat) : p.sameTable (p.tryCandidate x slot).1 := by
  rcases p.tryCandidate_cases x slot with ⟨_, e⟩ | ⟨_, e⟩ <;> rw [e]
  · exact p.sameTable_setCause _
  · exact (p.sameTable_updArm x _ rfl).trans (Part.sameTable_queueOp _ _)

theorem Part.sameTable_beginWalk (p : Part) (x : Arm) : p.sameTable (p.beginWalk x).1 := by
  rcases p.beginWalk_cases x with ⟨_, e⟩ | ⟨_, _, e⟩ | ⟨slot, _, _, e⟩ <;> rw [e]
  · exact .rfl
  · exact p.sameTable_tryCandidate x _
  · exact (p.sameTable_updArm x _ rfl).trans (Part.sameTable_queueOp _ _)

theorem Part.sameTable_prompt (p : Part) (x : Arm) : p.sameTable (p.prompt x) := by
  rcases p.prompt_cases x with ⟨_, e⟩ | ⟨_, _, e⟩ | ⟨_, _, e⟩ <;> rw [e]
  · exact .rfl
  · exact p.sameTable_beginWalk x
  · exact p.sameTable_updArm x _ rfl

theorem Part.sameTable_endWalk (p : Part) (x : Arm) : p.sameTable (p.endWalk x) := by
  unfold Part.endWalk
  split
  · exact (p.sameTable_updArm x _ rfl).trans (Part.sameTable_beginWalk _ x)
  · exact p.sameTable_updArm x _ rfl

theorem Part.sameTable_closeDone (p : Part) : p.sameTable p.closeDone :=
  (Part.sameTable_updArm { p with engine := .idle, setup := none } .a
    (fun r => { r with chain := r.chain.closeDone }) rfl).trans
    (Part.sameTable_updArm _ .b (fun r => { r with chain := r.chain.closeDone }) rfl)

theorem Part.sameTable_faultArm (p : Part) (x : Arm) : p.sameTable (p.faultArm x) := by
  have h := p.sameTable_updArm x (fun r => { r with chain := r.chain.closeDone, waiting := none }) rfl
  unfold Part.faultArm
  dsimp only
  split
  · exact h.trans (Part.sameTable_leaveAdmission _ x none)
  · exact h

theorem Part.sameTable_takeFault (p : Part) (kind : FaultKind) : p.sameTable (p.takeFault kind) := by
  rcases p.takeFault_cases kind with ⟨_, e⟩ | ⟨_, e⟩ | ⟨_, e⟩ | ⟨_, e⟩ <;> rw [e]
  · exact ⟨rfl, fun y => by cases y <;> rfl⟩
  · have h : p.sameTable ({ p with
        engine := .faulted, faultKind := kind, opQueue := [], pollTimer := none, publishTimer := none }.setCause
          .fault) := ⟨rfl, fun y => by cases y <;> rfl⟩
    exact (h.trans (Part.sameTable_faultArm _ .a)).trans (Part.sameTable_faultArm _ .b)
  · have h : p.sameTable ({ p with opQueue := [] }.setCause .fault) := ⟨rfl, fun y => by cases y <;> rfl⟩
    have k := h.trans (Part.sameTable_closeDone _)
    exact ⟨k.1, fun y => (by cases y <;> rfl : _ = _).trans (k.2 y)⟩
  · exact .rfl

theorem Part.sameTable_startNext (p : Part) : p.sameTable p.startNext := by
  rcases p.startNext_cases with ⟨_, e⟩ | ⟨_, _, _, e⟩ | ⟨_, _, _, e⟩ | ⟨op, rest, _, _, _, e⟩ |
    ⟨op, rest, _, _, _, e⟩ <;> rw [e]
  · exact .rfl
  · exact p.sameTable_closeDone
  · exact .rfl
  · exact Part.sameTable_of_view ((Part.beginOp_view _ op).trans rfl)
  · have h : p.sameTable { p with opQueue := rest } := ⟨rfl, fun y => by cases y <;> rfl⟩
    exact h.trans (Part.sameTable_takeFault _ _)

/-- The end of a step leaves the cell table and the claim records alone. -/
theorem Part.sameTable_settle (b p : Part) : p.sameTable (Part.settle b p) :=
  (((((Part.sameTable_of_view (p.publish_view .a)).trans (Part.sameTable_of_view (Part.publish_view _ .b))).trans
    (Part.sameTable_startNext _)).trans (Part.sameTable_of_view (Part.driveStopLine_view _ .a))).trans
      (Part.sameTable_of_view (Part.driveStopLine_view _ .b))).trans
        (Part.sameTable_of_view (Part.sendMessage_view b _))

/-! ## Host memory after an operation is given up (R152, R175) -/

/-- Giving up the operation in progress leaves host memory as a cut-off write, or no write, leaves it. -/
theorem Part.dropRunning_cutOff (p : Part) : p.cutOff p.dropRunning.hostMem := by
  obtain ⟨hn, he⟩ | ⟨r, hr, ho, he⟩ | ⟨r, hr, ho, he⟩ := p.dropRunning_cases
  · rw [he]; exact ⟨fun _ => rfl, fun r hr => by simp [hn] at hr⟩
  · rw [he]; exact ⟨fun _ => rfl, fun r' hr' hw => by simp_all⟩
  · rw [he]
    refine ⟨fun h => by simp [h r hr] at ho, fun r' hr' _ => ?_⟩
    obtain rfl : r = r' := by simpa [hr] using hr'
    exact ⟨⟨_, rfl⟩, fun a ha => memRead_memWrite_outside _ _ _ _ fun i hi => ha i (by
      simp only [List.length_take] at hi; omega)⟩

/-- It uses one free value for a write and none otherwise. -/
theorem Part.dropRunning_freeUsed (p : Part) : p.dropRunning.freeUsed = p.freeUsed + p.cutOffUses := by
  obtain ⟨hn, he⟩ | ⟨r, hr, ho, he⟩ | ⟨r, hr, ho, he⟩ := p.dropRunning_cases <;> rw [he] <;>
    simp_all [Part.cutOffUses]

/-! ## Re-evaluation (R54) -/

/-- Without a pending RESERVE any record can take its grant. -/
theorem Part.grantable_of_none {p : Part} {y : Arm} (k : Nat) (h : (p.arm y).waiting = none) : p.grantable y k :=
  fun w hw => by simp [h] at hw

theorem Part.grantable_of_some {p : Part} {y : Arm} {k : Nat} {w : PendingReserve} (h : (p.arm y).waiting = some w)
    (hk : p.engine = .serving ∧ (p.arm y).chain.openSlot = some w.slot ∧ k < 8 ∧ (p.claim y k).inForce = false ∧
      (∀ m, m < k → (p.claim y m).inForce = true) ∧
      ∀ m, m < 8 → (p.claim y m).inForce = true → (p.claim y m).tag ≠ w.tag) : p.grantable y k :=
  fun v hv => by obtain rfl : w = v := by simpa [h] using hv
                 exact hk

/-- Nothing is granted while no cell becomes NONE. -/
@[simp] theorem Part.regranted_nil (p : Part) (y : Arm) (joined : List Nat) : p.regranted y [] joined = none := by
  cases h : (p.arm y).waiting <;> simp [Part.regranted, h]

/-- Nothing is granted without a pending RESERVE. -/
theorem Part.regranted_of_none (p : Part) (y : Arm) (freed joined : List Nat) (h : (p.arm y).waiting = none) :
    p.regranted y freed joined = none := by
  simp [Part.regranted, h]

/-- What is granted is the pending RESERVE, when a cell has become NONE and none stands in its way. -/
theorem Part.regranted_eq_some (p : Part) (y : Arm) (freed joined : List Nat) (w : PendingReserve) :
    p.regranted y freed joined = some w ↔
      (p.arm y).waiting = some w ∧ freed ≠ [] ∧ p.inTheWay y freed joined w = [] := by
  simp [Part.regranted, Option.filter_eq_some_iff]

/-! ## The end of a frame (R71) -/

/-- Without an owed evaluation a notice is all. -/
@[simp] theorem Part.frameEnd_of_not_owed (p : Part) (x : Arm) (u : ArmPart) (flags : Word)
    (h : u.monitor.evaluationOwed = false) : p.frameEnd x u flags = p.withArm x u flags := by
  simp [Part.frameEnd, h]

/-- While further notices wait the evaluation waits too. -/
theorem Part.frameEnd_of_notices (p : Part) (x : Arm) (u : ArmPart) (flags : Word) (h : u.notices ≠ []) :
    p.frameEnd x u flags = p.withArm x u flags := by
  simp [Part.frameEnd, h]

/-- With the other envelope unknown the mark goes and nothing is evaluated. -/
theorem Part.frameEnd_of_unknown (p : Part) (x : Arm) (u : ArmPart) (flags : Word)
    (ho : u.monitor.evaluationOwed = true) (hn : u.notices = []) (h : (p.arm x.other).monitor.known = false) :
    p.frameEnd x u flags =
      p.withArm x { u with monitor := { u.monitor with evaluationOwed := false } } flags := by
  simp [Part.frameEnd, ho, hn, h, Monitor.knownBox]

end Sys2Proof.Machine
end

