-- ==== Sys2Proof/Tests/Slice0.lean ====
section
/-! SUPPORT. Tests: the WellFormed smoke, small tests of the commands with values from the spec's worked cases, and for
every statement with hypotheses states that meet them. -/

namespace Sys2Proof.Tests

open Sys2Proof.Machine

-- one kernel evaluation after the other: each thread of its own would ask for a stack of its own
set_option Elab.async false
set_option synthInstance.maxHeartbeats 400000
set_option synthInstance.maxSize 200000

/-! ## Well-formedness: an ill-formed command for each check -/

theorem test_wf_size_zero : (Instr.registerWrite 0x1C 0 0).wellFormed = false := by decide
theorem test_wf_size_five : (Instr.registerWrite 0x1C 5 0).wellFormed = false := by decide
theorem test_wf_past_the_window : (Instr.registerWrite 0x3E 3 0).wellFormed = false := by decide
theorem test_wf_registers_with_a_row :
    ∀ offset ∈ [0x00#6, 0x08#6, 0x0C#6, 0x10#6, 0x14#6, 0x18#6], (Instr.registerWrite offset 4 0).wellFormed = false := by
  decide
theorem test_wf_accepted : ∀ c ∈ [Instr.registerWrite 0x04 4 1, .registerWrite 0x1C 4 1, .registerWrite 0x00 2 1,
    .registerWrite 0x3F 1 1, .pinReset], c.wellFormed = true := by decide
theorem test_no_word_decodes : decodeTableWord 32 0 = none ∧ decodeTableWord 8 0xFF = none := by decide

/-! ## Parts to test on: the reference setup of chapter 12 -/

/-- A record of `w` bits with the given bytes. -/
def record (bytes : List Nat) (w : Nat) : BitVec w := BitVec.ofNat w (bytes.foldr (fun b a => b % 256 + 256 * a) 0)

/-- The two bytes of a field. -/
def half (n : Nat) : List Nat := [n, n / 256]

/-- The two bytes of a signed field. -/
def signed (i : Int) : List Nat := half (BitVec.ofInt 16 i).toNat

/-- The reference setup block, its loss limit and park limit open. -/
def setupBlock (loss park : Nat) : BitVec 1024 :=
  record (half 0x5A31 ++ signed 0 ++ signed (-200) ++ signed 0 ++ half 50 ++ [16, 8, 8, 0, 0, 1] ++ half 60 ++ half 150 ++
    half 200 ++ half 20 ++ half loss ++ half 40 ++ half 25 ++ [3, 2] ++ half 500 ++ [park, 0] ++ half 400 ++ half 500 ++
    half 20 ++ half 10 ++ half 10 ++ [0, 0] ++ half 40 ++ half 12 ++ half 20000 ++ [15, 0] ++ half 30 ++ half 10 ++
    half 16000 ++ [20, 0]) 1024

/-- A slot that is POSTED. -/
def slotOf (kind arm tag : Nat) (lo hi : Int × Int × Int) (speed wait mode : Nat) : BitVec 512 :=
  record ([1, kind, arm, 255] ++ half tag ++ [0, 0] ++ signed lo.1 ++ signed lo.2.1 ++ signed lo.2.2 ++ signed hi.1 ++
    signed hi.2.1 ++ signed hi.2.2 ++ half speed ++ half wait ++ [mode]) 512

/-- A request of a kind without fields of its own. -/
def request (kind arm : Nat) : BitVec 512 := slotOf kind arm 0 (0, 0, 0) (0, 0, 0) 0 0 0

/-- A RESERVE of arm A whose zone is columns 5..7, rows 2..4, layers 1..4. -/
def reserve (tag wait mode : Nat) : BitVec 512 := slotOf 1 0 tag (310, -45, 105) (340, -10, 145) 0 wait mode

def st (p : Part) : State := ⟨p, []⟩

/-- The part after a command. -/
def after (c : Instr) (p : Part) : Part :=
  match exec c (st p) with
  | .next t => t.part
  | .fault _ => p
  | .refused _ => p

/-- IDLE with the interface up and CELLSTOP released, one second after reset. -/
def up : Part := { resetPart with now := 1000000, busMaster := true, pcieUp := true, cellstopPin := false, cellstop := false }

/-- An operation in progress. -/
def busy (p : Part) (op : MemOp) : Part :=
  { p with inProgress := some ⟨op, p.areaAddr op.offset, [], if op.isRead then some 1050000 else none, false⟩ }

def loading : Part := busy { up with engine := .loading, serve := true } .setupRead

def serveArm (acfg : Nat) : ArmPart := { resetArm with link := resetLink .active, test := resetTest acfg }

/-- SERVING on the reference setup with both arms OFFLINE. -/
def serving : Part := { up with
  engine := .serving
  serve := true
  outcome := .accepted
  setup := some (readSetup (setupBlock 100 12))
  publishTimer := some 1010000
  pollTimer := some 1010000
  table := clearedTable 16 8 8
  armA := serveArm 20000
  armB := serveArm 16000 }

def closing : Part := busy { serving with
  engine := .closing, serve := false, publishTimer := none, pollTimer := none, table := clearedTable 0 0 0,
  armA := resetArm, armB := resetArm } (.statusWrite .b)

def faulted : Part := { serving with engine := .faulted, publishTimer := none, pollTimer := none, faultKind := .readError }

/-- The part with another arm A. -/
def withA (p : Part) (f : ArmPart → ArmPart) : Part := { p with armA := f p.armA }

def running (r : ArmPart) : ArmPart := { r with guard := { r.guard with state := .running, stopAsserted := false } }

/-- HELD for the given reasons, the hold begun 40 ms ago. -/
def held (reasons : Reasons) (phase : HoldPhase) (r : ArmPart) : ArmPart := { r with
  guard := { r.guard with
    state := .held
    reasons := reasons
    phase := phase
    ackTimer := if phase = .awaiting then some 1000000 else none
    stopAsserted := false }
  link := { r.link with repeatTimer := some 1000000 } }

def stopped (r : ArmPart) : ArmPart := { r with guard := { r.guard with state := .stopped } }

/-- ADMITTING from OFFLINE in open slot 0, the admission window just closing. -/
def admitting (r : ArmPart) : ArmPart := { r with
  chain := { r.chain with cursor := some 0, openSlot := some 0 }
  guard := { r.guard with
    state := .admitting, admissionSlot := some 0, prior := some .offline, windowTimer := some 1000000 } }

/-- Arm A's claim 0, tag 5, over columns 4..6, rows 2..3, layers 1..2. -/
def claimed (mode : ClaimMode) (p : Part) : Part :=
  withA (p.fillClaim .a 0 (grantedClaim 5 mode ⟨4, 6, 2, 3, 1, 2⟩ 12 900000 3)) fun r =>
    { r with chain := { r.chain with publishDue := false } }

/-- Arm x has an envelope at a place. -/
def reaching (box : Option CellBox) (b : Box) (r : ArmPart) : ArmPart := { r with
  monitor := { r.monitor with previous := true, envelope := some ⟨b, box⟩, known := true, restart := false } }

/-- Arm B's pending RESERVE w, in open slot 3. -/
def behind (w : PendingReserve) (p : Part) : Part := { p with armB := { p.armB with
  waiting := some w, chain := { p.armB.chain with cursor := some 3, openSlot := some 3 } } }

/-- Arm B's RESERVE of columns 5..7, rows 2..3, layers 1..2. -/
def theirs : PendingReserve :=
  ⟨3, 5, .explicit, ⟨5, 7, 2, 3, 1, 2⟩, 12, 8, some 165, 950000, .older, some 1100000⟩

/-- A slot read of x in progress. -/
def reading (p : Part) (x : Arm) : Part := busy p (.slotRead x 7)

def stale : Reasons := { noReasons with stale := true }
def hostHold : Reasons := { noReasons with host := true }
def testHold : Reasons := { noReasons with test := true }

/-- BRAKING on a test in open slot 61 (chapter 6's worked case). -/
def braking (r : ArmPart) : ArmPart := { held testHold .awaiting r with
  chain := { r.chain with cursor := some 61, openSlot := some 61 }
  test := { r.test with
    phase := .braking, slot := some 61, p0 := ⟨500, 0, 200⟩, t0 := 998000, v0 := 1200, timer := some 1000000 } }

def figuresAt (x y z : Int) (t : Word) (d : DriveState) (v : Nat) : Figures :=
  ⟨⟨BitVec.ofInt 16 x, BitVec.ofInt 16 y, BitVec.ofInt 16 z⟩, t, d, v⟩

/-! ## The margin unit (1.5, 1.11, 1.13, R13) -/

theorem test_margins_of_the_reference_arm :
    [0, 500, 1000, 1500, 2000, 4000, 8000, 12000].map (marginOf ⟨40, 12, 20000, 15⟩ 20000) =
      [15, 28, 52, 90, 139, 463, 1711, 2047] := by decide +kernel
theorem test_roots_round_up : [30, 2600, 0, 1, 2].map ceilRoot = [6, 51, 0, 1, 2] := by decide +kernel
theorem test_envelope_of_one_frame :
    serving.envelopeAt .a ⟨412, BitVec.ofInt 16 (-35), 210⟩ 1500 =
      ⟨⟨282, 542, -165, 95, 80, 340⟩, some ⟨5, 10, 0, 5, 1, 6⟩⟩ := by decide +kernel
theorem test_zone_of_a_reserve :
    serving.zoneOf .a (readSlot (slotOf 1 0 0 (300, -100, 50) (420, 40, 150) 2000 0 0)) =
      some ⟨2, 11, 0, 7, 0, 6⟩ := by decide +kernel
theorem test_speed_across_the_counter_wrap :
    computedSpeed ⟨400, 0, 101⟩ ⟨440, 0, 101⟩ 4294960060 2000 = 4331 := by decide +kernel
theorem test_clearance_of_the_worked_boxes :
    clearance ⟨282, 542, -165, 95, 80, 340⟩ ⟨600, 760, -80, 80, 120, 280⟩ = 58 := by decide +kernel

/-! ## Records (R129, R134, R183) -/

theorem test_outbound_crcs : OutFrame.bytes (.stop .hold) = [0xA5, 0x61, 0, 0, 0xAE] ∧
    OutFrame.bytes (.speed (.cap 200)) = [0xA5, 0x63, 0xC8, 0, 0x3D] := by decide +kernel
theorem test_status_block_size : (statusBytes (running (serveArm 20000)) 7).length = 256 := by decide +kernel

/-! ## Loads and the end of serving (10.8) -/

theorem test_load_refused_at_field_12 :
    let p := after (.setupReadComplete (setupBlock 20 12) .a) loading
    p.engine = .idle ∧ p.outcome = .refused ∧ p.fieldNumber = 12 ∧ p.serve = false ∧ p.causeSet .setup = true := by
  decide +kernel
theorem test_load_accepted :
    let p := after (.setupReadComplete (setupBlock 100 12) .a) loading
    p.engine = .serving ∧ p.readWindow 0x04 4 = 0x00001002 ∧
      p.ops = [.statusWrite .a, .statusWrite .b, .slotRead .a 0, .slotRead .b 1] := by decide +kernel
theorem test_teardown_withdraws_the_admission :
    let p := after (.serveClear .a) (withA serving admitting)
    p.engine = .closing ∧ p.armA.guard.state = .offline ∧
      p.ops.drop 1 = [.stageWrite .a 0 .done, .statusWrite .a, .statusWrite .b] := by decide +kernel
theorem test_teardown_marks_a_cleared_park_count :
    let p := busy { serving with table := (clearedTable 16 8 8).addAll .a 8 [166] } (.statusWrite .a)
    let q := after (.serveClear .a) (withA p fun r => { r with parkCount := 1 })
    q.armA.parkCount = 0 ∧ q.armA.chain.publishDue = true ∧ q.armB.chain.publishDue = false := by decide +kernel
theorem test_pin_reset_clears_the_base :
    (after .pinReset { up with baseLo := 0x1000, inReset := true }).readWindow 0x14 4 = 0 := by decide +kernel
theorem test_part_reset_keeps_the_mask :
    (after .partReset { serving with causeMask := 0x7FF }).readWindow 0x0C 4 = 0x7FF := by decide +kernel
theorem test_arm_reset_parks :
    let p := after (.armResetX .a) (claimed .explicit (withA serving running))
    p.armA.parkCount = 12 ∧ p.table.entry 164 = ⟨some .a, [8]⟩ ∧ p.armA.guard.state = .offline := by decide +kernel

/-! ## Registers -/

theorem test_cause_write_one_clears : (after (.causeWrite 0x201) { up with cause := 0x701 }).cause = 0x500 := by
  decide +kernel
theorem test_cause_mask_raises_the_interrupt :
    let p := after (.causeMaskWrite 0xFFFFFFFF) { up with cause := 1, msgEnable := true }
    p.causeMask = 0x7FF ∧ p.messages = 1 := by decide +kernel
theorem test_base_low_bits_stay_zero :
    (after (.exchangeBaseWrite .lo 0x12345678) up).baseLo = 0x12345000 := by decide +kernel
theorem test_base_ignored_while_serving :
    (after (.exchangeBaseWrite .hi 1) serving).baseHi = 0 := by decide +kernel
theorem test_short_write_has_no_effect : after (.registerWrite 0x00 2 0xFFFF) up = up := by decide +kernel
theorem test_reset_pin_asserts_the_stop_lines :
    (after .resetPinAsserted (withA serving running)).armA.guard.stopAsserted = true := by decide +kernel

/-! ## Walks, takings, writes and faults (8.8, R151, R152) -/

theorem test_nudge_reads_the_entry_slots :
    (after (.nudge 0 .b) serving).ops = [.slotRead .b 1, .slotRead .a 0] := by decide +kernel
theorem test_poll_restarts : (after (.pollTimerExpiry .a) { serving with now := 1010000 }).pollTimer = some 1020000 := by
  decide +kernel
theorem test_publish_queues_a_changed_block :
    (after .publishTimerExpiry (withA { serving with now := 1010000 } fun r =>
      { r with chain := { r.chain with changed := true } })).ops = [.statusWrite .a] := by decide +kernel
theorem test_next_field_end : (after (.nextReadComplete 255) (withA (busy serving (.nextRead .a 7)) fun r =>
    { r with chain := { r.chain with cursor := some 7, walk := .readingNext } })).armA.chain.walk = .none := by
  decide +kernel
theorem test_readmit_waits :
    (after (.slotReadComplete (request 3 0)) (reading serving .a)).ops =
      takingOps .a 7 1000000 ++ noticeOps .a 7 (.readmit .offline noReasons 0 .offline 0 0 false) ++ [.statusWrite .a] := by
  decide +kernel
theorem test_done_write_sets_verdict :
    let p := after .memoryWriteComplete (withA { serving with
      inProgress := some ⟨.stageWrite .a 0 .done, 0x400, [4], none, false⟩ } fun r =>
        { r with chain := { r.chain with cursor := some 0, openSlot := some 0 } })
    p.causeSet .verdict = true ∧ p.armA.chain.openSlot = none ∧ memRead p.hostMem 0x400 = some 4 := by decide +kernel
theorem test_read_timeout_while_loading :
    let p := after .readTimeout { loading with now := 1050000 }
    p.engine = .idle ∧ p.faultKind = .readTimeout ∧ p.fieldNumber = 0 := by decide +kernel
theorem test_fault_while_serving : (after (.memoryFault .poisonedData) (reading serving .a)).engine = .faulted := by
  decide +kernel
theorem test_lost_link_fails_a_write :
    (after (.pcieConditionLost .link) (busy serving (.statusWrite .a))).faultKind = .writeError := by decide +kernel
theorem test_configuration_write : (after (.configurationSpaceWrite true true) resetPart).msgEnable = true := by
  decide +kernel
theorem test_link_up : (after (.pcieLinkUp true) resetPart).pcieUp = true := by decide +kernel

/-! ## Claims (9.6, 12.2) -/

theorem test_leave_count_releases :
    let p := withA (claimed .onLeave (withA serving running)) fun r => { r with
      claims := r.claims.set 0 { (r.claims.getD 0 freeClaim) with entered := true, outside := 1 }
      reports := [⟨some ⟨4, 6, 2, 3, 3, 3⟩, 1, 1000000, false⟩] }
    let q := after (.envelopeReport .a) { p with setup := p.setup.map fun f => { f with parkLimit := 255 } }
    q.claim .a 0 = freeClaim ∧ q.table.owner 164 = none := by decide +kernel
theorem test_park_limit_holds :
    let p := withA serving fun r => { running r with reports := [⟨some ⟨1, 4, 2, 3, 1, 2⟩, 1, 1000000, false⟩] }
    (after (.envelopeReport .a) p).armA.guard.state = .held := by decide +kernel
theorem test_wait_expires :
    let w : PendingReserve := ⟨3, 5, .explicit, ⟨2, 7, 2, 3, 1, 2⟩, 24, 8, some 162, 950000, .older, some 1000000⟩
    (after (.waitTimerExpiry .a) (withA serving fun r => { r with waiting := some w })).armA.waiting = none := by
  decide +kernel

/-! ## Links (R94, R124 to R133) -/

theorem test_start_byte : (after (.rxByte .a 0xA5 false) serving).armA.link.gapTimer = some 1001000 := by decide +kernel
theorem test_estop_byte_stops :
    (after (.rxByte .a 0xE7 false) (withA serving running)).armA.guard.stopCause = .estop := by decide +kernel
theorem test_byte_gap : (after (.byteGapExpiry .a) (withA serving fun r => { r with
    link := { r.link with phase := .frame, received := [0xA5], gapTimer := some 1000000 } })).cause = 0x80 := by
  decide +kernel
theorem test_line_free_takes_stop_control :
    (after (.lineFree .a) (withA serving fun r => { r with
      link := { r.link with stopPlace := some .resume, speedPlace := some .uncap } })).armA.link.onLine =
        some (.stop .resume) := by decide +kernel
theorem test_hold_repeats :
    (after (.holdRepeatExpiry .a) (withA serving (held hostHold .acknowledged))).armA.link.repeatTimer =
      some 1025000 := by decide +kernel

/-! ## Monitors and guards (4.7, 4.8, 5.11, R89, R102) -/

theorem test_stale_holds : (after (.staleExpiry .a) (withA serving fun r =>
    running { r with monitor := { r.monitor with staleTimer := some 1000000 } })).armA.guard.reasons = stale := by
  decide +kernel
theorem test_loss_stops : (after (.lossExpiry .a) (withA serving fun r =>
    running { r with monitor := { r.monitor with lossTimer := some 1000000 } })).armA.guard.stopCause = .loss := by
  decide +kernel
theorem test_carried_frame :
    let p := withA { serving with now := 5040000 } fun r => { running r with
      monitor := { r.monitor with previous := true, seq := 11, pos := ⟨404, 0, 200⟩, time := 5004000, speed := 1000
                                  known := true, restart := false }
      link := { r.link with fifo := [⟨15, 1, ⟨460, 0, 200⟩, 800, 5040000⟩] } }
    let m := (after (.monitorTakeFrame .a) p).armA.monitor
    m.speed = 1000 ∧ m.margin = 52 ∧ m.staleTimer = some 5060000 ∧ m.lossTimer = some 5140000 := by decide +kernel
theorem test_next_frame_waits_for_the_figures :
    let p := withA serving fun r => { r with
      figures := [figuresAt 0 0 0 1000000 .moving 9]
      link := { r.link with fifo := [⟨15, 1, ⟨460, 0, 200⟩, 800, 1000000⟩] } }
    after (.monitorTakeFrame .a) p = p ∧ (after (.monitorTakeFrame .a) (after (.frameFigures .a) p)).armA.link.fifo = [] := by
  decide +kernel
theorem test_holding_acknowledges :
    (after (.frameNotice .a) (withA serving fun r =>
      { held hostHold .awaiting r with notices := [⟨.holding, 300, 1, 1000000⟩] })).armA.guard.phase = .acknowledged := by
  decide +kernel
theorem test_moving_again_disobeys :
    (after (.frameNotice .a) (withA serving fun r =>
      { held hostHold .acknowledged r with notices := [⟨.moving, 150, 1, 1000000⟩] })).armA.guard.stopCause =
        .disobeyed := by decide +kernel
theorem test_third_standstill_admits :
    let p := withA serving fun r => { admitting r with
      answers := [⟨false, some ⟨1, 2, 2, 3, 1, 2⟩, 9, 1000000⟩]
      guard := { (admitting r).guard with count := 2, unpaired := [.notice ⟨.standstill, 0, 9, 1000000⟩] } }
    let q := after (.admissionAnswer .a) p
    q.armA.guard.state = .running ∧ q.armA.parkCount = 8 ∧ q.armA.guard.stopAsserted = false := by decide +kernel
theorem test_hold_ack_expires :
    (after (.holdAckExpiry .a) (withA serving (held hostHold .awaiting))).armA.guard.stopCause = .holdAck := by
  decide +kernel
theorem test_admit_window_closes :
    (after (.admitWindowExpiry .a) (withA serving admitting)).armA.guard.state = .offline := by decide +kernel
theorem test_cellstop :
    let p := after (.cellstopAsserted .b) (withA serving running)
    let q := after (.cellstopAsserted .b) { p with now := 1000010 }
    p.armA.guard.state = .running ∧ (p.readWindow 0x04 4).getLsbD 28 = true ∧
      (after (.cellstopAsserted .b) { p with now := 1000009 }).armA.guard.state = .running ∧
      q.armA.guard.stopCause = .cellStop := by decide +kernel
theorem test_cellstop_pulse_is_filtered :
    let p := after .cellstopReleased (after (.cellstopAsserted .a) (withA serving running))
    p.cellstopFilter = none ∧ p.armA.guard.state = .running := by decide +kernel
theorem test_cellstop_released :
    let p := after .cellstopReleased { serving with cellstopPin := true, cellstop := true }
    p.armA = serving.armA ∧ (after .cellstopReleased { p with now := 1000010 }).cellstop = false := by decide +kernel
theorem test_host_hold : (after (.holdXWrite .a true) (withA serving running)).armA.link.onLine = some (.stop .hold) := by
  decide +kernel

/-! ## Stop tests (6.6) -/

theorem test_passing_test :
    let p := withA serving fun r => { braking r with
      test := { (braking r).test with slow := 1 }
      figures := [figuresAt 540 30 190 1102000 .holding 0] }
    let q := after (.frameFigures .a) p
    q.armA.test.alrn = 19459 ∧ q.armA.guard.state = .running ∧
      q.armA.test.last = some ⟨.testPassed, .none, 1200, 51, 104000, 14, 37, 19459, 19459⟩ := by decide +kernel
theorem test_overrun : (after (.testWindowExpiry .a) (withA serving braking)).armA.test.alrn = 500 := by decide +kernel
theorem test_serve_set_starts_the_read : (after .serveSet up).inProgress = some ⟨.setupRead, 0, [], some 1050000, false⟩ := by
  decide +kernel

/-! ## States that meet the hypotheses of the statements, clause by clause -/

theorem witness_StepRunsTheFrontCommand :
    (⟨resetPart, [.pinReset, .serveSet]⟩ : State).pending = .pinReset :: [.serveSet] := by decide +kernel

theorem witness_EveryStepAnswersANextState :
    State.reset.pending = [] ∧ (st { up with inReset := true }).pending = [] := by decide +kernel

theorem witness_CutOff :
    (up.inProgress = none ∧ (busy serving (.slotRead .a 7)).inProgress.isSome = true ∧
      (MemOp.slotRead .a 7).isRead = true) ∧
    (let p := { serving with inProgress := some ⟨.stageWrite .a 0 .done, 0x400, [4], none, false⟩ }
     p.inProgress = some ⟨.stageWrite .a 0 .done, 0x400, [4], none, false⟩ ∧
       (MemOp.stageWrite .a 0 .done).isRead = false ∧ (0x3FF : Addr) ≠ 0x400 + BitVec.ofNat 64 0) := by decide +kernel

theorem witness_PartReset :
    (st serving).part.inReset = false ∧ serving.inProgress = none ∧ (busy serving (.statusWrite .a)).inReset = false := by
  decide +kernel

theorem witness_AssertedResetPin :
    (st { serving with inReset := true }).part.inReset = true ∧ Instr.serveSet ≠ .pinReset ∧
      Instr.serveSet ≠ .resetPinAsserted ∧ Instr.serveSet ≠ .cellstopReleased ∧
      (∀ x ∈ [Arm.a, .b], Instr.serveSet ≠ .cellstopAsserted x) ∧ ∀ u ∈ [true, false], Instr.serveSet ≠ .pcieLinkUp u := by
  decide +kernel

theorem witness_RegistersReadTheirFields : (after .serveSet resetPart).fieldNumber < 256 := by decide +kernel

theorem witness_WindowWrites :
    (up.steady ∧ up.engine = .idle) ∧ (serving.steady ∧ serving.engine ≠ .idle) ∧
      (Instr.registerWrite 0x00 2 1).wellFormed = true ∧ (Instr.registerWrite 0x1C 4 1).wellFormed = true ∧
      2 ≠ 4 ∧ (0x02#6).toNat % 4 ≠ 0 ∧ 0x1C ≤ (0x1C#6).toNat := by decide +kernel

theorem witness_PcieInputsFollow :
    State.reset.part.steady ∧ State.reset.part.inProgress = none ∧ (busy serving (.statusWrite .a)).steady ∧
      true = true := by decide +kernel

/-- The four cases of a HOLD_x write: no change, a RUNNING arm, a last reason, and another reason or state. -/
theorem witness_HoldBit :
    let r := withA serving running
    let h := withA serving fun a => { held hostHold .acknowledged a with hold := true }
    let two := withA serving fun a => { held { hostHold with park := true } .acknowledged a with hold := true }
    (r.steady ∧ r.carries ∧ r.armA.hold = false) ∧
    (r.armA.guard.reasons.host = false ∧ r.armA.guard.state = .running) ∧
    (h.steady ∧ h.carries ∧ h.armA.hold = true ∧ h.armA.guard.state = .held ∧
      h.armA.guard.reasons = { noReasons with host := true }) ∧
    (serving.steady ∧ serving.carries ∧ serving.armA.hold = !true ∧ serving.armA.guard.reasons.host = !true ∧
      serving.armA.guard.state ≠ .running) ∧
    (two.steady ∧ two.armA.hold = !false ∧ two.armA.guard.reasons.host = !false ∧
      { two.armA.guard.reasons with host := false } ≠ noReasons) := by decide +kernel

theorem witness_ServeSet :
    (up.steady ∧ up.engine = .idle ∧ up.serve = false ∧ up.inProgress = none ∧ up.busUp) ∧
    ((busy up .setupRead).steady ∧ (busy up .setupRead).engine = .idle ∧ (busy up .setupRead).inProgress.isSome = true) ∧
    (State.reset.part.steady ∧ State.reset.part.engine = .idle ∧ State.reset.part.serve = false ∧
      State.reset.part.inProgress = none ∧ ¬ State.reset.part.busUp) ∧
    (serving.steady ∧ serving.serve = true) := by decide +kernel

theorem witness_SetupChecks :
    setupRefusal (setupBlock 20 12) = some 12 ∧ (12 : Nat) ≠ 1 ∧ setupRefusal (setupBlock 100 12) = none ∧
      setupRefusal 0 = some 1 := by decide +kernel

theorem witness_SetupRead :
    loading.steady ∧ loading.engine = .loading ∧ loading.inProgress = some ⟨.setupRead, 0, [], some 1050000, false⟩ ∧
      setupRefusal (setupBlock 20 12) = some 12 ∧ loading.opQueue = [] ∧ loading.busUp ∧
      setupRefusal (setupBlock 100 12) = none := by decide +kernel

theorem witness_ServeClear :
    (up.steady ∧ up.serve = false) ∧ (loading.steady ∧ loading.engine = .loading ∧ loading.serve = true) ∧
    (let p := { up with inProgress := some ⟨.setupRead, 0, [], some 1050000, true⟩ }
     p.steady ∧ p.engine = .idle ∧ p.opQueue = [] ∧
       p.inProgress = some ⟨.setupRead, 0, [], some 1050000, true⟩) := by decide +kernel

theorem witness_Teardown :
    let p := { withA serving admitting with armB := braking serving.armB }
    p.steady ∧ p.carries ∧ p.engine = .serving ∧ p.serve = true ∧ p.armB.test.phase = .braking ∧
      (p.withdrawalOps .a).length = 2 ∧ (p.withdrawalOps .b).length = 2 := by decide +kernel

theorem witness_FaultedServing :
    let p := withA faulted braking
    p.steady ∧ p.engine = .faulted ∧ p.serve = true ∧ p.armA.guard.state.inService = true := by decide +kernel

theorem witness_ClosingEnds :
    closing.steady ∧ closing.engine = .closing ∧ closing.opQueue = [] ∧
      closing.inProgress = some ⟨.statusWrite .b, 0x200, [], none, false⟩ := by decide +kernel

theorem witness_ArmReset :
    let p := claimed .explicit (withA serving running)
    (p.steady ∧ p.carries ∧ p.parkLaw .a ∧ p.engine = .serving) ∧ p.tableLaw :=
  ⟨by decide +kernel, Part.tableLaw_of_check _ (by decide +kernel)⟩

/-- Engine states and walks of a NUDGE, and a poll timer just due or one microsecond early. -/
theorem witness_NudgeAndPoll :
    let chain := fun (c : Option Nat) (o : Option Nat) (w : WalkPhase) => withA serving fun r =>
      { r with chain := { r.chain with cursor := c, openSlot := o, walk := w } }
    (up.steady ∧ up.engine ≠ .serving) ∧ (serving.steady ∧ serving.engine = .serving ∧ serving.carries) ∧
    ((chain (some 3) none .readingNext).steady ∧ (chain (some 3) none .readingNext).armA.chain.walk ≠ .none) ∧
    ((chain (some 3) (some 3) .none).steady ∧ (chain (some 3) (some 3) .none).armA.chain.openSlot.isSome = true) ∧
    ((chain (some 3) none .none).steady ∧ (chain (some 3) none .none).armA.chain.cursor.isSome = true) ∧
    ((chain (some 1) none .none).steady ∧ (chain (some 1) none .none).armB.chain.cursor = none ∧
      (chain (some 1) none .none).isCursor ((chain (some 1) none .none).figures.entry .b) = true) ∧
    serving.isCursor (serving.figures.entry .a) = false ∧
    (let p := { serving with now := 1010000 }
     p.steady ∧ p.engine = .serving ∧ timerDue p.now p.pollTimer = true ∧ p.carries) ∧
    timerDue (1009999 : Word) serving.pollTimer = false := by decide +kernel

theorem witness_PublishExpiry :
    (let p := withA { serving with now := 1010000 } fun r => { r with chain := { r.chain with changed := true } }
     p.steady ∧ p.engine = .serving ∧ timerDue p.now p.publishTimer = true ∧ p.carries) ∧
    timerDue (1009999 : Word) serving.publishTimer = false := by decide +kernel

/-- A next-field read, unmarked and marked, with the values at the edges: 255, 254, 128, a cursor and 127. -/
theorem witness_NextField :
    let p := fun (again : Bool) => withA (busy serving (.nextRead .a 7)) fun r =>
      { r with chain := { r.chain with cursor := some 7, walk := .readingNext, walkAgain := again } }
    ((p false).steady ∧ (p false).engine = .serving ∧ (p false).busUp ∧
      (p false).inProgress = some ⟨.nextRead .a 7, 0x5C3, [], some 1050000, false⟩ ∧ (p false).armA.chain.walkAgain = false) ∧
    (128 ≤ (254#8).toNat ∧ (254#8) ≠ 255 ∧ 128 ≤ (128#8).toNat) ∧
    ((7#8).toNat < 128 ∧ (p false).isCursor (7#8).toNat = true) ∧
    ((127#8).toNat < 128 ∧ (p false).isCursor (127#8).toNat = false) ∧
    ((p true).steady ∧ (p true).armA.chain.walkAgain = true ∧ (p true).armA.chain.openSlot = none ∧
      (p true).armA.chain.cursor = some 7) := by decide +kernel

/-- A candidate that is a cursor, one that is not POSTED, and one that is taken. -/
theorem witness_Candidate :
    let p := reading serving .a
    let q := withA p fun r => { r with chain := { r.chain with cursor := some 7 } }
    (p.steady ∧ p.engine = .serving ∧ p.busUp ∧ p.inProgress = some ⟨.slotRead .a 7, 0x5C0, [], some 1050000, false⟩) ∧
    (q.steady ∧ q.isCursor 7 = true ∧ q.armA.chain.walkAgain = false) ∧
    (p.isCursor 7 = false ∧ p.armA.chain.walkAgain = false ∧ byteAt (0#512) 0 ≠ 1) ∧
    byteAt (request 3 0) 0 = 1 := by decide +kernel

theorem witness_CompletedWrite :
    (let p := { serving with inProgress := some ⟨.stageWrite .a 0 .taken, 0x400, [2], none, false⟩ }
     p.steady ∧ p.busUp ∧ p.inProgress = some ⟨.stageWrite .a 0 .taken, 0x400, [2], none, false⟩ ∧
       (MemOp.stageWrite .a 0 .taken).isRead = false ∧ [(2 : Byte)].length ≤ 256 ∧
       (∀ x ∈ [Arm.a, .b], MemOp.stageWrite .a 0 .taken ≠ .stageWrite x 0 .done) ∧ p.engine ≠ .closing) ∧
    (let p := withA { serving with inProgress := some ⟨.stageWrite .a 0 .done, 0x400, [4], none, false⟩ } fun r =>
      { r with chain := { r.chain with cursor := some 0, openSlot := some 0 } }
     p.steady ∧ p.engine = .serving ∧ p.busUp ∧ p.inProgress = some ⟨.stageWrite .a 0 .done, 0x400, [4], none, false⟩ ∧
       p.armA.chain.walk = .none ∧ p.armA.chain.cursor = some 0) := by decide +kernel

theorem witness_FaultWhileServing :
    (let p := reading serving .a
     p.steady ∧ p.engine = .serving ∧ p.inProgress = some ⟨.slotRead .a 7, 0x5C0, [], some 1050000, false⟩) ∧
    failingCommand (.slotRead .a 7) (.memoryFault .errorStatus) ∧ failingCommand (.statusWrite .a) (.pcieLinkUp false) ∧
    timerDue (1050000 : Word) (some 1050000) = true ∧
    (let p := withA (reading serving .a) admitting
     p.steady ∧ p.armA.guard.state = .admitting ∧ p.armA.guard.prior = some .offline ∧
       GuardState.offline.inService = false) := by
  refine ⟨by decide +kernel, ?_, ?_, by decide +kernel, by decide +kernel⟩ <;> simp [failingCommand] <;> rfl

theorem witness_FaultsOutsideServing :
    (loading.steady ∧ loading.inProgress = some ⟨.setupRead, 0, [], some 1050000, false⟩ ∧ loading.engine = .loading ∧
      loading.setup = none) ∧ failingCommand .setupRead (.memoryFault .poisonedData) ∧
    timerDue (1050000 : Word) (some 1050000) = true ∧
    (closing.steady ∧ closing.inProgress = some ⟨.statusWrite .b, 0x200, [], none, false⟩ ∧ closing.engine = .closing ∧
      closing.serve = false) ∧ failingCommand (.statusWrite .b) (.pcieConditionLost .link) ∧
    (serving.steady ∧ serving.inProgress = none) ∧ timerDue (1049999 : Word) (some 1050000) = false := by
  refine ⟨by decide +kernel, ?_, by decide +kernel, by decide +kernel, ?_, by decide +kernel, by decide +kernel⟩ <;>
    simp [failingCommand] <;> rfl

/-- The taking of a POSTED slot of arm A, as every statement about a request has it. -/
def taking (p : Part) (data : BitVec 512) (kind : Byte) : Prop :=
  p.steady ∧ p.engine = .serving ∧ p.busUp ∧ p.inProgress = some ⟨.slotRead .a 7, 0x5C0, [], some 1050000, false⟩ ∧
    p.isCursor 7 = false ∧ (readSlot data).stage = 1 ∧ (readSlot data).arm.toNat = armCode .a ∧
    (readSlot data).kind = kind

theorem witness_Dispatch :
    taking (reading serving .a) (request 0 0) 0 ∧ taking (reading serving .a) (request 8 0) 8 ∧
    7 < (byteAt (request 8 0) 1).toNat ∧ (byteAt (request 3 1) 2).toNat ≠ armCode .a := by
  simp only [taking]; decide +kernel

/-- Every refusal of a RESERVE: OFFLINE, BAD_BOX, BAD_FIELD, DUPLICATE_TAG, OUTSIDE, NO_CLAIM and BLOCKED. -/
theorem witness_ReserveChecks :
    let p := reading (claimed .explicit (withA serving running)) .a
    let full := withA p fun r => { r with claims := r.claims.map fun c => { c with state := .granted } }
    let b := withA { p with table := (clearedTable 16 8 8).addAll .b 0 [166] } fun r => { r with claims := freeClaims }
    let bad := slotOf 1 0 0 (1, 0, 0) (0, 0, 0) 0 0 0
    let far := slotOf 1 0 9 (2000, 0, 0) (2000, 0, 0) 0 0 0
    taking (reading serving .a) (reserve 9 0 0) 1 ∧ taking p (reserve 9 0 0) 1 ∧ taking full (reserve 9 0 0) 1 ∧
    taking b (reserve 9 0 0) 1 ∧ serving.armA.guard.state = .offline ∧ p.armA.guard.state ≠ .offline ∧
    (¬ ((readSlot bad).boxMin.x.toInt ≤ (readSlot bad).boxMax.x.toInt)) ∧ 1 < (readSlot (reserve 9 0 2)).mode.toNat ∧
    (∃ c ∈ p.armA.claims, c.inForce = true ∧ c.tag = (readSlot (reserve 5 0 0)).tag) ∧
    (∀ c ∈ p.armA.claims, c.inForce = true → c.tag ≠ (readSlot (reserve 9 0 0)).tag) ∧
    p.zoneOf .a (readSlot far) = none ∧ p.zoneOf .a (readSlot (reserve 9 0 0)) = some ⟨5, 7, 2, 4, 1, 4⟩ ∧
    (∀ c ∈ full.armA.claims, c.inForce = true) ∧
    (∀ c ∈ full.armA.claims, c.inForce = true → c.tag ≠ (readSlot (reserve 9 0 0)).tag) ∧
    ((∃ c ∈ b.armA.claims, c.inForce = false) ∧ (readSlot (reserve 9 0 0)).wait = 0 ∧
      b.conflictCells .a ⟨5, 7, 2, 4, 1, 4⟩ = 166 :: []) := by
  simp only [taking]; decide +kernel

theorem witness_ReserveGrants :
    let p := reading (claimed .explicit (withA serving running)) .a
    taking p (reserve 9 0 1) 1 ∧ p.armA.guard.state ≠ .offline ∧ (readSlot (reserve 9 0 1)).boxOk = true ∧
      claimMode (readSlot (reserve 9 0 1)).mode = some .onLeave ∧
      (∀ c ∈ p.armA.claims, c.inForce = true → c.tag ≠ (readSlot (reserve 9 0 1)).tag) ∧
      p.zoneOf .a (readSlot (reserve 9 0 1)) = some ⟨5, 7, 2, 4, 1, 4⟩ ∧ 1 < 8 ∧ (p.claim .a 1).inForce = false ∧
      (∀ m, m < 1 → (p.claim .a m).inForce = true) ∧ p.conflictCells .a ⟨5, 7, 2, 4, 1, 4⟩ = [] ∧ p.tableLaw := by
  refine ⟨by simp only [taking]; decide +kernel, by decide +kernel, by decide +kernel, by decide +kernel,
    by decide +kernel, by decide +kernel, by decide, by decide +kernel, by decide +kernel, by decide +kernel,
    Part.tableLaw_of_check _ (by decide +kernel)⟩

/-- A RESERVE that waits alone, behind one that it does not cross, and behind one that it crosses. -/
theorem witness_ReserveWaits :
    let p := reading (withA { serving with table := (clearedTable 16 8 8).addAll .b 0 [166] } running) .a
    let w : PendingReserve := ⟨3, 5, .explicit, ⟨5, 7, 2, 3, 1, 2⟩, 12, 1, some 165, 950000, .older, some 1100000⟩
    let q := { p with armB := { p.armB with waiting := some w } }
    let crossed := { q with table := q.table.addAll .a 0 [165] }
    let waits := fun (p : Part) => p.armA.guard.state ≠ .offline ∧ (∃ d ∈ p.armA.claims, d.inForce = false) ∧
      p.zoneOf .a (readSlot (reserve 9 50 0)) = some ⟨5, 7, 2, 4, 1, 4⟩ ∧
      p.conflictCells .a ⟨5, 7, 2, 4, 1, 4⟩ = 166 :: [] ∧ ∀ d ∈ p.armA.claims, d.inForce = true → d.tag ≠ 9
    taking p (reserve 9 50 0) 1 ∧ taking q (reserve 9 50 0) 1 ∧ taking crossed (reserve 9 50 0) 1 ∧
    (readSlot (reserve 9 50 0)).boxOk = true ∧ claimMode (readSlot (reserve 9 50 0)).mode = some .explicit ∧
    (readSlot (reserve 9 50 0)).wait ≠ 0 ∧ waits p ∧ waits q ∧ waits crossed ∧ p.armB.waiting = none ∧
    q.armB.waiting = some w ∧ q.crossing w w = false ∧ crossed.crossing w w = true := by
  simp only [taking]; decide +kernel

/-- RELEASE of no tag in force, of a LEAVING claim, and of GRANTED claims touched and not touched. -/
theorem witness_Release :
    let p := reading (claimed .explicit (withA serving running)) .a
    let leaving := withA p fun r => { r with claims := r.claims.set 0 { p.claim .a 0 with state := .leaving } }
    let inside := withA p (reaching (some ⟨6, 8, 2, 3, 1, 2⟩) ⟨0, 0, 0, 0, 0, 0⟩)
    let data := slotOf 2 0 5 (0, 0, 0) (0, 0, 0) 0 0 0
    (taking p data 2 ∧ taking leaving data 2 ∧ taking inside data 2 ∧ p.armA.waiting = none ∧ p.armB.waiting = none) ∧
    (∀ c ∈ p.armA.claims, c.inForce = true → c.tag ≠ 6) ∧
    ((p.claim .a 0).inForce = true ∧ (p.claim .a 0).tag = (readSlot data).tag ∧
      (∀ m, m < 0 → (p.claim .a m).inForce = true → (p.claim .a m).tag ≠ 5) ∧ (p.claim .a 0).state = .granted) ∧
    (leaving.claim .a 0).state = .leaving ∧ (inside.envelopeTouches .a (inside.claim .a 0) = true) ∧
    p.armA.monitor.known = false ∧ p.tableLaw ∧ leaving.tableLaw ∧ inside.tableLaw := by
  refine ⟨by simp only [taking]; decide +kernel, by decide +kernel, by decide +kernel, by decide +kernel,
    by decide +kernel, by decide +kernel, Part.tableLaw_of_check _ (by decide +kernel),
    Part.tableLaw_of_check _ (by decide +kernel), Part.tableLaw_of_check _ (by decide +kernel)⟩

/-- RELEASE with arm B's RESERVE granted, left with one cell in its way, left alone since a park claim keeps every
cell, and without one; the envelope unknown, or known and beside the claim. -/
theorem witness_ReleaseGrants :
    let p0 := reading (claimed .explicit (withA serving running)) .a
    let p := behind theirs p0
    let still := behind theirs { p0 with table := p0.table.addAll .a parkNumber [165] }
    let kept := behind theirs { p0 with table := p0.table.addAll .a parkNumber (p0.table.cellsOf (some ⟨4, 6, 2, 3, 1, 2⟩)) }
    let beside := withA p (reaching (some ⟨7, 8, 2, 3, 1, 2⟩) ⟨0, 0, 0, 0, 0, 0⟩)
    let data := slotOf 2 0 5 (0, 0, 0) (0, 0, 0) 0 0 0
    let freed := fun (q : Part) =>
      (q.table.cellsOf (some (q.claim .a 0).box)).filter fun d => (q.table.entry d).holders == [0]
    (taking p data 2 ∧ taking still data 2 ∧ taking kept data 2 ∧ taking beside data 2 ∧ taking p0 data 2) ∧
    (p.armA.waiting = none ∧ (p.claim .a 0).state = .granted ∧ (p.claim .a 0).tag = (readSlot data).tag ∧
      (∀ m, m < 0 → (p.claim .a m).inForce = true → (p.claim .a m).tag ≠ 5) ∧ p.armA.monitor.known = false ∧
      (beside.claim .a 0).box.shares ⟨7, 8, 2, 3, 1, 2⟩ = false ∧ beside.armA.monitor.known = true ∧
      p.regranted .b (freed p) [] = some theirs ∧ still.regranted .b (freed still) [] = none ∧ freed still ≠ [] ∧
      freed kept = [] ∧ p0.armB.waiting = none) ∧
    (p.grantable .b 0 ∧ still.grantable .b 0 ∧ kept.grantable .b 0 ∧ beside.grantable .b 0 ∧ p0.grantable .b 0) ∧
    p.tableLaw ∧ still.tableLaw ∧ kept.tableLaw := by
  refine ⟨by simp only [taking]; decide +kernel, by decide +kernel, ⟨?_, ?_, ?_, ?_, Part.grantable_of_none 0 rfl⟩,
    Part.tableLaw_of_check _ (by decide +kernel), Part.tableLaw_of_check _ (by decide +kernel),
    Part.tableLaw_of_check _ (by decide +kernel)⟩ <;>
  exact Part.grantable_of_some (w := theirs) rfl (by decide +kernel)

theorem witness_Readmit :
    let p := reading (withA serving stopped) .a
    taking (reading serving .a) (request 3 0) 3 ∧ taking p (request 3 0) 3 ∧
      taking { p with cellstopPin := true, cellstop := true } (request 3 0) 3 ∧ taking (reading (withA serving running) .a) (request 3 0) 3 ∧
      serving.armA.guard.state = .offline ∧ p.armA.guard.state = .stopped ∧ p.cellstop = false ∧
      ¬ ((withA serving running).armA.guard.state = .offline ∨ (withA serving running).armA.guard.state = .stopped) := by
  simp only [taking]; decide +kernel

/-- RELEASE_PARK of a cell the envelope spares and of one it does not, alone and with arm B waiting for the latter. -/
theorem witness_ReleasePark :
    let p := reading (withA { serving with table := (clearedTable 16 8 8).addAll .a 8 [165, 170] } fun r =>
      reaching (some ⟨10, 11, 2, 3, 1, 2⟩) ⟨0, 0, 0, 0, 0, 0⟩ { running r with parkCount := 2 }) .a
    let q := behind theirs p
    (taking p (request 4 0) 4 ∧ taking q (request 4 0) 4) ∧
    (p.armA.waiting = none ∧ p.armB.waiting = none ∧ p.figures.parkLimit ≠ 255 ∧
      (p.table.owner 165 = some .a ∧ parkNumber ∈ (p.table.entry 165).holders) ∧
      (p.table.owner 170 = some .a ∧ parkNumber ∈ (p.table.entry 170).holders) ∧
      p.armA.guard.state ≠ .offline ∧ p.armA.monitor.known = true ∧
      (⟨10, 11, 2, 3, 1, 2⟩ : CellBox).containsCell 16 8 170 = true ∧
      (⟨10, 11, 2, 3, 1, 2⟩ : CellBox).containsCell 16 8 165 = false ∧ q.regranted .b [165] [] = some theirs) ∧
    (p.grantable .b 0 ∧ q.grantable .b 0) ∧ p.tableLaw ∧ q.tableLaw := by
  exact ⟨by simp only [taking]; decide +kernel, by decide +kernel,
    ⟨Part.grantable_of_none 0 rfl, Part.grantable_of_some (w := theirs) rfl (by decide +kernel)⟩,
    Part.tableLaw_of_check _ (by decide +kernel), Part.tableLaw_of_check _ (by decide +kernel)⟩

/-- STOP_TEST of an arm not RUNNING, one just too slow, and one at the test min speed. -/
theorem witness_StopTest :
    let p := fun (v : Nat) => reading (withA serving fun r =>
      running { r with test := { r.test with seen := figuresAt 0 0 0 990000 .moving v } }) .a
    taking (reading serving .a) (request 5 0) 5 ∧ taking (p 499) (request 5 0) 5 ∧ taking (p 500) (request 5 0) 5 ∧
      serving.armA.guard.state ≠ .running ∧
      ((p 499).armA.guard.state = .running ∧ (p 499).armA.test.seen.speed < (p 499).figures.testMinSpeed) ∧
      ((p 500).armA.guard.state = .running ∧ (p 500).figures.testMinSpeed ≤ (p 500).armA.test.seen.speed ∧
        (p 500).armA.guard.reasons.test = false) := by
  simp only [taking]; decide +kernel

/-- ACK_BREACH without BREACH, with an unknown envelope, and with a clear one: held for BREACH alone or for more. -/
theorem witness_AckBreach :
    let breach := fun (park : Bool) => held { noReasons with breach := true, park := park } .acknowledged
    let e := reaching none ⟨0, 0, 0, 0, 0, 0⟩
    let p := fun (park known : Bool) => reading (withA serving fun r =>
      if known then e (breach park r) else breach park r) .a
    (taking (reading serving .a) (request 6 0) 6 ∧ serving.armA.guard.reasons.breach = false) ∧
    (taking (p false false) (request 6 0) 6 ∧ (p false false).armA.guard.reasons.breach = true ∧
      (p false false).armA.monitor.known = false) ∧
    (taking (p false true) (request 6 0) 6 ∧ (p false true).armA.monitor.known = true ∧
      (p false true).armA.monitor.stale = false ∧
      (p false true).armA.monitor.envelope = some ⟨⟨0, 0, 0, 0, 0, 0⟩, none⟩ ∧
      (∀ c ∈ (p false true).table.cellsOf none, (p false true).table.owner c ≠ some .b) ∧
      (p false true).armA.guard.state = .held ∧
      { (p false true).armA.guard.reasons with breach := false } = noReasons) ∧
    (taking (p true true) (request 6 0) 6 ∧ { (p true true).armA.guard.reasons with breach := false } ≠ noReasons) := by
  simp only [taking]; decide +kernel

theorem witness_ClearWatermarks : taking (reading (withA serving running) .a) (request 7 0) 7 := by
  simp only [taking]; decide +kernel

theorem witness_ByteInHunt :
    (up.steady ∧ up.armA.link.state = .quiet) ∧
    (serving.steady ∧ serving.armA.link.state = .active ∧ serving.armA.link.phase = .hunt ∧
      serving.armA.guard.state = .offline) ∧ ((0 : Byte) ≠ 0xA5 ∧ (0 : Byte) ≠ 0xE7) := by decide +kernel

/-- A partial frame of the given bytes. -/
def receiving (bytes : List Byte) (fifo : List Frame) (r : ArmPart) : ArmPart := { r with
  link := { r.link with phase := .frame, received := bytes, gapTimer := some 1000000, fifo := fifo } }

/-- Bytes 2 (right and wrong), 12, and 13 with right and wrong CRC and with a full FIFO; the byte-gap timer. -/
theorem witness_ByteInFrame :
    let body : List Byte := [0xA5, 0x31, 9, 0, 0, 0, 0, 0, 0, 0, 0, 0]
    let p := fun (bytes : List Byte) (n : Nat) =>
      withA serving (receiving bytes (List.replicate n ⟨1, 0, ⟨0, 0, 0⟩, 0, 990000⟩))
    (∀ n ∈ [1, 2, 11, 12], (p (body.take n) 0).steady ∧ (p (body.take n) 0).armA.link.state = .active ∧
      (p (body.take n) 0).armA.link.phase = .frame ∧ 1 ≤ (p (body.take n) 0).armA.link.received.length) ∧
    ((p (body.take 1) 0).armA.link.received.length = 1 ∧ (0x32 : Byte) ≠ 0x31) ∧
    (p (body.take 11) 0).armA.link.received.length < 12 ∧
    ((p body 7).armA.link.received.length = 12 ∧ (p body 7).armA.link.fifo.length < 8 ∧
      crc8 (((body ++ [crc8 (body.drop 1)]).drop 1).take 11) = crc8 (body.drop 1)) ∧
    ((p body 8).steady ∧ 8 ≤ (p body 8).armA.link.fifo.length ∧
      crc8 (((body ++ [0]).drop 1).take 11) ≠ crc8 (body.drop 1) + 1) ∧
    timerDue (1000000 : Word) (p body 0).armA.link.gapTimer = true ∧
    timerDue (999999 : Word) (p body 0).armA.link.gapTimer = false ∧ serving.armA.link.phase = .hunt := by decide +kernel

theorem witness_Transmitter :
    (let p := withA serving fun r => { r with
      link := { r.link with stopPlace := some .hold, speedPlace := some .uncap } }
     p.steady ∧ p.armA.link.state = .active ∧ p.armA.link.stopPlace = some .hold) ∧
    (let p := withA serving fun r => { r with link := { r.link with speedPlace := some .uncap } }
     p.steady ∧ p.armA.link.stopPlace = none ∧ p.armA.link.speedPlace = some .uncap) ∧
    (serving.armA.link.stopPlace = none ∧ serving.armA.link.speedPlace = none ∧ serving.armA.link.onLine = none) ∧
    (up.steady ∧ up.armA.link.state = .quiet) ∧
    ({ serving.armA.link with onLine := some (.stop .hold) } : Link).onLine.isSome = true := by decide +kernel

theorem witness_HoldRepeats :
    let p := withA serving (held hostHold .acknowledged)
    let q := withA serving fun r => { held hostHold .acknowledged r with
      link := { (held hostHold .acknowledged r).link with stopPlace := some .hold } }
    (p.steady ∧ p.armA.guard.state = .held ∧ timerDue p.now p.armA.link.repeatTimer = true ∧
      p.armA.link.stopPlace = none) ∧
    (q.steady ∧ q.armA.link.stopPlace.isSome = true) ∧ timerDue (999999 : Word) p.armA.link.repeatTimer = false ∧
    (serving.steady ∧ serving.armA.guard.state ≠ .held) := by decide +kernel

/-- A repeated frame, and frames in each case of R15. -/
theorem witness_MonitorTakes :
    let f : Frame := ⟨15, 1, ⟨460, 0, 200⟩, 800, 1000000⟩
    let p := fun (previous : Bool) (seq : Byte) => withA serving fun r => { r with
      monitor := { r.monitor with previous := previous, seq := seq, known := true }
      link := { r.link with fifo := [f] } }
    let owes := withA serving fun r => { r with monitor := { r.monitor with evaluationOwed := true } }
    let measures := withA serving fun r => { r with figures := [figuresAt 0 0 0 1000000 .moving 9] }
    (serving.steady ∧ serving.armA.link.fifo = []) ∧ (up.steady ∧ up.guarding = false) ∧
    (owes.steady ∧ owes.armA.monitor.evaluationOwed = true) ∧ (measures.steady ∧ measures.armA.figures ≠ []) ∧
    (∀ c ∈ [(false, 0#8), (true, 11#8), (true, 14#8), (true, 15#8)],
      (p c.1 c.2).steady ∧ (p c.1 c.2).guarding = true ∧ (p c.1 c.2).armA.monitor.evaluationOwed = false ∧
      (p c.1 c.2).armA.figures = [] ∧ (p c.1 c.2).armA.link.fifo = f :: []) ∧
    f.seq = (p true 15).armA.monitor.seq ∧ f.seq ≠ (p true 11).armA.monitor.seq := by decide +kernel

/-- A frame of arm A in processing whose stale time, or stale and loss time, is just past. -/
def spent (loss : Bool) : Part := withA serving fun r => running { r with
  notices := [⟨.moving, 9, 1, 990000⟩]
  monitor := { r.monitor with
    staleTimer := some 1000000, lossTimer := some (if loss then 1000000 else 1000001), evaluationOwed := true } }

theorem witness_StaleExpiry :
    let due := fun (f : ArmPart → ArmPart) => withA serving fun r =>
      f { r with monitor := { r.monitor with staleTimer := some 1000000 } }
    let ok := fun (p : Part) => p.steady ∧ p.carries ∧ p.guarding = true ∧
      p.armA.monitor.evaluationOwed = false ∧ timerDue p.now p.armA.monitor.staleTimer = true ∧
      p.armA.guard.reasons.stale = false
    (let p := spent false
     p.steady ∧ p.carries ∧ p.guarding = true ∧ p.armA.notices = [⟨.moving, 9, 1, 990000⟩] ∧
       p.armA.guard.state = .running ∧ p.armA.guard.reasons.stale = false ∧ p.armA.monitor.evaluationOwed = true ∧
       timerDue p.now p.armA.monitor.staleTimer = true ∧ timerDue p.now p.armA.monitor.lossTimer = false ∧
       p.armB.monitor.known = false) ∧
    (up.steady ∧ up.carries ∧ up.guarding = false ∧ timerDue up.now up.armA.monitor.staleTimer = false) ∧
    ok (due running) ∧ ok (due (held hostHold .acknowledged)) ∧ ok (due admitting) ∧ ok (due stopped) ∧
    ok (due id) := by decide +kernel

theorem witness_Escalations :
    let due := fun (f : ArmPart → ArmPart) => withA serving fun r =>
      f { r with monitor := { r.monitor with lossTimer := some 1000000 } }
    let ok := fun (p : Part) => p.steady ∧ p.carries ∧ p.guarding = true ∧
      p.armA.monitor.evaluationOwed = false ∧ timerDue p.now p.armA.monitor.lossTimer = true
    let tested := fun (p : Part) => p.engine = .serving ∧ p.armA.guard.state.inService = true ∧
      p.armA.test.phase = .braking ∧ p.armA.test.slot = some 61 ∧ p.armA.chain.openSlot = some 61
    let enters := fun (p : Part) => p.engine = .serving ∧ p.armA.guard.state = .admitting ∧
      p.armA.guard.prior = some .offline ∧ p.armA.guard.admissionSlot = some 0 ∧ p.armA.chain.openSlot = some 0 ∧
      p.armA.link.state = .active ∧ p.armA.link.phase = .hunt
    (ok (due braking) ∧ tested (due braking) ∧ (due braking).armA.guard.phase = .awaiting ∧
      timerDue (due braking).now (due braking).armA.guard.ackTimer = true ∧
      (due braking).armA.link.state = .active ∧ (due braking).armA.link.phase = .hunt) ∧
    (ok (due admitting) ∧ enters (due admitting)) ∧
    (let p := spent true
     p.steady ∧ p.carries ∧ p.guarding = true ∧ p.armA.notices = [⟨.moving, 9, 1, 990000⟩] ∧
       p.armA.guard.state = .running ∧ p.armA.guard.reasons.stale = false ∧ p.armA.test.phase = .idle ∧
       p.armA.monitor.evaluationOwed = true ∧ timerDue p.now p.armA.monitor.staleTimer = true ∧
       timerDue p.now p.armA.monitor.lossTimer = true) ∧
    let h := withA serving (held hostHold .awaiting)
    (up.steady ∧ up.carries ∧ up.guarding = false ∧ up.armA.guard.state ≠ .held) ∧
    (ok (due id) ∧ (due id).armA.guard.state = .offline) ∧ (ok (due stopped)) ∧
    (ok (due running) ∧ (due running).armA.guard.state.inService = true ∧ (due running).armA.test.phase = .idle) ∧
    (h.steady ∧ h.carries ∧ h.guarding = true ∧ h.armA.guard.state = .held ∧ h.armA.guard.phase = .awaiting ∧
      timerDue h.now h.armA.guard.ackTimer = true ∧ h.armA.test.phase = .idle) ∧
    timerDue (999999 : Word) h.armA.guard.ackTimer = false ∧
    ((due running).armA.link.state = .active ∧ (due running).armA.link.phase = .hunt) := by decide +kernel

/-- Clearances of 150 (the uncap gap), 149, 60 (the cap gap) and 59. -/
theorem witness_Clearance :
    let a : Envelope := ⟨⟨0, 100, 0, 0, 0, 0⟩, none⟩
    let b := fun (gap : Int) => (⟨⟨100 + gap, 500, 0, 0, 0, 0⟩, none⟩ : Envelope)
    let p := fun (gap : Int) =>
      let q := withA serving fun r =>
        let r := reaching none a.box (running { r with notices := [⟨.moving, 10, 1, 1000000⟩] })
        { r with monitor := { r.monitor with evaluationOwed := true } }
      { q with armB := reaching none (b gap).box q.armB }
    ∀ gap ∈ [150, 149, 60, 59],
      (p gap).steady ∧ (p gap).carries ∧ (p gap).guarding = true ∧ (p gap).armA.notices = [⟨.moving, 10, 1, 1000000⟩] ∧
      (p gap).armA.guard.state = .running ∧ (p gap).armA.guard.reasons.stale = false ∧
      (p gap).armA.monitor.evaluationOwed = true ∧ (p gap).armA.monitor.known = true ∧
      timerDue (p gap).now (p gap).armA.monitor.staleTimer = false ∧
      timerDue (p gap).now (p gap).armA.monitor.lossTimer = false ∧
      (p gap).armA.monitor.envelope = some a ∧ (p gap).armB.monitor.known = true ∧
      (p gap).armB.monitor.envelope = some (b gap) ∧ (p gap).figures.capGap < (p gap).figures.uncapGap ∧
      clearance a.box (b gap).box = gap.toNat ∧ (p gap).armA.monitor.capped = false := by decide +kernel

theorem witness_Reports :
    let p := fun (f : ArmPart → ArmPart) => withA serving fun r =>
      f { r with reports := [⟨some ⟨4, 6, 2, 3, 1, 2⟩, 1, 1000000, false⟩] }
    (serving.steady ∧ serving.armA.reports = []) ∧
    ((p id).steady ∧ (p id).armA.reports = ⟨some ⟨4, 6, 2, 3, 1, 2⟩, 1, 1000000, false⟩ :: [] ∧
      (p id).armA.guard.state = .offline) ∧
    ((p admitting).steady ∧ (p admitting).guarding = true ∧ (p admitting).armA.guard.state = .admitting) ∧
    ((p running).steady ∧ (p running).carries ∧ (p running).guarding = true ∧
      (p running).armA.guard.state = .running ∧ (∀ c ∈ (p running).armA.claims, c.inForce = false) ∧
      (p running).armA.waiting = none ∧ (p running).figures.parkLimit ≠ 255) ∧
    ((p (held hostHold .acknowledged)).steady ∧ (p (held hostHold .acknowledged)).armA.guard.state = .held ∧
      (p stopped).steady ∧ (p stopped).armA.guard.state = .stopped) ∧ (p running).tableLaw :=
  ⟨by decide +kernel, by decide +kernel, by decide +kernel, by decide +kernel, by decide +kernel,
    Part.tableLaw_of_check _ (by decide +kernel)⟩

/-- A RUNNING arm whose report joins 12 cells, at the park limit and one above it, and one that touches a foreign
cell, with the limit off. -/
theorem witness_ReportStartsAHold :
    let p := fun (limit : Nat) (theirs : List Nat) => withA { serving with
        setup := serving.setup.map fun f => { f with parkLimit := limit }
        table := serving.table.addAll .b parkNumber theirs } fun r =>
      running { r with reports := [⟨some ⟨4, 6, 2, 3, 1, 2⟩, 1, 1000000, false⟩] }
    let cells := serving.table.cellsOf (some ⟨4, 6, 2, 3, 1, 2⟩)
    let ok := fun (q : Part) => q.steady ∧ q.carries ∧ q.guarding = true ∧ q.armA.guard.state = .running ∧
      q.armA.guard.reasons = noReasons ∧ (∀ c ∈ q.armA.claims, c.inForce = false) ∧ q.armA.waiting = none
    (ok (p 11 []) ∧ ok (p 12 []) ∧ ok (p 255 (cells.take 1)) ∧ cells.length = 12 ∧
      (cells.any fun c => (p 255 (cells.take 1)).table.owner c == some .b) = true) ∧
      (p 11 []).tableLaw ∧ (p 255 (cells.take 1)).tableLaw :=
  ⟨by decide +kernel, Part.tableLaw_of_check _ (by decide +kernel), Part.tableLaw_of_check _ (by decide +kernel)⟩

/-- A report that joins cells while two RESERVEs wait, which cross then, or do not since arm B has no cell in both
zones; and one of an arm with a claim in force that it touches. -/
theorem witness_ReportCrosses :
    let mine : PendingReserve := { theirs with slot := 4, age := .younger }
    let p := fun (cells : List Nat) => behind theirs (withA { serving with
        table := serving.table.addAll .b parkNumber cells } fun r =>
      { running r with
        reports := [⟨some ⟨4, 6, 2, 3, 1, 2⟩, 1, 1000000, false⟩], waiting := some mine
        chain := { r.chain with cursor := some 4, openSlot := some 4 } })
    let c := withA (claimed .onLeave (withA serving running)) fun r =>
      { r with reports := [⟨some ⟨4, 6, 2, 3, 1, 2⟩, 1, 1000000, true⟩] }
    (∀ cells ∈ [[165], []], (p cells).steady ∧ (p cells).carries ∧ (p cells).guarding = true ∧
      (p cells).armA.guard.state = .running ∧
      (∀ m, m < 8 → ((p cells).claim .a m).inForce = false) ∧ (p cells).engine = .serving ∧
      mine.age ≠ theirs.age ∧ (p cells).armA.chain.openSlot = some mine.slot ∧
      (p cells).armB.chain.openSlot = some theirs.slot ∧
      (after (.envelopeReport .a) (p cells)).armA.waiting = if cells = [] then some mine else none) ∧
    (c.steady ∧ c.carries ∧ c.guarding = true ∧ c.armA.guard.state = .running ∧ (c.claim .a 0).inForce = true ∧
      ∀ m, m < 8 → ¬ (c.claim .a m).leaves ⟨some ⟨4, 6, 2, 3, 1, 2⟩, 1, 1000000, true⟩ c.figures.leaveCount) ∧
    (p [165]).tableLaw ∧ c.tableLaw :=
  ⟨by decide +kernel, by decide +kernel, Part.tableLaw_of_check _ (by decide +kernel),
    Part.tableLaw_of_check _ (by decide +kernel)⟩

/-- Leave evaluation: a touched claim, one that does not count, one below the leave count and one that reaches it, on
RUNNING, HELD and STOPPED, at the park limit and above it, and with a RESERVE of each arm that waits: arm B's is granted
and arm A's stays, as the younger and as the older. -/
theorem witness_Leave :
    let p := fun (mode : ClaimMode) (entered : Bool) (outside : Nat) (cells : Option CellBox) =>
      let q := claimed mode (withA serving running)
      withA q fun r => { r with
        claims := r.claims.set 0 { q.claim .a 0 with entered := entered, outside := outside }
        reports := [⟨cells, 1, 1000000, false⟩] }
    let last := p .onLeave true 1 none
    let kept := fun (age : Age) => withA (behind { theirs with age := if age = .older then .younger else .older }
        { last with table := last.table.addAll .b parkNumber [10] }) fun r =>
      { r with waiting := some { theirs with slot := 4, box := ⟨8, 10, 0, 0, 0, 0⟩, age := age } }
    let hyps := fun (q : Part) => q.steady ∧ q.carries ∧ q.guarding = true ∧
      (q.armA.reports.map fun r => (q.table.cellsOf r.cells).all fun d => q.table.owner d == some .a) = [true] ∧
      (q.armA.guard.reasons.park = true ↔ q.figures.parkLimit < q.armA.parkCount) ∧
      (q.claim .a 0).inForce = true ∧ ∀ m, m < 8 → m ≠ 0 → (q.claim .a m).inForce = false
    (hyps (p .onLeave false 1 (some ⟨4, 5, 2, 3, 1, 2⟩)) ∧ hyps (p .explicit true 1 none) ∧
      hyps (p .onLeave true 0 none) ∧ hyps last ∧ last.figures.leaveCount = 2 ∧ last.figures.parkLimit = 12 ∧
      hyps (withA last (held { noReasons with host := true } .acknowledged)) ∧
      hyps (withA last fun r => { stopped r with guard := { (stopped r).guard with stopAsserted := true } }) ∧
      hyps (withA last fun r => { held { noReasons with park := true } .acknowledged r with parkCount := 13 }) ∧
      ∀ m, m < 8 → m ≠ 0 → ¬ (last.claim .a m).leaves ⟨none, 1, 1000000, false⟩ 2) ∧
    (last.claim .a 0).leaves ⟨none, 1, 1000000, false⟩ 2 ∧
    (∀ age ∈ [Age.older, Age.younger], hyps (kept age) ∧
      (∀ w ∈ (kept age).armA.waiting.toList, (kept age).conflictCells .a w.box ≠ []) ∧
      (after (.envelopeReport .a) (kept age)).armB.waiting = none ∧
      (after (.envelopeReport .a) (kept age)).armA.waiting.isSome = true) ∧
    (last.grantable .b 0 ∧ (kept .older).grantable .b 0) ∧
    (p .onLeave false 1 (some ⟨4, 5, 2, 3, 1, 2⟩)).tableLaw ∧ last.tableLaw ∧ (kept .younger).tableLaw :=
  ⟨by decide +kernel, by decide +kernel, by decide +kernel,
    ⟨Part.grantable_of_none 0 rfl, Part.grantable_of_some (w := { theirs with age := .younger }) rfl (by decide +kernel)⟩,
    Part.tableLaw_of_check _ (by decide +kernel), Part.tableLaw_of_check _ (by decide +kernel),
    Part.tableLaw_of_check _ (by decide +kernel)⟩

/-- A notice for every clause, without and with a clearance evaluation to follow: dropped, RUNNING, acknowledging,
disobeying at 21 mm/s, FAULT, with a test to abort, resuming at 20 mm/s, and OFFLINE or STOPPED with and without
STALE. -/
theorem witness_FrameNotice : ∀ owed : Bool,
    let p := fun (base : Part) (d : DriveState) (v : Nat) (f : ArmPart → ArmPart) =>
      withA base fun r => { f r with
        notices := [⟨d, v, 1, 1000000⟩], monitor := { (f r).monitor with evaluationOwed := owed } }
    let ok := fun (q : Part) => q.steady ∧ q.guarding = true ∧ q.armA.monitor.evaluationOwed = owed ∧ q.carries ∧
      timerDue q.now q.armA.monitor.staleTimer = false ∧ timerDue q.now q.armA.monitor.lossTimer = false
    let ack := p serving .holding 300 (held hostHold .awaiting)
    let dis := p serving .moving 21 (held hostHold .acknowledged)
    let fault := p serving .fault 0 running
    let resume := p serving .moving 20 (held stale .acknowledged)
    let off := p serving .moving 0 fun r => { stopped r with guard := { (stopped r).guard with reasons := stale } }
    (serving.steady ∧ serving.armA.notices = []) ∧ ((p up .moving 0 id).steady ∧ (p up .moving 0 id).guarding = false) ∧
    (ok (p serving .moving 9 running) ∧ (p serving .moving 9 running).armA.guard.state = .running ∧
      (p serving .moving 9 running).armA.guard.reasons.stale = false) ∧
    (ok ack ∧ ack.armA.guard.state = .held ∧ ack.armA.guard.reasons.stale = false ∧ ack.armA.guard.phase = .awaiting) ∧
    (ok dis ∧ dis.armA.guard.phase = .acknowledged ∧ dis.figures.stillSpeed < 21 ∧ dis.armA.test.phase = .idle) ∧
    (ok fault ∧ fault.armA.guard.state.inService = true ∧ fault.armA.test.phase = .idle) ∧
    (let q := p serving .fault 0 admitting
     ok q ∧ q.engine = .serving ∧ q.armA.guard.state = .admitting ∧ q.armA.guard.reasons.stale = false ∧
       q.armA.guard.prior = some .offline ∧ q.armA.guard.admissionSlot = some 0 ∧ q.armA.chain.openSlot = some 0) ∧
    (let q := p serving .fault 0 braking
     ok q ∧ q.engine = .serving ∧ q.armA.guard.state.inService = true ∧ q.armA.test.phase = .braking ∧
       q.armA.test.slot = some 61 ∧ q.armA.chain.openSlot = some 61) ∧
    (ok resume ∧ resume.armA.guard.state = .held ∧ resume.armA.guard.reasons = { noReasons with stale := true } ∧
      ¬ resume.figures.stillSpeed < 20) ∧
    (let q := p serving .holding 0 (held { stale with host := true } .awaiting)
     ok q ∧ q.armA.guard.state = .held ∧ q.armA.guard.reasons.stale = true ∧
       q.armA.guard.reasons ≠ { noReasons with stale := true }) ∧
    (ok (p serving .moving 0 id) ∧ (p serving .moving 0 id).armA.guard.state = .offline) ∧
    (ok off ∧ off.armA.guard.state = .stopped ∧ off.armA.guard.reasons.stale = true) := by decide +kernel

/-- Admission halves: an answer dropped, alone and with its partner behind an earlier half, and a notice likewise. -/
theorem witness_AdmissionHalves :
    let n : Notice := ⟨.standstill, 0, 9, 1000000⟩
    let m : Notice := ⟨.moving, 0, 8, 996000⟩
    let a : Answer := ⟨false, none, 9, 1000000⟩
    let p := fun (halves : List AdmissionHalf) (answers : List Answer) (notices : List Notice) =>
      withA serving fun r => { admitting r with
        guard := { (admitting r).guard with unpaired := halves }, answers := answers, notices := notices }
    let q := withA serving fun r => { r with answers := [a] }
    (serving.steady ∧ serving.armA.answers = []) ∧
    (q.steady ∧ q.armA.answers = a :: [] ∧ q.armA.guard.state ≠ .admitting) ∧
    ((p [] [a] []).steady ∧ (p [] [a] []).guarding = true ∧ (p [] [a] []).armA.guard.state = .admitting ∧
      (p [] [a] []).armA.guard.unpaired = []) ∧
    ((p [.notice m, .notice n] [a] []).steady ∧
      (p [.notice m, .notice n] [a] []).armA.guard.unpaired = [.notice m] ++ .notice n :: [] ∧
      n.seq = a.seq ∧ n.time = a.time ∧ n.drive ≠ .fault ∧ m.seq ≠ a.seq ∧
      (p [] [a] []).armA.guard.count + 1 < (p [] [a] []).figures.admitCount) ∧
    ((p [] [] [n]).steady ∧ (p [] [] [n]).carries ∧ (p [] [] [n]).armA.notices = n :: [] ∧
      (p [] [] [n]).armA.guard.reasons.stale = false ∧ (p [] [] [n]).armA.monitor.evaluationOwed = false) ∧
    (∀ owed old : Bool,
      let r := withA (p [.answer a] [] [n]) fun r => { r with
        monitor := { r.monitor with evaluationOwed := owed }
        guard := { r.guard with reasons := { noReasons with stale := old } } }
      r.steady ∧ r.carries ∧ r.guarding = true ∧ r.armA.guard.state = .admitting ∧
        r.armA.guard.unpaired = [] ++ .answer a :: [] ∧ r.armA.guard.count + 1 < r.figures.admitCount ∧
        timerDue r.now r.armA.monitor.staleTimer = false ∧ timerDue r.now r.armA.monitor.lossTimer = false) := by
  decide +kernel

theorem witness_AdmissionSuccess :
    let n : Notice := ⟨.standstill, 0, 9, 1000000⟩
    let a : Answer := ⟨false, some ⟨15, 15, 7, 7, 7, 7⟩, 9, 1000000⟩
    let p := withA serving fun r => { admitting r with
      guard := { (admitting r).guard with count := 2, unpaired := [.notice n] }, answers := [a] }
    (p.steady ∧ p.engine = .serving ∧ p.carries ∧ p.guardLaw .a ∧ p.armA.guard.state = .admitting ∧
      p.armA.guard.admissionSlot = some 0 ∧ p.armA.chain.openSlot = some 0 ∧ p.armA.answers.head? = some a ∧
      p.armA.guard.unpaired = .notice n :: [] ∧ n.seq = a.seq ∧ n.time = a.time ∧ n.drive = .standstill ∧
      a.foreign = false ∧ p.figures.admitCount ≤ p.armA.guard.count + 1 ∧ p.armA.waiting = none ∧
      p.armB.waiting = none ∧ 15 < p.table.nx ∧ 7 < p.table.ny) ∧
    (let q := withA p fun r => { r with
      answers := [], notices := [n], guard := { r.guard with unpaired := [.answer a] }
      monitor := { r.monitor with evaluationOwed := true } }
     q.steady ∧ q.engine = .serving ∧ q.carries ∧ q.guardLaw .a ∧ q.armA.notices = [n] ∧
      q.armA.guard.unpaired = .answer a :: [] ∧ q.armB.monitor.known = false ∧
      timerDue q.now q.armA.monitor.staleTimer = false ∧ timerDue q.now q.armA.monitor.lossTimer = false) ∧
    (let w := behind theirs { p with table := p.table.addAll .a parkNumber [165] }
     (w.steady ∧ w.carries ∧ w.guardLaw .a ∧ w.regranted .b [165] [] = some theirs ∧
       (after (.admissionAnswer .a) w).armB.waiting = none) ∧ w.grantable .b 0 ∧ w.tableLaw) ∧
    p.grantable .b 0 ∧ p.tableLaw :=
  ⟨by decide +kernel, by decide +kernel,
    ⟨by decide +kernel, Part.grantable_of_some (w := theirs) rfl (by decide +kernel),
      Part.tableLaw_of_check _ (by decide +kernel)⟩,
    Part.grantable_of_none 0 rfl, Part.tableLaw_of_check _ (by decide +kernel)⟩

theorem witness_Windows :
    let p := withA serving admitting
    let w : PendingReserve := ⟨3, 5, .explicit, ⟨2, 7, 2, 3, 1, 2⟩, 24, 8, some 162, 950000, .older, some 1000000⟩
    let q := withA serving fun r => { r with
      waiting := some w, chain := { r.chain with cursor := some 3, openSlot := some 3 } }
    (serving.steady ∧ serving.armA.guard.state ≠ .admitting ∧ serving.armA.waiting = none) ∧
    timerDue (999999 : Word) p.armA.guard.windowTimer = false ∧
    (p.steady ∧ p.engine = .serving ∧ p.carries ∧ p.armA.guard.state = .admitting ∧
      timerDue p.now p.armA.guard.windowTimer = true ∧ p.armA.guard.prior = some .offline ∧
      p.armA.guard.admissionSlot = some 0 ∧ p.armA.chain.openSlot = some 0) ∧
    timerDue (999999 : Word) w.timer = false ∧
    (q.steady ∧ q.engine = .serving ∧ q.carries ∧ q.armA.waiting = some w ∧ timerDue q.now w.timer = true ∧
      q.armA.chain.openSlot = some w.slot) := by decide +kernel

theorem witness_Cellstop :
    let pin := fun (level : Bool) (t : Word) (p : Part) => { p with cellstopPin := level, cellstopFilter := some t }
    let p := pin true 1000000 { withA serving running with armB := admitting serving.armB }
    let seen := { up with cellstopPin := true, cellstop := true }
    (up.steady ∧ up.cellstop = false ∧ up.cellstop ≠ true ∧ up.cellstopPin ≠ true) ∧
    (seen.steady ∧ seen.cellstop = true ∧ seen.cellstop ≠ false ∧ seen.cellstopPin ≠ false) ∧
    (let q := pin true 1000001 up
     q.steady ∧ q.cellstop ≠ true ∧ q.cellstopPin = true ∧ timerDue q.now q.cellstopFilter = false) ∧
    (let q := pin false 1000000 seen
     q.steady ∧ q.cellstop = true ∧ q.cellstopPin = false ∧ timerDue q.now q.cellstopFilter = true) ∧
    (let q := pin true 1000000 up
     q.steady ∧ q.cellstop = false ∧ q.cellstopPin = true ∧ timerDue q.now q.cellstopFilter = true ∧
       q.guarding = false) ∧
    (p.steady ∧ p.cellstop = false ∧ p.cellstopPin = true ∧ timerDue p.now p.cellstopFilter = true ∧
      p.guarding = true ∧ p.carries ∧ p.armA.test.phase = .idle ∧ p.armB.test.phase = .idle ∧
      p.armA.guard.state.inService = true ∧ p.armB.guard.state = .admitting ∧
      p.armB.guard.prior = some .offline) ∧ serving.armA.guard.state = .offline ∧
    (let q := withA p braking
     q.steady ∧ q.engine = .serving ∧ q.carries ∧ q.armA.test.phase = .braking ∧
      q.armA.guard.state.inService = true ∧ q.armA.test.slot = some 61 ∧ q.armA.chain.openSlot = some 61 ∧
      q.armB.guard.prior = some .offline ∧ q.armB.guard.admissionSlot = some 0 ∧
      q.armB.chain.openSlot = some 0 ∧ q.armB.test.phase = .idle) := by decide +kernel

/-- Figures for every clause of a running test, at the still speed of 20 mm/s and above it, and the three ends. -/
theorem witness_StopTestFigures :
    let p := fun (slow : Nat) (f : Figures) (v0 : Nat) => withA serving fun r => { braking r with
      test := { (braking r).test with slow := slow, v0 := v0 }, figures := [f] }
    let ok := fun (q : Part) => q.steady ∧ q.guarding = true ∧ q.engine = .serving ∧ q.carries ∧
      q.armA.test.phase = .braking ∧ q.armA.test.slot = some 61 ∧ q.armA.chain.openSlot = some 61 ∧
      q.armA.guard.state = .held ∧ q.armA.guard.reasons.test = true
    let idle := withA serving fun r => { r with figures := [figuresAt 0 0 0 1000000 .moving 9] }
    (serving.steady ∧ serving.armA.figures = []) ∧
    (idle.steady ∧ idle.guarding = true ∧ idle.armA.test.phase = .idle) ∧
    ok (p 0 (figuresAt 500 0 200 1000000 .holding 21) 1200) ∧ ok (p 0 (figuresAt 500 0 200 1000000 .holding 20) 1200) ∧
    (ok (p 1 (figuresAt 540 30 190 1102000 .holding 20) 1200) ∧
      (p 1 (figuresAt 540 30 190 1102000 .holding 20) 1200).armA.guard.reasons = { noReasons with test := true }) ∧
    (ok (p 0 (figuresAt 880 0 200 1102000 .standstill 0) 600) ∧
      600 * (serving.figures.arm .a).reaction / 1000 < distance ⟨500, 0, 200⟩ ⟨880, 0, 200⟩ ∧
      600 * 600 / (2 * (distance ⟨500, 0, 200⟩ ⟨880, 0, 200⟩ - 7)) < 500) ∧
    timerDue serving.now (p 0 (figuresAt 0 0 0 0 .moving 0) 1).armA.test.timer = true ∧
    timerDue (999999 : Word) (p 0 (figuresAt 0 0 0 0 .moving 0) 1).armA.test.timer = false := by decide +kernel

theorem witness_MarginUnit :
    0 < (20000 : Nat) ∧ 0 < serving.figures.edge ∧ 0 < serving.figures.nx ∧ 0 < serving.figures.ny ∧
      0 < serving.figures.nz ∧ (282 : Int) ≤ 542 ∧ cellBoxOf serving.figures ⟨282, 542, -165, 95, 80, 340⟩ ≠ none ∧
      cellBoxOf serving.figures ⟨240, 350, -300, -201, 80, 340⟩ = none ∧ up.armA.monitor.known = false := by
  decide +kernel

/-- The laws at reset and in a part that serves, with a claim in force. -/
theorem witness_Laws :
    let p := claimed .explicit (withA serving running)
    (∀ x ∈ [Arm.a, .b], (p.guardLaw x ∧ p.testLaw x ∧ p.linkLaw x ∧ p.stopLineLaw x) ∧
      (resetPart.guardLaw x ∧ resetPart.testLaw x ∧ resetPart.linkLaw x ∧ resetPart.stopLineLaw x) ∧
      p.parkLaw x ∧ resetPart.parkLaw x) ∧
    (p.engineLaw ∧ p.chainLaw ∧ p.decelerationLaw ∧ p.registerLaw ∧ p.inputLaw ∧ Memory.wf p.hostMem = true ∧ p.settledLaw) ∧
    p.tableLaw ∧ resetPart.tableLaw :=
  ⟨by decide +kernel, by decide +kernel, Part.tableLaw_of_check _ (by decide +kernel),
    Part.tableLaw_of_check _ (by decide +kernel)⟩

end Sys2Proof.Tests
end

/-! SUPPORT. The margin unit's arithmetic: rounding up, the root and the distance (R6, R13, R14). -/

namespace Sys2Proof.Machine

/-! ## Quotients rounded up (R6, R14) -/

/-- The rounded-up quotient is the least integer at or above the exact one. -/
theorem ceilDiv_le_iff {b : Nat} (hb : 0 < b) (a n : Nat) : ceilDiv a b ≤ n ↔ a ≤ b * n := by
  calc ceilDiv a b ≤ n ↔ (a + (b - 1)) / b < n + 1 := Nat.lt_succ_iff.symm
    _ ↔ a + (b - 1) < (n + 1) * b := Nat.div_lt_iff_lt_mul hb
    _ ↔ a ≤ b * n := by rw [Nat.succ_mul, Nat.mul_comm n b]; omega

theorem elapsed_pos (t0 t1 : Word) : 0 < elapsed t0 t1 :=
  Nat.lt_of_lt_of_le (by decide) (Nat.le_max_left _ _)

/-! ## The root (R13) -/

/-- Trying the bits keeps r² ≤ s < (r + 2ⁿ)², n the bits still to try, and so ends at the root rounded down. -/
theorem rootBits_spec (s : Nat) : ∀ n r : Nat, r * r ≤ s → s < (r + 2 ^ n) * (r + 2 ^ n) →
    rootBits s n r * rootBits s n r ≤ s ∧ s < (rootBits s n r + 1) * (rootBits s n r + 1)
  | 0, _, hlo, hhi => ⟨hlo, hhi⟩
  | n + 1, r, hlo, hhi => by
    have hsum : r + 2 ^ n + 2 ^ n = r + 2 ^ (n + 1) := by rw [Nat.pow_succ]; omega
    rw [rootBits]
    split
    · next hbit => exact rootBits_spec s n _ hbit (by rwa [hsum])
    · next hbit => exact rootBits_spec s n r hlo (Nat.lt_of_not_le hbit)

theorem ceilRoot_le_iff {s : Nat} (hs : s < 2 ^ 36) (d : Nat) : ceilRoot s ≤ d ↔ s ≤ d * d := by
  obtain ⟨hlo, hhi⟩ := rootBits_spec s 18 0 (Nat.zero_le s) (by omega)
  unfold ceilRoot
  generalize rootBits s 18 0 = r at hlo hhi ⊢
  dsimp only
  split
  · next hexact =>
    rw [Nat.le_antisymm hexact hlo]
    exact Nat.mul_self_le_mul_self_iff.symm
  · next hinexact =>
    constructor
    · intro hrd
      exact Nat.le_trans (Nat.le_of_lt hhi) (Nat.mul_self_le_mul_self hrd)
    · intro hsd
      refine Nat.lt_of_not_le fun hdr => hinexact ?_
      exact Nat.le_trans hsd (Nat.mul_self_le_mul_self hdr)

/-! ## The distance of two positions (R13) -/

/-- The sum of the squared coordinate differences. -/
def squaredDistance (a b : Pos) : Int :=
  (b.x.toInt - a.x.toInt) * (b.x.toInt - a.x.toInt) + (b.y.toInt - a.y.toInt) * (b.y.toInt - a.y.toInt) +
    (b.z.toInt - a.z.toInt) * (b.z.toInt - a.z.toInt)

theorem distance_eq (a b : Pos) : distance a b = ceilRoot (squaredDistance a b).toNat := rfl

/-- A difference of two signed 16-bit coordinates lies in −65535..65535. -/
theorem coordDiff_sq_le (u v : Half) : (v.toInt - u.toInt) * (v.toInt - u.toInt) ≤ 65535 * 65535 := by
  have hu := u.le_toInt
  have hu' := u.toInt_lt
  have hv := v.le_toInt
  have hv' := v.toInt_lt
  have hsq : (v.toInt - u.toInt).natAbs * (v.toInt - u.toInt).natAbs ≤ 65535 * 65535 :=
    Nat.mul_self_le_mul_self (by omega)
  rw [← Int.natAbs_mul_self]
  omega

theorem squaredDistance_le (a b : Pos) : squaredDistance a b ≤ 3 * (65535 * 65535) := by
  have hx := coordDiff_sq_le a.x b.x
  have hy := coordDiff_sq_le a.y b.y
  have hz := coordDiff_sq_le a.z b.z
  unfold squaredDistance
  omega

theorem distance_le_iff (a b : Pos) (d : Nat) : distance a b ≤ d ↔ squaredDistance a b ≤ (d : Int) * d := by
  have hbound := squaredDistance_le a b
  rw [distance_eq, ceilRoot_le_iff (by omega), Int.toNat_le, Int.natCast_mul]

theorem distance_le (a b : Pos) : distance a b ≤ 113510 :=
  (distance_le_iff a b _).mpr (Int.le_trans (squaredDistance_le a b) (by decide))

/-- Settles O53: quotients and the root are adjoint to multiplication and squaring, so each is the least integer that
covers its exact value. -/
theorem marginAndDistanceRoundUp : Obligations.MarginAndDistanceRoundUp := by
  refine ⟨fun g alrn v halrn => ?_, fun a b => ?_, by decide, fun a b t0 t1 => ?_, fun u g f => rfl⟩
  · exact ⟨reactionTerm g.reaction v, brakingTerm alrn v, ceilDiv_le_iff (by decide) _,
      ceilDiv_le_iff (by omega) _, rfl, rfl⟩
  · exact ⟨distance_le_iff a b, distance_le a b, distance_eq a b⟩
  · exact ⟨ceilDiv (distance a b * 1000000) (elapsed t0 t1), ceilDiv_le_iff (elapsed_pos t0 t1) _, rfl⟩

end Sys2Proof.Machine

/-! SUPPORT. Cell boxes: the indices an axis touches, the cells of a cell box, and shared cells (R10 to R12). -/

namespace Sys2Proof.Machine

/-! ## The touched indices of one axis (R1, R10, R11) -/

/-- The range lo..hi of an axis meets cell index i, which covers its lower face and not its upper one (R1, R10). -/
def TouchesIndex (lo hi origin : Int) (edge i : Nat) : Prop :=
  origin + (i : Int) * edge ≤ hi ∧ lo < origin + ((i : Int) + 1) * edge

/-- The touched indices are those between the two floors of R10. -/
theorem touchesIndex_iff {edge : Nat} (he : 0 < edge) (lo hi origin : Int) (i : Nat) :
    TouchesIndex lo hi origin edge i ↔ (lo - origin) / edge ≤ i ∧ (i : Int) ≤ (hi - origin) / edge := by
  have he' : (0 : Int) < edge := by omega
  have hlo : (lo - origin) / edge ≤ i ↔ lo < origin + ((i : Int) + 1) * edge := by
    rw [← Int.lt_add_one_iff, Int.ediv_lt_iff_lt_mul he', Int.sub_lt_iff, Int.add_comm]
  have hhi : (i : Int) ≤ (hi - origin) / edge ↔ origin + (i : Int) * edge ≤ hi := by
    rw [Int.le_ediv_iff_mul_le he']; omega
  rw [hlo, hhi, and_comm, TouchesIndex]

/-- An axis is outside exactly when its range meets none of its indices (R11). -/
theorem axisCells_eq_none_iff {edge n : Nat} {lo hi : Int} (he : 0 < edge) (hn : 0 < n) (hle : lo ≤ hi) (origin : Int) :
    axisCells lo hi origin edge n = none ↔ ∀ i, i < n → ¬ TouchesIndex lo hi origin edge i := by
  have hfloors : (lo - origin) / edge ≤ (hi - origin) / (edge : Int) :=
    Int.ediv_le_ediv (by omega) (by omega)
  simp only [touchesIndex_iff he, axisCells]
  generalize (lo - origin) / (edge : Int) = l at *
  generalize (hi - origin) / (edge : Int) = h at *
  split
  · next hout => simp only [true_iff]; omega
  · next hin =>
    simp only [reduceCtorEq, false_iff]
    exact fun hnone => hnone (max l 0).toNat (by omega) (by omega)

/-- The clamped range of an axis is the range of its touched indices (R11). -/
theorem axisCells_eq_some {edge n l h : Nat} {lo hi origin : Int} (he : 0 < edge) (hn : 0 < n) (hle : lo ≤ hi)
    (hax : axisCells lo hi origin edge n = some (l, h)) :
    l ≤ h ∧ ∀ i, l ≤ i ∧ i ≤ h ↔ i < n ∧ TouchesIndex lo hi origin edge i := by
  have hfloors : (lo - origin) / edge ≤ (hi - origin) / (edge : Int) :=
    Int.ediv_le_ediv (by omega) (by omega)
  simp only [touchesIndex_iff he]
  unfold axisCells at hax
  generalize (lo - origin) / (edge : Int) = fl at *
  generalize (hi - origin) / (edge : Int) = fh at *
  dsimp only at hax
  split at hax
  · simp at hax
  · simp only [Option.some.injEq, Prod.mk.injEq] at hax
    obtain ⟨rfl, rfl⟩ := hax
    exact ⟨by omega, fun i => by omega⟩

/-! ## The cell box of a box of space (R10, R11) -/

theorem cellBoxOf_eq_none_iff (f : Setup) (b : Box) : cellBoxOf f b = none ↔
    axisCells b.xlo b.xhi f.ox f.edge f.nx = none ∨ axisCells b.ylo b.yhi f.oy f.edge f.ny = none ∨
      axisCells b.zlo b.zhi f.oz f.edge f.nz = none := by
  unfold cellBoxOf
  cases axisCells b.xlo b.xhi f.ox f.edge f.nx with
  | none => simp
  | some x =>
    cases axisCells b.ylo b.yhi f.oy f.edge f.ny with
    | none => simp
    | some y => cases axisCells b.zlo b.zhi f.oz f.edge f.nz <;> simp

theorem cellBoxOf_eq_some {f : Setup} {b : Box} {c : CellBox} (h : cellBoxOf f b = some c) :
    axisCells b.xlo b.xhi f.ox f.edge f.nx = some (c.xlo, c.xhi) ∧
      axisCells b.ylo b.yhi f.oy f.edge f.ny = some (c.ylo, c.yhi) ∧
        axisCells b.zlo b.zhi f.oz f.edge f.nz = some (c.zlo, c.zhi) := by
  unfold cellBoxOf at h
  split at h
  · next hx hy hz =>
    obtain rfl := Option.some.inj h
    exact ⟨hx, hy, hz⟩
  · cases h

/-! ## The cells of a cell box (R1, R11, R12) -/

theorem CellBox.containsIndex_iff (b : CellBox) (i j k : Nat) : b.containsIndex i j k = true ↔
    (b.xlo ≤ i ∧ i ≤ b.xhi) ∧ (b.ylo ≤ j ∧ j ≤ b.yhi) ∧ b.zlo ≤ k ∧ k ≤ b.zhi := by
  simp [CellBox.containsIndex, and_assoc]

theorem CellBox.cellNumber_mem_cells_iff (b : CellBox) {nx ny i j : Nat} (hx : b.xhi < nx) (hy : b.yhi < ny)
    (hi : i < nx) (hj : j < ny) (k : Nat) :
    cellNumber nx ny i j k ∈ b.cells nx ny ↔ b.containsIndex i j k = true := by
  rw [← b.containsCell_iff hx hy, CellBox.containsCell]
  obtain ⟨e1, e2, e3⟩ := cellNumber_indices (k := k) hi hj
  rw [e1, e2, e3]

theorem indexRange_nodup (lo hi : Nat) : (indexRange lo hi).Nodup := List.nodup_range'

@[simp] theorem indexRange_length (lo hi : Nat) : (indexRange lo hi).length = hi + 1 - lo := List.length_range'

/-- Blocks that tell which element of a list without repetition they come from make a list without repetition. -/
theorem nodup_flatMap_of_key {α β : Type} {l : List α} {f : α → List β} (key : β → α) (hl : l.Nodup)
    (hf : ∀ a ∈ l, (f a).Nodup) (hkey : ∀ a ∈ l, ∀ c ∈ f a, key c = a) : (l.flatMap f).Nodup :=
  List.pairwise_flatMap.mpr ⟨hf, hl.imp_of_mem fun ha hb hne c hc d hd heq =>
    hne ((hkey _ ha c hc).symm.trans (heq ▸ hkey _ hb d hd))⟩

/-- A function that can be undone on a list without repetition makes none. -/
theorem nodup_map_of_key {α β : Type} {l : List α} {f : α → β} (key : β → α) (hl : l.Nodup)
    (hkey : ∀ a ∈ l, key (f a) = a) : (l.map f).Nodup :=
  List.pairwise_map.mpr (hl.imp_of_mem fun ha hb hne heq => hne ((hkey _ ha).symm.trans (heq ▸ hkey _ hb)))

/-- Within the counts no cell is listed twice: a cell number tells its three indices. -/
theorem CellBox.cells_nodup (b : CellBox) {nx ny : Nat} (hx : b.xhi < nx) (hy : b.yhi < ny) :
    (b.cells nx ny).Nodup := by
  have hindices : ∀ i ∈ indexRange b.xlo b.xhi, ∀ j ∈ indexRange b.ylo b.yhi, ∀ k,
      cellNumber nx ny i j k % nx = i ∧ cellNumber nx ny i j k / nx % ny = j ∧
        cellNumber nx ny i j k / (nx * ny) = k := fun i hi j hj k => by
    rw [mem_indexRange] at hi hj
    exact cellNumber_indices (by omega) (by omega)
  refine nodup_flatMap_of_key (· / (nx * ny)) (indexRange_nodup _ _) (fun k _ =>
    nodup_flatMap_of_key (· / nx % ny) (indexRange_nodup _ _) (fun j hj => ?_) fun j hj c hc => ?_) fun k _ c hc => ?_
  · exact nodup_map_of_key (· % nx) (indexRange_nodup _ _) fun i hi => (hindices i hi j hj k).1
  · obtain ⟨i, hi, rfl⟩ := List.mem_map.mp hc
    exact (hindices i hi j hj k).2.1
  · obtain ⟨j, hj, hc⟩ := List.mem_flatMap.mp hc
    obtain ⟨i, hi, rfl⟩ := List.mem_map.mp hc
    exact (hindices i hi j hj k).2.2

theorem CellBox.cells_length (b : CellBox) (hx : b.xlo ≤ b.xhi) (hy : b.ylo ≤ b.yhi) (hz : b.zlo ≤ b.zhi)
    (nx ny : Nat) : (b.cells nx ny).length = b.size := by
  simp only [CellBox.cells, List.length_flatMap, List.length_map, indexRange_length, List.map_const',
    List.sum_replicate_nat, CellBox.size, Nat.sub_add_comm hx, Nat.sub_add_comm hy, Nat.sub_add_comm hz]
  ac_rfl

/-! ## Shared cells (R12) -/

theorem CellBox.shares_iff (b c : CellBox) : b.shares c = true ↔ max b.xlo c.xlo ≤ min b.xhi c.xhi ∧
    max b.ylo c.ylo ≤ min b.yhi c.yhi ∧ max b.zlo c.zlo ≤ min b.zhi c.zhi := by
  simp only [CellBox.shares, Bool.and_eq_true, decide_eq_true_eq, and_assoc]

/-- The cell with the larger lo on each axis lies in both boxes when any does. -/
theorem CellBox.shares_iff_exists (b c : CellBox) :
    b.shares c = true ↔ ∃ i j k, b.containsIndex i j k = true ∧ c.containsIndex i j k = true := by
  simp only [CellBox.shares_iff, CellBox.containsIndex_iff]
  constructor
  · intro h
    exact ⟨max b.xlo c.xlo, max b.ylo c.ylo, max b.zlo c.zlo, by omega⟩
  · rintro ⟨i, j, k, h⟩
    omega

/-- Settles O54: each axis's clamped range is the range of its touched indices, and a cell number tells its indices. -/
theorem cellBoxesHoldTheTouchedCells : Obligations.CellBoxesHoldTheTouchedCells := by
  refine ⟨fun f b he hnx hny hnz hx hy hz => ⟨?_, fun c hc => ?_⟩, fun b c =>
    ⟨b.containsIndex_iff, b.shares_iff c, b.shares_iff_exists c, rfl, rfl⟩⟩
  · rw [cellBoxOf_eq_none_iff, axisCells_eq_none_iff he hnx hx, axisCells_eq_none_iff he hny hy,
      axisCells_eq_none_iff he hnz hz]
    rfl
  · obtain ⟨hax, hay, haz⟩ := cellBoxOf_eq_some hc
    obtain ⟨hxle, hxmem⟩ := axisCells_eq_some he hnx hx hax
    obtain ⟨hyle, hymem⟩ := axisCells_eq_some he hny hy hay
    obtain ⟨hzle, hzmem⟩ := axisCells_eq_some he hnz hz haz
    obtain ⟨hxn, hyn, -⟩ := cellBoxOf_bound hnx hny hnz hc
    refine ⟨fun i j k => ?_, c.cells_nodup hxn hyn, c.cells_length hxle hyle hzle f.nx f.ny,
      fun i j k hi hj => c.cellNumber_mem_cells_iff hxn hyn hi hj k⟩
    rw [CellBox.containsIndex_iff, hxmem, hymem, hzmem]
    rfl

end Sys2Proof.Machine

/-! SUPPORT. The clearance of two boxes, and what a clearance evaluation does to the monitors (R16, R76 to R79). -/

namespace Sys2Proof.Machine

/-! ## The clearance (R16) -/

theorem axisGap_le_iff (aLo aHi bLo bHi : Int) (c : Nat) :
    axisGap aLo aHi bLo bHi ≤ c ↔ bLo - aHi ≤ (c : Int) ∧ aLo - bHi ≤ (c : Int) := by
  unfold axisGap; omega

theorem axisGap_comm (aLo aHi bLo bHi : Int) : axisGap bLo bHi aLo aHi = axisGap aLo aHi bLo bHi := by
  rw [axisGap, axisGap, Int.max_comm (aLo - bHi)]

/-- Two ranges leave no gap exactly when they have a point in common. -/
theorem axisGap_eq_zero_iff {aLo aHi bLo bHi : Int} (ha : aLo ≤ aHi) (hb : bLo ≤ bHi) :
    axisGap aLo aHi bLo bHi = 0 ↔ ∃ x, aLo ≤ x ∧ x ≤ aHi ∧ bLo ≤ x ∧ x ≤ bHi := by
  rw [← Nat.le_zero, axisGap_le_iff]
  constructor
  · intro h
    exact ⟨max aLo bLo, by omega⟩
  · rintro ⟨x, h⟩
    omega

theorem clearance_le (a b : Box) : clearance a b ≤ 65535 := Nat.min_le_left _ _

/-- Below the cut the clearance is the largest of the three gaps. -/
theorem clearance_le_iff_axisGap (a b : Box) {c : Nat} (hc : c < 65535) : clearance a b ≤ c ↔
    axisGap a.xlo a.xhi b.xlo b.xhi ≤ c ∧ axisGap a.ylo a.yhi b.ylo b.yhi ≤ c ∧
      axisGap a.zlo a.zhi b.zlo b.zhi ≤ c := by
  unfold clearance; omega

theorem clearance_le_iff (a b : Box) {c : Nat} (hc : c < 65535) : clearance a b ≤ c ↔
    b.xlo - a.xhi ≤ (c : Int) ∧ a.xlo - b.xhi ≤ (c : Int) ∧ b.ylo - a.yhi ≤ (c : Int) ∧ a.ylo - b.yhi ≤ (c : Int) ∧
      b.zlo - a.zhi ≤ (c : Int) ∧ a.zlo - b.zhi ≤ (c : Int) := by
  simp only [clearance_le_iff_axisGap a b hc, axisGap_le_iff, and_assoc]

theorem clearance_comm (a b : Box) : clearance b a = clearance a b := by
  simp only [clearance, axisGap_comm a.xlo, axisGap_comm a.ylo, axisGap_comm a.zlo]

theorem clearance_eq_zero_iff (a b : Box) : clearance a b = 0 ↔ axisGap a.xlo a.xhi b.xlo b.xhi = 0 ∧
    axisGap a.ylo a.yhi b.ylo b.yhi = 0 ∧ axisGap a.zlo a.zhi b.zlo b.zhi = 0 := by
  simp only [← Nat.le_zero, clearance_le_iff_axisGap a b (c := 0) (by decide)]

/-! ## The monitors and guards after a clearance evaluation (R76 to R79) -/

/-- Lowering the watermark of x is taking the minimum in x's monitor (R77). -/
theorem Part.lowerClearance_arm_monitor (p : Part) (x z : Arm) (c : Nat) :
    ((p.lowerClearance x c).arm z).monitor =
      if z = x then { (p.arm z).monitor with minClearance := min (p.arm z).monitor.minClearance c }
      else (p.arm z).monitor := by
  unfold Part.lowerClearance
  split
  · next hlow =>
    by_cases hz : z = x
    · subst hz; simp [Part.updMonitor_eq, Nat.min_eq_right (Nat.le_of_lt hlow)]
    · simp [hz, Part.updMonitor_eq, Part.updArm_arm_of_ne]
  · next hkept =>
    by_cases hz : z = x
    · subst hz; simp [Nat.min_eq_left (Nat.le_of_not_lt hkept)]
    · simp [hz]

@[simp] theorem Part.lowerClearance_arm_guard (p : Part) (x z : Arm) (c : Nat) :
    ((p.lowerClearance x c).arm z).guard = (p.arm z).guard := by
  unfold Part.lowerClearance
  split
  · simp only [Part.markChanged_arm_guard, Part.updMonitor_eq, Part.updArm_arm_ite]; split <;> rfl
  · rfl

@[simp] theorem Part.lowerClearance_figures (p : Part) (x : Arm) (c : Nat) :
    (p.lowerClearance x c).figures = p.figures := by
  unfold Part.lowerClearance
  split
  · simp [Part.updMonitor_eq]
  · rfl

/-- Uncapping x clears the mark in x's monitor, which changes nothing where it is clear (R79). -/
theorem Part.uncap_arm_monitor (p : Part) (x z : Arm) :
    ((p.uncap x).arm z).monitor =
      if z = x then { (p.arm z).monitor with capped := false } else (p.arm z).monitor := by
  unfold Part.uncap
  split
  · by_cases hz : z = x
    · subst hz; simp [Part.updMonitor_eq, Part.updLink_eq]
    · simp [hz, Part.updMonitor_eq, Part.updLink_eq, Part.updArm_arm_of_ne]
  · next huncapped =>
    by_cases hz : z = x
    · subst hz; rw [if_pos rfl, ← eq_false_of_ne_true huncapped]
    · simp [hz]

theorem Part.cap_arm_monitor (p : Part) (x z : Arm) :
    ((p.cap x).arm z).monitor =
      if z = x then { (p.arm z).monitor with capped := true } else (p.arm z).monitor := by
  by_cases hz : z = x
  · subst hz; simp [Part.cap, Part.updMonitor_eq, Part.updLink_eq]
  · simp [hz, Part.cap, Part.updMonitor_eq, Part.updLink_eq, Part.updArm_arm_of_ne]

/-- Both watermarks lowered, as the evaluation begins (R77). -/
def Part.lowerBoth (p : Part) (x : Arm) (c : Nat) : Part := (p.lowerClearance x c).lowerClearance x.other c

theorem Part.lowerBoth_arm_monitor (p : Part) (x z : Arm) (c : Nat) :
    ((p.lowerBoth x c).arm z).monitor =
      { (p.arm z).monitor with minClearance := min (p.arm z).monitor.minClearance c } := by
  rw [Part.lowerBoth, Part.lowerClearance_arm_monitor, Part.lowerClearance_arm_monitor]
  by_cases hz : z = x
  · subst hz; simp
  · obtain rfl := Arm.eq_other_of_ne hz
    simp

/-- All that a clearance evaluation with the clearance `c` can do: both watermarks are lowered, and then both caps are
lifted, or x is capped, or nothing more happens (R77 to R79). -/
theorem Part.actOnClearance_cases (p : Part) (x : Arm) (c : Nat) :
    (p.figures.uncapGap ≤ c ∧ p.actOnClearance x c = ((p.lowerBoth x c).uncap x).uncap x.other) ∨
      (c < p.figures.uncapGap ∧ (c < p.figures.capGap ∧ (p.arm x).guard.state.inService = true ∧
        (p.arm x).monitor.capped = false) ∧ p.actOnClearance x c = (p.lowerBoth x c).cap x) ∨
      (c < p.figures.uncapGap ∧ ¬ (c < p.figures.capGap ∧ (p.arm x).guard.state.inService = true ∧
        (p.arm x).monitor.capped = false) ∧ p.actOnClearance x c = p.lowerBoth x c) := by
  have hact : p.actOnClearance x c =
      if p.figures.uncapGap ≤ c then ((p.lowerBoth x c).uncap x).uncap x.other
      else if c < p.figures.capGap ∧ (p.arm x).guard.state.inService = true ∧ (p.arm x).monitor.capped = false
        then (p.lowerBoth x c).cap x
      else p.lowerBoth x c := by
    have hcapped : ((p.lowerBoth x c).arm x).monitor.capped = (p.arm x).monitor.capped := by
      rw [Part.lowerBoth_arm_monitor]
    have hguard : ((p.lowerBoth x c).arm x).guard = (p.arm x).guard := by simp [Part.lowerBoth]
    have hfigures : (p.lowerBoth x c).figures = p.figures := by simp [Part.lowerBoth]
    rw [← hcapped, ← hguard, ← hfigures, Part.actOnClearance, ← Part.lowerBoth]
    simp
  rw [hact]
  split
  · next hfar => exact .inl ⟨hfar, rfl⟩
  · next hnear =>
    split
    · next hcap => exact .inr (.inl ⟨Nat.lt_of_not_le hnear, hcap, rfl⟩)
    · next hstay => exact .inr (.inr ⟨Nat.lt_of_not_le hnear, hstay, rfl⟩)

theorem Part.actOnClearance_minClearance (p : Part) (x z : Arm) (c : Nat) :
    ((p.actOnClearance x c).arm z).monitor.minClearance = min (p.arm z).monitor.minClearance c := by
  obtain ⟨-, hact⟩ | ⟨-, -, hact⟩ | ⟨-, -, hact⟩ := p.actOnClearance_cases x c <;> rw [hact]
  · rw [Part.uncap_arm_monitor, Part.uncap_arm_monitor, Part.lowerBoth_arm_monitor]; split <;> split <;> rfl
  · rw [Part.cap_arm_monitor, Part.lowerBoth_arm_monitor]; split <;> rfl
  · rw [Part.lowerBoth_arm_monitor]

theorem Part.actOnClearance_lifts (p : Part) (x z : Arm) {c : Nat} (hfar : p.figures.uncapGap ≤ c) :
    ((p.actOnClearance x c).arm z).monitor.capped = false := by
  obtain ⟨-, hact⟩ | ⟨hnear, -⟩ | ⟨hnear, -⟩ := p.actOnClearance_cases x c
  · rw [hact, Part.uncap_arm_monitor, Part.uncap_arm_monitor]
    by_cases hz : z = x
    · subst hz; simp
    · obtain rfl := Arm.eq_other_of_ne hz
      simp
  · omega
  · omega

theorem Part.actOnClearance_caps (p : Part) (x : Arm) {c : Nat} (hnear : c < p.figures.uncapGap) :
    ((p.actOnClearance x c).arm x.other).monitor.capped = (p.arm x.other).monitor.capped ∧
      (((p.actOnClearance x c).arm x).monitor.capped = true ↔ (p.arm x).monitor.capped = true ∨
        (c < p.figures.capGap ∧ (p.arm x).guard.state.inService = true)) := by
  obtain ⟨hfar, -⟩ | ⟨-, ⟨hgap, hserves, -⟩, hact⟩ | ⟨-, hstay, hact⟩ := p.actOnClearance_cases x c
  · omega
  · simp [hact, Part.cap_arm_monitor, Part.lowerBoth_arm_monitor, hgap, hserves]
  · rw [hact, Part.lowerBoth_arm_monitor, Part.lowerBoth_arm_monitor]
    refine ⟨rfl, .inl, ?_⟩
    rintro (hcapped | ⟨hgap, hserves⟩)
    · exact hcapped
    · exact eq_true_of_ne_false fun huncapped => hstay ⟨hgap, hserves, huncapped⟩

/-! ## When the evaluation is made (R76) -/

/-- Without both envelopes known no clearance is asked for. -/
theorem Part.evaluateClearance_of_unknown (p : Part) (x y : Arm) (h : (p.arm y).monitor.known = false) :
    p.evaluateClearance x = p := by
  have hbox : (p.arm y).monitor.knownBox = none := by simp [Monitor.knownBox, h]
  unfold Part.evaluateClearance
  by_cases hy : y = x
  · subst hy; rw [hbox]
  · obtain rfl := Arm.eq_other_of_ne hy
    rw [hbox]; split <;> simp_all

/-- With both envelopes known the monitors act on their clearance, whichever arm's frame prompted it. -/
theorem Part.evaluateClearance_of_known (p : Part) (x : Arm) {a b : Envelope}
    (hka : p.armA.monitor.known = true) (hkb : p.armB.monitor.known = true)
    (ha : p.armA.monitor.envelope = some a) (hb : p.armB.monitor.envelope = some b) :
    p.evaluateClearance x = p.actOnClearance x (clearance a.box b.box) := by
  have hboxA : p.armA.monitor.knownBox = some a.box := by simp [Monitor.knownBox, hka, ha]
  have hboxB : p.armB.monitor.knownBox = some b.box := by simp [Monitor.knownBox, hkb, hb]
  cases x with
  | a => simp [Part.evaluateClearance, hboxA, hboxB]
  | b => simp [Part.evaluateClearance, hboxA, hboxB, clearance_comm a.box b.box]

/-- Settles O55, by the gap of each axis and the three outcomes of an evaluation. -/
theorem clearanceIsTheLargestAxisGap : Obligations.ClearanceIsTheLargestAxisGap := by
  refine ⟨fun a b hax hay haz hbx hby hbz => ?_, fun p x hunknown => ?_, fun p x a b hka hkb ha hb => ?_⟩
  · refine ⟨fun c hc => clearance_le_iff a b hc, clearance_le a b, clearance_comm a b, ?_⟩
    rw [clearance_eq_zero_iff, axisGap_eq_zero_iff hax hbx, axisGap_eq_zero_iff hay hby, axisGap_eq_zero_iff haz hbz]
    simp only [exists_and_left, exists_and_right]
  · obtain h | h := hunknown
    · exact p.evaluateClearance_of_unknown x .a h
    · exact p.evaluateClearance_of_unknown x .b h
  · rw [p.evaluateClearance_of_known x hka hkb ha hb]
    exact ⟨fun z => p.actOnClearance_minClearance x z _, fun hfar z => p.actOnClearance_lifts x z hfar,
      p.actOnClearance_caps x⟩

end Sys2Proof.Machine

/-! SUPPORT. The shared operations of one arm's blocks as exact effects: what becomes of the arm's share, which cause
flags are set and which operations are queued (R90 to R104, R114 to R117, R147, R148). -/

namespace Sys2Proof.Machine

/-! ## The effect of one arm's blocks -/

/-- The part once arm x's blocks have acted: x's share is `r`, `flags` are set and `ops` join the queue. -/
def Part.acts (p : Part) (x : Arm) (r : ArmPart) (flags : Word) (ops : List MemOp) : Part :=
  { p.withArm x r flags with opQueue := p.opQueue ++ ops }

theorem Part.withArm_eq_acts (p : Part) (x : Arm) (r : ArmPart) (flags : Word) :
    p.withArm x r flags = p.acts x r flags [] := by
  cases x <;> simp [Part.acts, Part.withArm, Part.updArm]

section
variable (p : Part) (x : Arm) (r : ArmPart) (flags : Word) (ops : List MemOp)

@[simp] theorem Part.acts_arm : (p.acts x r flags ops).arm x = r := by cases x <;> rfl
@[simp] theorem Part.acts_arm_other : (p.acts x r flags ops).arm x.other = p.arm x.other := by cases x <;> rfl
@[simp] theorem Part.acts_other_arm : (p.acts x.other r flags ops).arm x = p.arm x := by cases x <;> rfl
@[simp] theorem Part.acts_now : (p.acts x r flags ops).now = p.now := by cases x <;> rfl
@[simp] theorem Part.acts_inReset : (p.acts x r flags ops).inReset = p.inReset := by cases x <;> rfl
@[simp] theorem Part.acts_busMaster : (p.acts x r flags ops).busMaster = p.busMaster := by cases x <;> rfl
@[simp] theorem Part.acts_pcieUp : (p.acts x r flags ops).pcieUp = p.pcieUp := by cases x <;> rfl
@[simp] theorem Part.acts_cellstop : (p.acts x r flags ops).cellstop = p.cellstop := by cases x <;> rfl
@[simp] theorem Part.acts_cellstopPin : (p.acts x r flags ops).cellstopPin = p.cellstopPin := by cases x <;> rfl
@[simp] theorem Part.acts_cellstopFilter : (p.acts x r flags ops).cellstopFilter = p.cellstopFilter := by
  cases x <;> rfl
@[simp] theorem Part.acts_cause : (p.acts x r flags ops).cause = p.cause ||| flags := by cases x <;> rfl
@[simp] theorem Part.acts_engine : (p.acts x r flags ops).engine = p.engine := by cases x <;> rfl
@[simp] theorem Part.acts_setup : (p.acts x r flags ops).setup = p.setup := by cases x <;> rfl
@[simp] theorem Part.acts_opQueue : (p.acts x r flags ops).opQueue = p.opQueue ++ ops := by cases x <;> rfl
@[simp] theorem Part.acts_inProgress : (p.acts x r flags ops).inProgress = p.inProgress := by cases x <;> rfl
@[simp] theorem Part.acts_table : (p.acts x r flags ops).table = p.table := by cases x <;> rfl
@[simp] theorem Part.acts_hostMem : (p.acts x r flags ops).hostMem = p.hostMem := by cases x <;> rfl
@[simp] theorem Part.acts_figures : (p.acts x r flags ops).figures = p.figures := by cases x <;> rfl
@[simp] theorem Part.acts_guarding : (p.acts x r flags ops).guarding = p.guarding := by cases x <;> rfl
@[simp] theorem Part.acts_marksKept : (p.acts x r flags ops).marksKept = p.marksKept := by cases x <;> rfl
@[simp] theorem Part.acts_afterMs (ms : Nat) : (p.acts x r flags ops).afterMs ms = p.afterMs ms := by cases x <;> rfl

/-- Two effects on the same arm are one. -/
@[simp] theorem Part.acts_acts (r' : ArmPart) (flags' : Word) (ops' : List MemOp) :
    (p.acts x r flags ops).acts x r' flags' ops' = p.acts x r' (flags ||| flags') (ops ++ ops') := by
  cases x <;> simp [Part.acts, Part.withArm, Part.updArm, BitVec.or_assoc]

@[simp] theorem Part.acts_setCause (c : Cause) :
    (p.acts x r flags ops).setCause c = p.acts x r (flags ||| causeBit c) ops := by
  cases x <;> simp [Part.acts, Part.withArm, Part.updArm, Part.setCause, causeBit, BitVec.or_assoc]

@[simp] theorem Part.acts_queueOp (op : MemOp) :
    (p.acts x r flags ops).queueOp op = p.acts x r flags (ops ++ [op]) := by
  cases x <;> simp [Part.acts, Part.withArm, Part.updArm, Part.queueOp]

/-- An effect that changes nothing. -/
@[simp] theorem Part.acts_self : p.acts x (p.arm x) 0#32 [] = p := by
  cases x <;> simp [Part.acts, Part.withArm, Part.updArm, Part.arm]

theorem Part.acts_view : (p.acts x r flags ops).view = (p.withArm x r flags).view := by cases x <;> rfl

end

theorem Part.acts_arm_ite (p : Part) (x y : Arm) (r : ArmPart) (flags : Word) (ops : List MemOp) :
    (p.acts x r flags ops).arm y = if y = x then r else p.arm y := by
  by_cases h : y = x
  · subst h; simp
  · obtain rfl := Arm.eq_other_of_ne h; simp

/-! ## Updates of one block, and the marks -/

/-- The arm's share with its status block marked publish due, where marks are kept. -/
def ArmPart.due (r : ArmPart) (kept : Bool) : ArmPart :=
  { r with chain := { r.chain with publishDue := r.chain.publishDue || kept } }

/-- The arm's share with its status block marked changed, where marks are kept. -/
def ArmPart.noted (r : ArmPart) (kept : Bool) : ArmPart :=
  { r with chain := { r.chain with changed := r.chain.changed || kept } }

/-- The arm's share once its open slot has been answered, if it has. -/
def ArmPart.replied (r : ArmPart) (now : Bool) : ArmPart :=
  { r with chain := { r.chain with answered := r.chain.answered || now } }

/-! A mark once set stays set. -/

@[simp] theorem mark_and_mark (d k c : Bool) : (d || k && c || k) = (d || k) := by cases d <;> cases k <;> simp
@[simp] theorem mark_mark_and (d k c : Bool) : (d || k || k && c) = (d || k) := by cases d <;> cases k <;> simp
@[simp] theorem mark_mark (d k : Bool) : (d || k || k) = (d || k) := by cases d <;> cases k <;> simp

section
variable (r : ArmPart) (k : Bool)

@[simp] theorem ArmPart.due_false : r.due false = r := by simp [ArmPart.due]
@[simp] theorem ArmPart.due_view : (r.due k).view = r.view := rfl
@[simp] theorem ArmPart.noted_false : r.noted false = r := by simp [ArmPart.noted]
@[simp] theorem ArmPart.noted_view : (r.noted k).view = r.view := rfl
@[simp] theorem ArmPart.replied_false : r.replied false = r := by simp [ArmPart.replied]
theorem ArmPart.replied_true : r.replied true = { r with chain := { r.chain with answered := true } } := by
  simp [ArmPart.replied]

end

section
variable (p : Part) (x : Arm)

theorem Part.updArm_eq_acts (f : ArmPart → ArmPart) : p.updArm x f = p.acts x (f (p.arm x)) 0 [] := by
  cases x <;> simp [Part.acts, Part.withArm, Part.updArm, Part.arm]

theorem Part.queueOp_eq_acts (op : MemOp) : p.queueOp op = p.acts x (p.arm x) 0 [op] := by
  have h := p.acts_queueOp x (p.arm x) 0#32 [] op
  rwa [Part.acts_self] at h

theorem Part.setCause_eq_acts (c : Cause) : p.setCause c = p.acts x (p.arm x) (causeBit c) [] := by
  have h := p.acts_setCause x (p.arm x) 0#32 [] c
  rwa [Part.acts_self, BitVec.zero_or] at h

theorem Part.markDue_eq : p.markDue x = p.acts x ((p.arm x).due p.marksKept) 0 [] := by
  obtain ⟨hk, h⟩ | ⟨hk, h⟩ := p.markDue_cases x <;> rw [h, hk]
  · simp [Part.updChain_eq, Part.updArm_eq_acts, ArmPart.due]
  · simp

theorem Part.markChanged_eq : p.markChanged x = p.acts x ((p.arm x).noted p.marksKept) 0 [] := by
  obtain ⟨hk, h⟩ | ⟨hk, h⟩ := p.markChanged_cases x <;> rw [h, hk]
  · simp [Part.updChain_eq, Part.updArm_eq_acts, ArmPart.noted]
  · simp

theorem Part.guardChanged_eq :
    p.guardChanged x = p.acts x ((p.arm x).due p.marksKept) (causeBit (armCause x)) [] := by
  rw [Part.guardChanged, p.setCause_eq_acts x, Part.markDue_eq]
  simp

/-! ## Results (R147, R148) -/

/-- A final result of x's slot is written: the engine is SERVING and the slot is open (R148). -/
def Part.answerable (slot : Nat) : Bool := p.engine == .serving && (p.arm x).chain.openSlot == some slot

theorem Part.answerable_iff (slot : Nat) :
    p.answerable x slot = true ↔ p.engine = .serving ∧ (p.arm x).chain.openSlot = some slot := by
  simp [Part.answerable]

/-- An effect that leaves the open slot leaves what can be answered. -/
@[simp] theorem Part.acts_answerable (r : ArmPart) (flags : Word) (ops : List MemOp)
    (h : r.chain.openSlot = (p.arm x).chain.openSlot) : (p.acts x r flags ops).answerable x = p.answerable x := by
  funext slot; simp [Part.answerable, h]

/-- The operations of a final result, none when it is not written. -/
def Part.resultOps (slot : Nat) (v : Verdict) (f : ResultFigures) : List MemOp :=
  if p.answerable x slot then answerOps x slot p.now v f else []

@[simp] theorem Part.acts_resultOps (r : ArmPart) (flags : Word) (ops : List MemOp)
    (h : r.chain.openSlot = (p.arm x).chain.openSlot) (slot : Nat) (v : Verdict) (f : ResultFigures) :
    (p.acts x r flags ops).resultOps x slot v f = p.resultOps x slot v f := by
  simp [Part.resultOps, h]

theorem Part.handResult_eq (slot : Nat) (v : Verdict) (f : ResultFigures) :
    p.handResult x slot v f =
      p.acts x ((p.arm x).replied (p.answerable x slot)) 0 (p.resultOps x slot v f) := by
  obtain ⟨ho, h⟩ | ⟨ho, h⟩ := p.handResult_cases x slot v f <;> rw [h, Part.resultOps]
  · rw [(p.answerable_iff x slot).mpr ho]
    simp [ArmPart.replied, Part.updChain_eq, Part.updArm_eq_acts, answerOps, finalBytes]
  · rw [← p.answerable_iff x slot, Bool.not_eq_true] at ho
    simp [ho]

theorem Part.waitingNotice_eq (slot : Nat) (f : ResultFigures) (he : p.engine = .serving) :
    p.waitingNotice x slot f = p.acts x ((p.arm x).due true) 0 (noticeOps x slot f) := by
  have hk : p.marksKept = true := by simp [Part.marksKept, he]
  rw [Part.waitingNotice, if_pos he, p.queueOp_eq_acts x, Part.acts_queueOp, Part.markDue_eq]
  simp [noticeOps, hk]

/-! ## The hold-reason set (R90 to R93) -/

/-- A reason joins or leaves the set, the guard staying where it is. -/
def ArmPart.withReason (r : ArmPart) (v : Bool) (q : HoldReason) : ArmPart :=
  { r with guard := { r.guard with reasons := r.guard.reasons.put v q } }

theorem Part.reasonChanged_eq (v : Bool) (q : HoldReason) :
    (p.updGuard x fun g => { g with reasons := g.reasons.put v q }).guardChanged x =
      p.acts x (((p.arm x).withReason v q).due p.marksKept) (causeBit (armCause x)) [] := by
  rw [Part.updGuard_eq, Part.updArm_eq_acts, Part.guardChanged_eq]
  simp [ArmPart.withReason]

theorem Part.addReason_present (q : HoldReason) (h : (p.arm x).guard.reasons.has q = true) :
    p.addReason x q = p := by
  simp [Part.addReason, h]

/-- A new reason of a RUNNING guard starts a hold (R92). -/
theorem Part.addReason_running (q : HoldReason) (h : (p.arm x).guard.reasons.has q = false)
    (hs : (p.arm x).guard.state = .running) :
    p.addReason x q = p.acts x ((p.holdsArm (p.arm x) q).due p.marksKept) (causeBit (armCause x)) [] := by
  obtain ⟨h', -⟩ | ⟨-, -, e⟩ | ⟨-, h', -⟩ := p.addReason_cases x q
  · simp [h] at h'
  · rw [e, Part.reasonChanged_eq, Part.enterHeld]
    simp [Part.updGuard_eq, Part.updLink_eq, Part.updArm_eq_acts, ArmPart.due, ArmPart.withReason, Part.holdsArm,
      Part.afterMs, timerAt]
  · exact absurd hs h'

/-- A new reason of any other guard joins the set alone. -/
theorem Part.addReason_staying (q : HoldReason) (h : (p.arm x).guard.reasons.has q = false)
    (hs : (p.arm x).guard.state ≠ .running) :
    p.addReason x q = p.acts x (((p.arm x).withReason true q).due p.marksKept) (causeBit (armCause x)) [] := by
  obtain ⟨h', -⟩ | ⟨-, h', -⟩ | ⟨-, -, e⟩ := p.addReason_cases x q
  · simp [h] at h'
  · exact absurd h' hs
  · rw [e, Part.reasonChanged_eq]

theorem Part.removeReason_absent (q : HoldReason) (h : (p.arm x).guard.reasons.has q = false) :
    p.removeReason x q = p := by
  simp [Part.removeReason, h]

/-- The last reason of a HELD guard goes: it resumes (R93). -/
theorem Part.removeReason_last (q : HoldReason) (h : (p.arm x).guard.reasons.has q = true)
    (hs : (p.arm x).guard.state = .held) (he : (p.arm x).guard.reasons.put false q = noReasons) :
    p.removeReason x q = p.acts x (((p.arm x).resumed q).due p.marksKept) (causeBit (armCause x)) [] := by
  obtain ⟨h', -⟩ | ⟨-, -, e⟩ | ⟨-, h', -⟩ := p.removeReason_cases x q
  · simp [h] at h'
  · rw [e, Part.reasonChanged_eq, Part.enterRunning]
    simp [Part.updGuard_eq, Part.updLink_eq, Part.updArm_eq_acts, ArmPart.due, ArmPart.withReason, ArmPart.resumed]
  · exact absurd ⟨hs, by simp [Reasons.empty, he]⟩ h'

/-- A reason goes and the guard stays where it is: further reasons are there, or it is not HELD. -/
theorem Part.removeReason_staying (q : HoldReason) (h : (p.arm x).guard.reasons.has q = true)
    (hs : ¬ ((p.arm x).guard.state = .held ∧ (p.arm x).guard.reasons.put false q = noReasons)) :
    p.removeReason x q = p.acts x (((p.arm x).withReason false q).due p.marksKept) (causeBit (armCause x)) [] := by
  obtain ⟨h', -⟩ | ⟨-, h', -⟩ | ⟨-, -, e⟩ := p.removeReason_cases x q
  · simp [h] at h'
  · exact absurd (by simpa [Reasons.empty] using h') hs
  · rw [e, Part.reasonChanged_eq]

theorem Reasons.put_of_has (s : Reasons) (v : Bool) (q : HoldReason) (h : s.has q = v) : s.put v q = s := by
  cases q <;> cases s <;> simp_all [Reasons.has, Reasons.put]

theorem ArmPart.withReason_of_has (r : ArmPart) (v : Bool) (q : HoldReason) (h : r.guard.reasons.has q = v) :
    r.withReason v q = r := by
  rw [ArmPart.withReason, Reasons.put_of_has _ _ _ h]

/-- A reason leaves the set alone, in a step that moves the guard otherwise (log 13). -/
theorem Part.clearReason_eq (q : HoldReason) :
    p.clearReason x q = p.acts x (((p.arm x).withReason false q).due (p.marksKept && (p.arm x).guard.reasons.has q))
      (if (p.arm x).guard.reasons.has q then causeBit (armCause x) else 0) [] := by
  obtain ⟨h, e⟩ | ⟨h, e⟩ := p.clearReason_cases x q <;> rw [e, h]
  · rw [Part.reasonChanged_eq]; simp
  · simp [ArmPart.withReason_of_has _ _ _ h]

/-! ## Leaving service and admissions (R98, R82, R104, R116, R135) -/

/-- The arm's share without its cap (R82). -/
def ArmPart.uncapped (r : ArmPart) : ArmPart := { r with monitor := { r.monitor with capped := false } }

theorem Part.clearCapped_eq :
    p.clearCapped x = p.acts x ((p.arm x).uncapped.due (p.marksKept && (p.arm x).monitor.capped)) 0 [] := by
  obtain ⟨h, e⟩ | ⟨h, e⟩ := p.clearCapped_cases x <;> rw [e, h]
  · rw [Part.updMonitor_eq, Part.updArm_eq_acts, Part.markDue_eq]; simp [ArmPart.uncapped]
  · have hu : (p.arm x).uncapped = p.arm x := by simp [ArmPart.uncapped, ← h]
    simp [hu]

/-- The arm's share with a test result recorded (R108, R114). -/
def ArmPart.recorded (r : ArmPart) (t : TestResult) : ArmPart :=
  { r with test := { resetTest t.alrn with last := some t, seen := r.test.seen } }

/-- The slot of x's test, if one runs, is answered when the test ends. -/
def Part.testAnswered : Bool := (p.arm x).test.slot.any (p.answerable x)

/-- The final writes of x's test when it ends with the result `t`. -/
def Part.testOps (t : TestResult) : List MemOp :=
  match (p.arm x).test.slot with
  | some slot => p.resultOps x slot t.verdict (.test t)
  | none => []

theorem Part.recordTest_eq (t : TestResult) :
    p.recordTest x t = p.acts x ((((p.arm x).recorded t).due p.marksKept).replied (p.testAnswered x))
      (causeBit .test) (p.testOps x t) := by
  have h : ((p.updTest x fun u => { u.toIdle with alrn := t.alrn, last := some t }).setCause .test).markDue x =
      p.acts x (((p.arm x).recorded t).due p.marksKept) (causeBit .test) [] := by
    rw [Part.updTest_eq, Part.updArm_eq_acts, Part.acts_setCause, Part.markDue_eq]
    simp [ArmPart.recorded, resetTest, TestUnit.toIdle]
  unfold Part.recordTest
  dsimp only
  rw [h, Part.testOps, Part.testAnswered]
  cases (p.arm x).test.slot with
  | none => simp
  | some slot =>
    simp [Part.handResult_eq, ArmPart.due, ArmPart.recorded, ArmPart.replied]


/-- The slot of the test that an escalation aborts, if one runs, is answered. -/
def Part.abortReplies : Bool := decide ((p.arm x).test.phase = .braking) && p.testAnswered x

/-- The final writes of the test that an escalation aborts, if one runs (R116). -/
def Part.abortOps (cause : StopCause) : List MemOp :=
  if (p.arm x).test.phase = .braking
    then p.testOps x (unmeasured .testAborted cause (p.arm x).test.v0 (p.arm x).test.alrn) else []

/-- The cause flags of an arm that is stopped: ARM_x, and TEST with a test that runs (R90, R116). -/
def Part.stopFlags : Word :=
  causeBit (armCause x) ||| if (p.arm x).test.phase = .braking then causeBit .test else 0

theorem armCause_again (flags : Word) :
    causeBit (armCause x) ||| flags ||| causeBit (armCause x) = causeBit (armCause x) ||| flags := by
  rw [BitVec.or_comm, ← BitVec.or_assoc, BitVec.or_self]

/-- An arm is stopped: the spec's escalated arm, its status block due, and the abort of its test (R98, R116). -/
theorem Part.enterStopped_eq (cause : StopCause) :
    p.enterStopped x cause = p.acts x ((((p.arm x).escalated cause).due p.marksKept).replied (p.abortReplies x))
      (p.stopFlags x) (p.abortOps x cause) := by
  unfold Part.enterStopped Part.abortTest Part.abortReplies Part.stopFlags Part.abortOps
  rw [Part.updGuard_eq, Part.updArm_eq_acts, Part.updLink_eq, Part.updArm_eq_acts, Part.clearCapped_eq,
    Part.guardChanged_eq]
  by_cases hb : (p.arm x).test.phase = .braking
  · cases hr : (p.arm x).guard.reasons.test <;>
      simp [hb, hr, Part.recordTest_eq, Part.clearReason_eq, ArmPart.due, ArmPart.replied, ArmPart.uncapped,
        ArmPart.recorded, ArmPart.withReason, Reasons.has, Reasons.put, ArmPart.escalated, Link.dropLoosening,
        Part.testAnswered, Part.testOps, unmeasured, armCause_again]
  · simp [hb, ArmPart.due, ArmPart.replied, ArmPart.uncapped, ArmPart.escalated, Link.dropLoosening]

theorem Part.leaveAdmission_eq (cause : Option StopCause) :
    p.leaveAdmission x cause = p.acts x
      (((p.arm x).admissionEnded ((p.arm x).guard.prior.getD .offline) cause).due p.marksKept)
      (causeBit (armCause x)) [] := by
  unfold Part.leaveAdmission
  rw [Part.updGuard_eq, Part.updArm_eq_acts, Part.updLink_eq, Part.updArm_eq_acts, Part.clearCapped_eq,
    Part.guardChanged_eq]
  simp [ArmPart.due, ArmPart.uncapped, ArmPart.admissionEnded, Link.dropLoosening]

/-- What an escalation leaves as stop cause of an arm whose admission fails; the window leaves none (R104). -/
def AdmissionFailure.stopCause : AdmissionFailure → Option StopCause
  | .window => none
  | .escalation c => some c

/-- The slot of x's admission is answered when the admission ends. -/
def Part.admissionAnswered : Bool := (p.arm x).guard.admissionSlot.any (p.answerable x)

/-- The final writes of x's admission when it fails (R104). -/
def Part.failOps (f : AdmissionFailure) : List MemOp :=
  match (p.arm x).guard.admissionSlot with
  | some slot => p.resultOps x slot .admitFailed ((p.arm x).guard.admitFailedFigures f)
  | none => []

theorem Part.failAdmission_eq (f : AdmissionFailure) :
    p.failAdmission x f = p.acts x
      ((((p.arm x).admissionEnded ((p.arm x).guard.prior.getD .offline) f.stopCause).due p.marksKept).replied
        (p.admissionAnswered x))
      (causeBit (armCause x)) (p.failOps x f) := by
  cases hs : (p.arm x).guard.admissionSlot with
  | none =>
    cases f <;> simp [Part.failAdmission, Part.failOps, Part.admissionAnswered, hs, Part.leaveAdmission_eq,
      AdmissionFailure.stopCause]
  | some slot =>
    cases f <;> simp [Part.failAdmission, Part.failOps, Part.admissionAnswered, hs, Part.leaveAdmission_eq,
      AdmissionFailure.stopCause, Part.handResult_eq, ArmPart.due, ArmPart.replied, ArmPart.admissionEnded]

end

end Sys2Proof.Machine

/-! SUPPORT. The laws of the guards and the stop test units as a law of one arm's share (R86, R92, R100, R108). -/

namespace Sys2Proof.Machine

/-- SERVING or FAULTED. -/
def EngineState.guards (e : EngineState) : Bool := e == .serving || e == .faulted

/-- A guard outside HELD: no hold goes on. -/
def Guard.noHold (g : Guard) : Prop := g.phase = .none ∧ g.ackTimer = none

/-- A guard outside ADMITTING: nothing of an admission is there. -/
def Guard.noAdmission (g : Guard) : Prop :=
  g.prior = none ∧ g.admissionSlot = none ∧ g.windowTimer = none ∧ g.count = 0 ∧ g.unpaired = []

/-- A unit that runs no test holds nothing of one (R108). -/
def TestUnit.rests (u : TestUnit) : Prop :=
  u.phase = .idle ∧ u.slot = none ∧ u.p0 = originPos ∧ u.t0 = 0 ∧ u.v0 = 0 ∧ u.slow = 0 ∧ u.timer = none

/-- A unit that runs a test (R111, R112). -/
def TestUnit.runs (u : TestUnit) : Prop :=
  u.phase = .braking ∧ u.slot ≠ none ∧ u.timer ≠ none ∧ u.slow ≤ 1

/-- The law of an arm's guard, monitor cap and stop test unit in engine state `e`, by guard state. -/
def ArmPart.GuardOk (r : ArmPart) (e : EngineState) : Prop :=
  match r.guard.state with
  | .offline => r.guard.noHold ∧ r.guard.noAdmission ∧ r.monitor.capped = false ∧ r.test.rests
  | .stopped => r.guard.noHold ∧ r.guard.noAdmission ∧ r.monitor.capped = false ∧ r.test.rests
  | .admitting => r.guard.noHold ∧ r.monitor.capped = false ∧ r.test.rests ∧ e = .serving ∧
      (r.guard.prior = some .offline ∨ r.guard.prior = some .stopped) ∧ r.guard.admissionSlot ≠ none ∧
      r.guard.windowTimer ≠ none
  | .running => r.guard.noHold ∧ r.guard.noAdmission ∧ r.test.rests ∧ e.guards = true ∧ r.guard.reasons = noReasons
  | .held => r.guard.noAdmission ∧ e.guards = true ∧ r.guard.reasons ≠ noReasons ∧ r.guard.phase ≠ .none ∧
      (r.guard.ackTimer ≠ none ↔ r.guard.phase = .awaiting) ∧
      (r.test.rests ∨ (r.test.runs ∧ r.guard.reasons.test = true))

theorem Part.guarding_eq (p : Part) : p.guarding = p.engine.guards := rfl

theorem TestUnit.phase_iff (u : TestUnit) : u.phase = .idle ∨ u.phase = .braking := by
  cases u.phase <;> simp

theorem Part.guardOk_iff (p : Part) (x : Arm) : p.guardLaw x ∧ p.testLaw x ↔ (p.arm x).GuardOk p.engine := by
  unfold Part.guardLaw Part.testLaw
  simp only [Part.guarding_eq]
  generalize p.arm x = r
  generalize p.engine = e
  unfold ArmPart.GuardOk
  simp only [Option.isSome_iff_ne_none]
  cases hs : r.guard.state with
  | offline => grind [GuardState.inService, Guard.noHold, Guard.noAdmission, TestUnit.rests, TestUnit.phase_iff]
  | stopped => grind [GuardState.inService, Guard.noHold, Guard.noAdmission, TestUnit.rests, TestUnit.phase_iff]
  | admitting => grind [GuardState.inService, Guard.noHold, Guard.noAdmission, TestUnit.rests, TestUnit.phase_iff]
  | running => grind [GuardState.inService, Guard.noHold, Guard.noAdmission, TestUnit.rests, TestUnit.phase_iff]
  | held =>
    constructor
    · intro h
      grind [GuardState.inService, Guard.noAdmission, TestUnit.rests, TestUnit.runs, TestUnit.phase_iff]
    · rintro ⟨⟨hprior, hslot, hwin, hcount, hun⟩, he, hr, hp, hack, ht | ⟨ht, htest⟩⟩
      · obtain ⟨ht1, ht2, ht3, ht4, ht5, ht6, ht7⟩ := ht
        simp_all [GuardState.inService]
      · obtain ⟨ht1, ht2, ht3, ht4⟩ := ht
        simp_all [GuardState.inService]

/-! ## The law under the moves of one arm's blocks -/

section
variable {r : ArmPart} {e : EngineState}

theorem Reasons.put_true_ne (s : Reasons) (q : HoldReason) : s.put true q ≠ noReasons := by
  cases q <;> simp [Reasons.put, noReasons]

theorem ArmPart.GuardOk.rests (h : r.GuardOk e) (hs : r.guard.state ≠ .held) : r.test.rests := by
  unfold ArmPart.GuardOk at h
  cases hst : r.guard.state <;> simp_all

theorem ArmPart.GuardOk.guards (h : r.GuardOk e) (hs : r.guard.state.inService = true) : e.guards = true := by
  unfold ArmPart.GuardOk at h
  cases hst : r.guard.state <;> simp_all [GuardState.inService]

/-- A test runs only with TEST in the set; so without TEST the unit rests. -/
theorem ArmPart.GuardOk.rests_of_test (h : r.GuardOk e) (ht : r.guard.reasons.test = false) : r.test.rests := by
  unfold ArmPart.GuardOk at h
  cases hst : r.guard.state <;> simp_all

/-- A hold starts from RUNNING. -/
theorem ArmPart.GuardOk.holds (h : r.GuardOk e) (hs : r.guard.state = .running) (p : Part) (q : HoldReason) :
    (p.holdsArm r q).GuardOk e := by
  simp only [ArmPart.GuardOk, hs] at h
  obtain ⟨-, ha, ht, he, -⟩ := h
  simp [ArmPart.GuardOk, Part.holdsArm, Reasons.put_true_ne, he]
  exact ⟨ha, .inl ht⟩

/-- A reason joins the set of a guard that stays. -/
theorem ArmPart.GuardOk.withReason (h : r.GuardOk e) (hs : r.guard.state ≠ .running) (q : HoldReason) :
    (r.withReason true q).GuardOk e := by
  unfold ArmPart.GuardOk at h ⊢
  simp only [ArmPart.withReason]
  cases hst : r.guard.state <;> simp only [hst] at h ⊢
  case running => exact absurd hst hs
  case held =>
    obtain ⟨ha, he, -, hp, hk, ht⟩ := h
    refine ⟨ha, he, Reasons.put_true_ne _ q, hp, hk, ht.imp_right fun ⟨h1, h2⟩ => ⟨h1, ?_⟩⟩
    cases q <;> simp [Reasons.put, h2]
  all_goals exact h

/-- The last reason goes and the guard resumes; TEST goes only once no test runs. -/
theorem ArmPart.GuardOk.resumed (h : r.GuardOk e) (hs : r.guard.state = .held) (q : HoldReason)
    (he : r.guard.reasons.put false q = noReasons) (ht : q = .test → r.test.rests) : (r.resumed q).GuardOk e := by
  have hrest : r.test.rests := by
    by_cases hq : q = .test
    · exact ht hq
    · refine h.rests_of_test ?_
      have := congrArg Reasons.test he
      cases q <;> simp_all [Reasons.put, noReasons]
  simp only [ArmPart.GuardOk, hs] at h
  obtain ⟨ha, hg, -⟩ := h
  exact ⟨⟨rfl, rfl⟩, ha, hrest, hg, he⟩

/-- A reason goes and the guard stays. -/
theorem ArmPart.GuardOk.withoutReason (h : r.GuardOk e) (q : HoldReason)
    (hs : ¬ (r.guard.state = .held ∧ r.guard.reasons.put false q = noReasons)) (ht : q = .test → r.test.rests) :
    (r.withReason false q).GuardOk e := by
  unfold ArmPart.GuardOk at h ⊢
  simp only [ArmPart.withReason]
  cases hst : r.guard.state <;> simp only [hst] at h ⊢
  case held =>
    obtain ⟨ha, he, -, hp, hk, hu⟩ := h
    refine ⟨ha, he, fun hn => hs ⟨hst, hn⟩, hp, hk, ?_⟩
    by_cases hq : q = .test
    · exact .inl (ht hq)
    · refine hu.imp_right fun ⟨h1, h2⟩ => ⟨h1, ?_⟩
      cases q <;> simp_all [Reasons.put]
  case running =>
    obtain ⟨h1, h2, h3, h4, h5⟩ := h
    refine ⟨h1, h2, h3, h4, ?_⟩
    rw [h5]; cases q <;> rfl
  all_goals exact h

theorem resetTest_rests (alrn : Nat) : (resetTest alrn).rests := ⟨rfl, rfl, rfl, rfl, rfl, rfl, rfl⟩

/-- An arm in service is stopped. -/
theorem ArmPart.GuardOk.escalated (h : r.GuardOk e) (hs : r.guard.state.inService = true) (c : StopCause) :
    (r.escalated c).GuardOk e := by
  have ha : r.guard.noAdmission := by
    unfold ArmPart.GuardOk at h
    cases hst : r.guard.state <;> simp_all [GuardState.inService]
  unfold ArmPart.escalated
  dsimp only
  split
  · exact ⟨⟨rfl, rfl⟩, ha, rfl, rfl, rfl, rfl, rfl, rfl, rfl, rfl⟩
  · next hb =>
    refine ⟨⟨rfl, rfl⟩, ha, rfl, ?_⟩
    by_cases hh : r.guard.state = .held
    · simp only [ArmPart.GuardOk, hh] at h
      obtain ⟨-, -, -, -, -, ht | ⟨⟨ht, -⟩, -⟩⟩ := h
      · exact ht
      · exact absurd ht hb
    · exact h.rests hh

/-- An admission ends without success. -/
theorem ArmPart.GuardOk.admissionEnded (h : r.GuardOk e) (hs : r.guard.state = .admitting) (c : Option StopCause) :
    ∀ e', (r.admissionEnded (r.guard.prior.getD .offline) c).GuardOk e' := by
  intro e'
  simp only [ArmPart.GuardOk, hs] at h
  obtain ⟨hh, -, ht, -, hp | hp, -⟩ := h <;> rw [hp] <;>
    exact ⟨hh, ⟨rfl, rfl, rfl, rfl, rfl⟩, rfl, ht⟩

/-- A test ends with its result recorded. -/
theorem ArmPart.GuardOk.recorded (h : r.GuardOk e) (t : TestResult) : (r.recorded t).GuardOk e := by
  unfold ArmPart.GuardOk at h ⊢
  have ht : (r.recorded t).test.rests := ⟨rfl, rfl, rfl, rfl, rfl, rfl, rfl⟩
  cases hst : r.guard.state <;> simp only [hst, ArmPart.recorded] at h ⊢
  case offline => exact ⟨h.1, h.2.1, h.2.2.1, ht⟩
  case stopped => exact ⟨h.1, h.2.1, h.2.2.1, ht⟩
  case admitting => exact ⟨h.1, h.2.1, ht, h.2.2.2⟩
  case running => exact ⟨h.1, h.2.1, ht, h.2.2.2⟩
  case held => exact ⟨h.1, h.2.1, h.2.2.1, h.2.2.2.1, h.2.2.2.2.1, .inl ht⟩

/-- An OFFLINE guard with nothing in it is lawful in every engine state. -/
theorem ArmPart.GuardOk.of_reset (hs : r.guard.state = .offline) (hh : r.guard.noHold) (ha : r.guard.noAdmission)
    (hc : r.monitor.capped = false) (ht : r.test.rests) (e' : EngineState) : r.GuardOk e' := by
  simp only [ArmPart.GuardOk, hs]
  exact ⟨hh, ha, hc, ht⟩

end

end Sys2Proof.Machine

/-! SUPPORT. The operations of the arbiter and of the exchange engine leave the guards, the monitors, the stop test units
and the links alone. -/

namespace Sys2Proof.Machine

/-- The arm's share without what the arbiter keeps of it and without its chain's marks and walk. -/
def ArmPart.blocks (r : ArmPart) : ArmPart :=
  { r with
    claims := []
    parkCount := 0
    waiting := none
    chain := { resetChain with cursor := r.chain.cursor, openSlot := r.chain.openSlot } }

/-- The part without the arbiter's records, the chains' marks and walks, the named cause flags and, while SERVING, the
engine's queue. -/
def Part.blocks (p : Part) : Part :=
  { p with
    armA := p.armA.blocks, armB := p.armB.blocks, table := clearedTable 0 0 0
    opQueue := if p.engine = .serving then [] else p.opQueue, cause := p.cause &&& ~~~causeBits }

theorem causeBit_stray (c : Cause) : causeBit c &&& ~~~causeBits = 0 := by cases c <;> rfl

theorem or_stray (a : Word) {flags : Word} (h : flags &&& ~~~causeBits = 0) :
    (a ||| flags) &&& ~~~causeBits = a &&& ~~~causeBits := by
  ext i hi
  have hf : (flags &&& ~~~causeBits)[i] = false := by rw [h]; simp
  simp only [BitVec.getElem_and, BitVec.getElem_or] at hf ⊢
  rw [Bool.and_or_distrib_right, hf, Bool.or_false]

section
variable (p : Part) (x : Arm)

@[simp] theorem Part.blocks_arm (y : Arm) : p.blocks.arm y = (p.arm y).blocks := by cases y <;> rfl

theorem Part.arm_blocks_of_blocks {p q : Part} (h : q.blocks = p.blocks) (y : Arm) :
    (q.arm y).blocks = (p.arm y).blocks := by
  rw [← Part.blocks_arm, ← Part.blocks_arm, h]

theorem Part.engine_of_blocks {p q : Part} (h : q.blocks = p.blocks) : q.engine = p.engine :=
  show q.blocks.engine = p.blocks.engine by rw [h]

theorem Part.blocks_updArm (f : ArmPart → ArmPart) (h : (f (p.arm x)).blocks = (p.arm x).blocks) :
    (p.updArm x f).blocks = p.blocks := by
  cases x
  · have ha : (f p.armA).blocks = p.armA.blocks := h
    unfold Part.blocks Part.updArm; dsimp only; rw [ha]
  · have hb : (f p.armB).blocks = p.armB.blocks := h
    unfold Part.blocks Part.updArm; dsimp only; rw [hb]

@[simp] theorem Part.blocks_setCause (c : Cause) : (p.setCause c).blocks = p.blocks := by
  have h : (p.setCause c).cause &&& ~~~causeBits = p.cause &&& ~~~causeBits := or_stray _ (causeBit_stray c)
  unfold Part.blocks; rw [h]; rfl

@[simp] theorem Part.blocks_queueOp (op : MemOp) (he : p.engine = .serving) : (p.queueOp op).blocks = p.blocks := by
  simp [Part.blocks, Part.queueOp, he]

@[simp] theorem Part.blocks_setTable (t : CellTable) : (p.setTable t).blocks = p.blocks := rfl
@[simp] theorem Part.blocks_setClaim (n : Nat) (c : Claim) : (p.setClaim x n c).blocks = p.blocks :=
  p.blocks_updArm x _ rfl
@[simp] theorem Part.blocks_setParkCount (n : Nat) : (p.setParkCount x n).blocks = p.blocks := p.blocks_updArm x _ rfl
@[simp] theorem Part.blocks_setWaiting (w : Option PendingReserve) : (p.setWaiting x w).blocks = p.blocks :=
  p.blocks_updArm x _ rfl

@[simp] theorem Part.blocks_markDue : (p.markDue x).blocks = p.blocks := by
  obtain ⟨-, e⟩ | ⟨-, e⟩ := p.markDue_cases x <;> rw [e]
  exact p.blocks_updArm x _ rfl

@[simp] theorem Part.blocks_markChanged : (p.markChanged x).blocks = p.blocks := by
  obtain ⟨-, e⟩ | ⟨-, e⟩ := p.markChanged_cases x <;> rw [e]
  exact p.blocks_updArm x _ rfl

@[simp] theorem Part.blocks_handResult (slot : Nat) (v : Verdict) (f : ResultFigures) :
    (p.handResult x slot v f).blocks = p.blocks := by
  obtain ⟨⟨he, -⟩, e⟩ | ⟨-, e⟩ := p.handResult_cases x slot v f <;> rw [e]
  rw [Part.blocks_queueOp _ _ (by simp [Part.updChain_eq, he]), Part.blocks_queueOp _ _ (by simp [Part.updChain_eq, he])]
  exact p.blocks_updArm x _ rfl

@[simp] theorem Part.blocks_waitingNotice (slot : Nat) (f : ResultFigures) :
    (p.waitingNotice x slot f).blocks = p.blocks := by
  obtain ⟨he, e⟩ | ⟨-, e⟩ := p.waitingNotice_cases x slot f <;> rw [e]
  simp [he]

/-! ## The arbiter (R23, R24, R36 to R39, R45 to R54) -/

@[simp] theorem Part.blocks_fillClaim (n : Nat) (c : Claim) : (p.fillClaim x n c).blocks = p.blocks := by
  simp [Part.fillClaim]

@[simp] theorem Part.blocks_endWaiting (v : Verdict) : (p.endWaiting x v).blocks = p.blocks := by
  obtain ⟨w, -, e⟩ | ⟨-, e⟩ := p.endWaiting_cases x v <;> rw [e]
  simp

@[simp] theorem Part.blocks_reevaluateArm : (p.reevaluateArm x).blocks = p.blocks := by
  obtain ⟨-, e⟩ | ⟨w, n, -, -, -, -, e⟩ | ⟨w, -, -, e⟩ := p.reevaluateArm_cases x <;> rw [e] <;> simp

@[simp] theorem Part.blocks_reevaluate : p.reevaluate.blocks = p.blocks := by
  simp [Part.reevaluate, Part.bothArms]

@[simp] theorem Part.blocks_reevaluateIf (n : Nat) : (p.reevaluateIf n).blocks = p.blocks := by
  unfold Part.reevaluateIf; split <;> simp

@[simp] theorem Part.blocks_releaseClaim (n : Nat) : (p.releaseClaim x n).blocks = p.blocks := by
  simp [Part.releaseClaim]

@[simp] theorem Part.blocks_parkClaim (n : Nat) : (p.parkClaim x n).blocks = p.blocks := by
  obtain ⟨-, e⟩ | ⟨-, e⟩ := p.parkClaim_cases x n <;> rw [e]
  simp

theorem Part.blocks_foldl (f : Part → Nat → Part) (h : ∀ q n, (f q n).blocks = q.blocks) (l : List Nat) :
    (l.foldl f p).blocks = p.blocks := by
  induction l generalizing p with
  | nil => rfl
  | cons n rest ih => rw [List.foldl_cons, ih, h]

@[simp] theorem Part.blocks_parkClaims : (p.parkClaims x).blocks = p.blocks := by
  rw [Part.parkClaims, Part.blocks_markDue, Part.blocks_foldl _ _ fun q n => q.blocks_parkClaim x n]

@[simp] theorem Part.blocks_growPark (cells : List Nat) : (p.growPark x cells).blocks = p.blocks := by
  unfold Part.growPark; dsimp only; split <;> simp

@[simp] theorem Part.blocks_unpark (gone : List Nat) : (p.unpark x gone).blocks = p.blocks := by
  unfold Part.unpark; split <;> simp

@[simp] theorem Part.blocks_trim (cells : Option CellBox) : (p.trim x cells).blocks = p.blocks := by
  simp [Part.trim]

@[simp] theorem Part.blocks_crossingCheck : p.crossingCheck.blocks = p.blocks := by
  unfold Part.crossingCheck
  split
  · split <;> simp
  · rfl

@[simp] theorem Part.blocks_leaveClaim (cells : Option CellBox) (n : Nat) :
    (p.leaveClaim x cells n).blocks = p.blocks := by
  unfold Part.leaveClaim
  dsimp only
  split
  · split
    · split <;> simp
    · split
      · split <;> simp
      · rfl
  · rfl

@[simp] theorem Part.blocks_leaveEvaluation (r : Report) : (p.leaveEvaluation x r).blocks = p.blocks := by
  unfold Part.leaveEvaluation
  rw [Part.blocks_foldl _ _ fun q n => q.blocks_leaveClaim x r.cells n]
  split
  · exact p.blocks_updArm x _ rfl
  · rfl

/-! ## Walks and status blocks (R143, R144, R155) -/

theorem Part.blocks_tryCandidate (slot : Nat) (he : p.engine = .serving) :
    (p.tryCandidate x slot).1.blocks = p.blocks := by
  obtain ⟨-, e⟩ | ⟨-, e⟩ := p.tryCandidate_cases x slot <;> rw [e]
  · simp
  · rw [Part.blocks_queueOp _ _ (by simp [Part.updChain_eq, he])]
    exact p.blocks_updArm x _ rfl

theorem Part.blocks_beginWalk (he : p.engine = .serving) : (p.beginWalk x).1.blocks = p.blocks := by
  obtain ⟨-, e⟩ | ⟨-, -, e⟩ | ⟨slot, -, -, e⟩ := p.beginWalk_cases x <;> rw [e]
  · exact p.blocks_tryCandidate x _ he
  · rw [Part.blocks_queueOp _ _ (by simp [Part.updChain_eq, he])]
    exact p.blocks_updArm x _ rfl

theorem Part.blocks_endWalk (he : p.engine = .serving) : (p.endWalk x).blocks = p.blocks := by
  unfold Part.endWalk
  split
  · rw [Part.blocks_beginWalk _ _ (by simp [Part.updChain_eq, he])]; exact p.blocks_updArm x _ rfl
  · exact p.blocks_updArm x _ rfl

@[simp] theorem Part.blocks_prompt : (p.prompt x).blocks = p.blocks := by
  obtain ⟨-, e⟩ | ⟨he, -, e⟩ | ⟨-, -, e⟩ := p.prompt_cases x <;> rw [e]
  · exact p.blocks_beginWalk x he
  · exact p.blocks_updArm x _ rfl

@[simp] theorem Part.blocks_promptBoth (first : Arm) : (p.promptBoth first).blocks = p.blocks := by
  simp [Part.promptBoth, Part.bothArms]

theorem Part.blocks_takeNext (next : Byte) (he : p.engine = .serving) : (p.takeNext x next).blocks = p.blocks := by
  have h := p.blocks_tryCandidate x next.toNat he
  unfold Part.takeNext
  split
  · exact p.blocks_endWalk x he
  · split
    · split
      · next q hq => rw [hq] at h; exact h
      · next q hq =>
        rw [hq] at h
        rw [Part.blocks_endWalk _ _ ((Part.engine_of_blocks h).trans he)]; exact h
    · rw [Part.blocks_endWalk _ _ (by simp [he]), Part.blocks_setCause]

theorem Part.blocks_queueStatus (he : p.engine = .serving) : (p.queueStatus x).blocks = p.blocks := by
  rw [Part.queueStatus, Part.blocks_queueOp _ _ (by simp [Part.updChain_eq, he])]
  exact p.blocks_updArm x _ rfl

@[simp] theorem Part.blocks_publish : (p.publish x).blocks = p.blocks := by
  obtain ⟨⟨he, -⟩, e⟩ | ⟨-, e⟩ := p.publish_cases x <;> rw [e]
  exact p.blocks_queueStatus x he

@[simp] theorem Part.blocks_publishChanged : (p.publishChanged x).blocks = p.blocks := by
  unfold Part.publishChanged; split <;> simp

/-! ## Requests that concern claims alone (R42 to R48, R161 to R164) -/

@[simp] theorem Part.blocks_startWaiting (slot : Nat) (f : SlotFields) (m : ClaimMode) (b : CellBox) (l : List Nat) :
    (p.startWaiting x slot f m b l).blocks = p.blocks := by
  simp [Part.startWaiting]

@[simp] theorem Part.blocks_evaluateReserve (slot : Nat) (f : SlotFields) (m : ClaimMode) (b : CellBox) (n : Nat) :
    (p.evaluateReserve x slot f m b n).blocks = p.blocks := by
  unfold Part.evaluateReserve
  split
  · simp
  · split <;> simp

@[simp] theorem Part.blocks_reserve (slot : Nat) (f : SlotFields) : (p.reserve x slot f).blocks = p.blocks := by
  unfold Part.reserve
  repeat' split
  all_goals simp

@[simp] theorem Part.blocks_release (slot : Nat) (tag : Half) : (p.release x slot tag).blocks = p.blocks := by
  unfold Part.release
  dsimp only
  repeat' split
  all_goals simp

end

end Sys2Proof.Machine

/-! SUPPORT. The park limit, withdrawals, admissions and stop tests as exact effects (R29, R58, R102 to R104, R110 to R117). -/

namespace Sys2Proof.Machine

/-! ## Admissions (R102, R103) -/

section
variable (p : Part) (x : Arm)

/-- The part when admission success has settled the park claim and the reasons (R103 steps 1 to 3). -/
def Part.admissionReasons (cells : Option CellBox) : Part :=
  ((p.trim x cells).updGuard x fun g => { g with reasons := g.reasons.afterAdmission }).compareParkLimit x

/-- The arm that enters service: RUNNING, or HELD when reasons are left, with UNCAP queued and nothing left of the
admission (R103 steps 4 to 6). -/
def Part.admitsArm (r : ArmPart) : ArmPart :=
  let g := { r.guard with
    stopCause := .none, windowTimer := none, admissionSlot := none, prior := none, count := 0, unpaired := [] }
  if r.guard.reasons = noReasons then
    { r with guard := { g with state := .running }, link := r.link.queueSpeed .uncap }
  else
    { r with
      guard := { g with state := .held, phase := .awaiting, ackTimer := p.afterMs p.figures.holdAckWindow }
      link := Link.queueSpeed { r.link.queueStop .hold with repeatTimer := p.afterMs p.figures.holdRepeat } .uncap }

/-- The final writes of a result for the slot of a request, none without one. -/
def Part.slotOps (slot : Option Nat) (v : Verdict) (f : ResultFigures) : List MemOp :=
  match slot with
  | some s => p.resultOps x s v f
  | none => []

/-- What ADMITTED reports of the arm (R103). -/
def ArmPart.admittedFigures (r : ArmPart) : ResultFigures :=
  .readmit r.guard.state r.guard.reasons r.parkCount .offline 0 0 false

theorem Part.admissionSuccess_eq (cells : Option CellBox) :
    p.admissionSuccess x cells =
      let q := p.admissionReasons x cells
      let u := q.admitsArm (q.arm x)
      let slot := (p.arm x).guard.admissionSlot
      q.acts x ((u.due q.marksKept).replied (slot.any (q.answerable x))) (causeBit (armCause x))
        (q.slotOps x slot .admitted u.admittedFigures) := by
  unfold Part.admissionSuccess
  dsimp only
  rw [← Part.admissionReasons]
  generalize p.admissionReasons x cells = q
  by_cases hr : (q.arm x).guard.reasons = noReasons <;> cases hs : (p.arm x).guard.admissionSlot <;>
    simp [Part.enterHeld, Part.updGuard_eq, Part.updLink_eq, Part.updArm_eq_acts, Part.guardChanged_eq, hr,
      Reasons.empty, Part.admitsArm, Part.slotOps, Part.handResult_eq, ArmPart.due, ArmPart.replied,
      ArmPart.admittedFigures]

end

section
variable (p : Part) (x : Arm)

/-- The reasons of an arm once its park count has been compared with the park limit (R29). -/
def Part.parkReasons (r : ArmPart) : Reasons :=
  { r.guard.reasons with
    park := if p.figures.parkLimit = 255 then r.guard.reasons.park else decide (p.figures.parkLimit < r.parkCount) }

/-- The arm's share with another hold-reason set. -/
def ArmPart.withReasons (r : ArmPart) (s : Reasons) : ArmPart := { r with guard := { r.guard with reasons := s } }

@[simp] theorem ArmPart.withReasons_self (r : ArmPart) : r.withReasons r.guard.reasons = r := rfl

/-- Whether the comparison with the park limit changes the set. -/
def Part.parkMoves (r : ArmPart) : Bool := decide (p.parkReasons r ≠ r.guard.reasons)

/-- The comparison with the park limit puts PARK in the set, or takes it out, or changes nothing (R29). -/
theorem Part.compareParkLimit_moves :
    (p.parkReasons (p.arm x) = (p.arm x).guard.reasons ∧ p.compareParkLimit x = p) ∨
    ((p.arm x).guard.reasons.park = false ∧ p.parkReasons (p.arm x) = (p.arm x).guard.reasons.put true .park ∧
      p.compareParkLimit x = p.addReason x .park) ∨
    ((p.arm x).guard.reasons.park = true ∧ p.parkReasons (p.arm x) = (p.arm x).guard.reasons.put false .park ∧
      p.compareParkLimit x = p.removeReason x .park) := by
  obtain ⟨hl, e⟩ | ⟨hl, hc, e⟩ | ⟨hl, hc, e⟩ := p.compareParkLimit_cases x <;> rw [e]
  · exact .inl ⟨by simp [Part.parkReasons, hl], rfl⟩
  · have he : p.parkReasons (p.arm x) = (p.arm x).guard.reasons.put true .park := by
      simp [Part.parkReasons, hl, hc, Reasons.put]
    cases hq : (p.arm x).guard.reasons.park with
    | true => exact .inl ⟨he.trans (Reasons.put_of_has _ _ _ hq), p.addReason_present x _ hq⟩
    | false => exact .inr (.inl ⟨rfl, he, rfl⟩)
  · have he : p.parkReasons (p.arm x) = (p.arm x).guard.reasons.put false .park := by
      simp [Part.parkReasons, hl, Nat.not_lt.mpr hc, Reasons.put]
    cases hq : (p.arm x).guard.reasons.park with
    | false => exact .inl ⟨he.trans (Reasons.put_of_has _ _ _ hq), p.removeReason_absent x _ hq⟩
    | true => exact .inr (.inr ⟨rfl, he, rfl⟩)

/-- The comparison at a guard that is neither RUNNING nor HELD changes the set alone. -/
theorem Part.compareParkLimit_staying (hr : (p.arm x).guard.state ≠ .running) (hh : (p.arm x).guard.state ≠ .held) :
    p.compareParkLimit x = p.acts x
      (((p.arm x).withReasons (p.parkReasons (p.arm x))).due (p.marksKept && p.parkMoves (p.arm x)))
      (if p.parkMoves (p.arm x) then causeBit (armCause x) else 0) [] := by
  obtain ⟨he, e⟩ | ⟨hq, he, e⟩ | ⟨hq, he, e⟩ := p.compareParkLimit_moves x <;> rw [e]
  · have hm : p.parkMoves (p.arm x) = false := by simp [Part.parkMoves, he]
    simp [hm, he]
  · have hm : p.parkMoves (p.arm x) = true := by
      rw [Part.parkMoves, he, decide_eq_true_eq]
      intro h; have := congrArg Reasons.park h; simp [hq, Reasons.put] at this
    rw [p.addReason_staying x .park hq hr, hm, he]; simp [ArmPart.withReason, ArmPart.withReasons]
  · have hm : p.parkMoves (p.arm x) = true := by
      rw [Part.parkMoves, he, decide_eq_true_eq]
      intro h; have := congrArg Reasons.park h; simp [hq, Reasons.put] at this
    rw [p.removeReason_staying x .park hq (fun h => hh h.1), hm, he]; simp [ArmPart.withReason, ArmPart.withReasons]

/-- The arm's share once its open request is withdrawn: no RESERVE is pending and no test runs (R58, R117). -/
def ArmPart.withdrawn (r : ArmPart) : ArmPart :=
  let r := { r with waiting := none }
  if r.test.phase = .braking then
    { r.withReason false .test with
      test := { resetTest r.test.alrn with last := some r.test.withdrawnResult, seen := r.test.seen } }
  else r

theorem ArmPart.withdrawn_waiting (r : ArmPart) : r.withdrawn.waiting = none := by
  unfold ArmPart.withdrawn; dsimp only; split <;> rfl

/-- The end of a pending RESERVE without a grant (R50, R53, R56, R58). -/
theorem Part.endWaiting_eq (w : PendingReserve) (v : Verdict) (hw : (p.arm x).waiting = some w) :
    p.endWaiting x v = p.acts x (({ p.arm x with waiting := none } : ArmPart).replied (p.answerable x w.slot)) 0
      (p.resultOps x w.slot v w.figures) := by
  rw [Part.endWaiting, hw]
  simp [Part.setWaiting_eq, Part.updArm_eq_acts, Part.handResult_eq]

theorem Part.endWaiting_none (v : Verdict) (hw : (p.arm x).waiting = none) : p.endWaiting x v = p := by
  simp [Part.endWaiting, hw]

/-- The withdrawal of a running test (R117). -/
theorem Part.withdrawTest_eq : ∃ k b flags, flags &&& ~~~causeBits = 0 ∧ p.withdrawTest x =
    p.acts x ((({ (p.arm x).withdrawn with waiting := (p.arm x).waiting } : ArmPart).due k).replied b) flags
      (if (p.arm x).test.phase = .braking
        then p.slotOps x (p.arm x).test.slot .withdrawn (.test (p.arm x).test.withdrawnResult) else []) := by
  by_cases hb : (p.arm x).test.phase = .braking
  · refine ⟨p.marksKept, (p.arm x).test.slot.any (p.answerable x),
      if (p.arm x).guard.reasons.test then causeBit (armCause x) else 0, ?_, ?_⟩
    · split
      · exact causeBit_stray _
      · rfl
    unfold Part.withdrawTest
    simp only [hb, if_true]
    rw [Part.updTest_eq, Part.updArm_eq_acts, Part.markDue_eq]
    cases hs : (p.arm x).test.slot <;> cases hr : (p.arm x).guard.reasons.test <;>
      simp [hb, hr, Part.handResult_eq, Part.clearReason_eq, Part.slotOps, ArmPart.due, ArmPart.replied, ArmPart.withdrawn,
        ArmPart.withReason, Reasons.has, Reasons.put, TestUnit.toIdle, resetTest, unmeasured, TestUnit.withdrawnResult]
  · refine ⟨false, false, 0, rfl, ?_⟩
    have hself : ({ (p.arm x).withdrawn with waiting := (p.arm x).waiting } : ArmPart) = p.arm x := by
      simp [ArmPart.withdrawn, hb]
    rw [hself]
    simp [Part.withdrawTest, hb]

/-- The final writes of x's pending RESERVE when it is withdrawn. -/
def Part.withdrawWaitingOps : List MemOp :=
  match (p.arm x).waiting with
  | some w => p.resultOps x w.slot .withdrawn w.figures
  | none => []

/-- The final writes of x's admission when it is withdrawn. -/
def Part.withdrawAdmissionOps : List MemOp :=
  if (p.arm x).guard.state = .admitting then p.slotOps x (p.arm x).guard.admissionSlot .withdrawn .none else []

/-- The final writes of x's test when it is withdrawn. -/
def Part.withdrawTestOps : List MemOp :=
  if (p.arm x).test.phase = .braking
    then p.slotOps x (p.arm x).test.slot .withdrawn (.test (p.arm x).test.withdrawnResult) else []

theorem Part.withdrawalOps_eq :
    p.withdrawalOps x = p.withdrawWaitingOps x ++ p.withdrawAdmissionOps x ++ p.withdrawTestOps x := by
  unfold Part.withdrawalOps Part.withdrawWaitingOps Part.withdrawAdmissionOps Part.withdrawTestOps
  simp only [Part.slotOps, Part.resultOps, Part.answerable_iff, PendingReserve.figures]
  cases (p.arm x).waiting <;> cases (p.arm x).guard.state <;> cases (p.arm x).guard.admissionSlot <;>
    cases (p.arm x).test.phase <;> cases (p.arm x).test.slot <;> simp

/-- The withdrawal of x's admission (R104). -/
def Part.withdrawAdmission : Part :=
  match (p.arm x).guard.state, (p.arm x).guard.admissionSlot with
  | .admitting, some s => p.handResult x s .withdrawn .none
  | _, _ => p

theorem Part.withdraw_steps :
    p.withdraw x = ((p.endWaiting x .withdrawn).withdrawAdmission x).withdrawTest x := rfl

theorem Part.withdrawWaiting_eq : ∃ b, p.endWaiting x .withdrawn =
    p.acts x (({ p.arm x with waiting := none } : ArmPart).replied b) 0 (p.withdrawWaitingOps x) := by
  unfold Part.withdrawWaitingOps
  cases hw : (p.arm x).waiting with
  | some w => exact ⟨_, p.endWaiting_eq x w _ hw⟩
  | none =>
    refine ⟨false, ?_⟩
    have : ({ p.arm x with waiting := none } : ArmPart) = p.arm x := by rw [← hw]
    simp [p.endWaiting_none x _ hw, this]

theorem Part.withdrawAdmission_eq : ∃ b, p.withdrawAdmission x =
    p.acts x ((p.arm x).replied b) 0 (p.withdrawAdmissionOps x) := by
  unfold Part.withdrawAdmission Part.withdrawAdmissionOps
  split
  · next slot hs hslot => exact ⟨p.answerable x slot, by simp [Part.handResult_eq, hs, hslot, Part.slotOps]⟩
  · next hno =>
    refine ⟨false, ?_⟩
    cases hslot : (p.arm x).guard.admissionSlot with
    | none => simp [Part.slotOps]
    | some slot =>
      have : (p.arm x).guard.state ≠ .admitting := fun h => hno slot h hslot
      simp [this]

/-- A withdrawal of x's open request is an effect on x alone: its blocks, some marks and the final writes of R58, R104
and R117. -/
theorem Part.withdraw_eq : ∃ k b flags, flags &&& ~~~causeBits = 0 ∧ p.withdraw x =
    p.acts x (((p.arm x).withdrawn.due k).replied b) flags (p.withdrawalOps x) := by
  obtain ⟨b, h⟩ := p.withdrawWaiting_eq x
  obtain ⟨b', h'⟩ := (p.endWaiting x .withdrawn).withdrawAdmission_eq x
  obtain ⟨k, b'', flags, hf, h''⟩ := ((p.endWaiting x .withdrawn).withdrawAdmission x).withdrawTest_eq x
  refine ⟨k, b || b' || b'', flags, hf, ?_⟩
  rw [Part.withdraw_steps, h'', h', h, Part.withdrawalOps_eq]
  by_cases hb : (p.arm x).test.phase = .braking <;>
    simp [hb, Part.withdrawAdmissionOps, Part.withdrawTestOps, Part.slotOps, ArmPart.replied, ArmPart.due,
      ArmPart.withdrawn, ArmPart.withReason, Bool.or_assoc]
end

/-! ## Stop tests (R110 to R117) -/

section
variable {p : Part} (x : Arm)

/-- An escalation leaves a unit that rests at rest. -/
theorem Part.escalate_rests (c : StopCause) (h : (p.arm x).test.rests) : ((p.escalate x c).arm x).test.rests := by
  have hb : (p.arm x).test.phase ≠ .braking := by rw [h.1]; simp
  obtain ⟨-, e⟩ | ⟨-, e⟩ | ⟨-, e⟩ := p.escalate_cases x c <;> rw [e]
  · rw [Part.enterStopped_eq, Part.acts_arm]
    simpa [ArmPart.replied, ArmPart.due, ArmPart.escalated, hb] using h
  · rw [Part.failAdmission_eq, Part.acts_arm]; exact h
  · exact h

theorem Part.recordTest_rests (t : TestResult) : ((p.recordTest x t).arm x).test.rests := by
  rw [Part.recordTest_eq, Part.acts_arm]; exact ⟨rfl, rfl, rfl, rfl, rfl, rfl, rfl⟩

/-- A STOP_TEST that passed its checks: the unit brakes and the arm starts to hold for TEST (R111). -/
def Part.testingArm (p : Part) (r : ArmPart) (slot : Nat) : ArmPart :=
  { p.holdsArm r .test with
    test := { r.test with
      phase := .braking, slot := some slot, p0 := r.test.seen.pos, t0 := r.test.seen.time, v0 := r.test.seen.speed
      slow := 0, timer := some (p.now + BitVec.ofNat 32 (p.figures.testWindow * 1000)) } }

theorem Part.startTest_eq (slot : Nat) (hs : (p.arm x).guard.state = .running)
    (ht : (p.arm x).guard.reasons.test = false) :
    p.startTest x slot = (p.acts x ((p.testingArm (p.arm x) slot).due p.marksKept) (causeBit (armCause x))
      []).waitingNotice x slot (.testStarted (p.arm x).test.seen.speed (p.arm x).test.seen.time) := by
  unfold Part.startTest
  dsimp only
  rw [Part.addReason_running _ x .test (by simpa [Part.updTest_eq, Reasons.has] using ht)
    (by simpa [Part.updTest_eq] using hs), Part.updTest_eq, Part.updArm_eq_acts]
  simp [Part.testingArm, Part.holdsArm, Part.afterMs, timerAt, ArmPart.due]

end

/-- The admission count after a frame with drive state `d` and answer `r` (R102). -/
def countAfter (count : Nat) (d : DriveState) (r : Answer) : Nat :=
  match d with
  | .moving => 0
  | .fault => count
  | .holding => if r.foreign then 0 else count + 1
  | .standstill => if r.foreign then 0 else count + 1

theorem Part.admissionStep_eq (p : Part) (x : Arm) (d : DriveState) (r : Answer) :
    p.admissionStep x d r =
      let q := p.updGuard x fun g => { g with count := countAfter (p.arm x).guard.count d r }
      if p.figures.admitCount ≤ countAfter (p.arm x).guard.count d r then q.admissionSuccess x r.cells else q := by
  unfold Part.admissionStep countAfter
  cases d <;> cases r.foreign <;> simp [Part.updGuard_eq]

end Sys2Proof.Machine

/-! SUPPORT. What the commands that leave the engine's state alone can do to the guards, caps, stop test units and links:
a run of moves of one arm at a time. A law that every move keeps is kept by all of them. -/

namespace Sys2Proof.Machine

/-! ## The core of a part -/

/-- The arm's share that the laws of O57 to O59 read: guard, cap, test, link, cursor and open slot. -/
def ArmPart.core (r : ArmPart) : ArmPart :=
  { resetArm with
    chain := { resetChain with cursor := r.chain.cursor, openSlot := r.chain.openSlot }
    monitor := { resetMonitor with capped := r.monitor.capped }
    guard := { r.guard with stopAsserted := true, stopCause := .none }
    test := { r.test with last := none, seen := noFigures }
    link := r.link }

/-- The part with the cores of its arms, and without what the arbiter and, while SERVING, the engine's queue hold. -/
def Part.core (p : Part) : Part := { p.blocks with armA := p.armA.core, armB := p.armB.core }

@[simp] theorem Part.core_arm (p : Part) (y : Arm) : p.core.arm y = (p.arm y).core := by cases y <;> rfl

theorem Part.arm_core_of_core {p q : Part} (h : q.core = p.core) (y : Arm) : (q.arm y).core = (p.arm y).core := by
  rw [← Part.core_arm, ← Part.core_arm, h]

theorem Part.core_of_blocks {p q : Part} (h : q.blocks = p.blocks) : q.core = p.core := by
  have ha : q.armA.core = p.armA.core := show q.blocks.armA.core = p.blocks.armA.core by rw [h]
  have hb : q.armB.core = p.armB.core := show q.blocks.armB.core = p.blocks.armB.core by rw [h]
  rw [Part.core, Part.core, h, ha, hb]

theorem Part.core_updArm {p q : Part} {x : Arm} {f g : ArmPart → ArmPart} (h : q.core = p.core)
    (hf : (f (q.arm x)).core = (g (p.arm x)).core) : (q.updArm x f).core = (p.updArm x g).core := by
  have hs : ∀ u : Part, (u.updArm x f).core = { u.core with
      armA := ((u.updArm x f).armA).core, armB := ((u.updArm x f).armB).core } := fun u => by cases x <;> rfl
  have hs' : ∀ u : Part, (u.updArm x g).core = { u.core with
      armA := ((u.updArm x g).armA).core, armB := ((u.updArm x g).armB).core } := fun u => by cases x <;> rfl
  have ho : (q.arm x.other).core = (p.arm x.other).core := Part.arm_core_of_core h _
  rw [hs, hs', h]
  cases x
  · have hf' : (f q.armA).core = (g p.armA).core := hf
    have ho' : q.armB.core = p.armB.core := ho
    show ({ p.core with armA := (f q.armA).core, armB := q.armB.core } : Part) = _
    rw [hf', ho']; rfl
  · have hf' : (f q.armB).core = (g p.armB).core := hf
    have ho' : q.armA.core = p.armA.core := ho
    show ({ p.core with armA := q.armA.core, armB := (f q.armB).core } : Part) = _
    rw [hf', ho']; rfl

/-- An effect on one arm, as the core sees it. -/
theorem Part.core_acts (p : Part) (x : Arm) {r r' : ArmPart} (hr : r'.core = r.core) {flags : Word}
    (hf : flags &&& ~~~causeBits = 0) (ops : List MemOp) (ho : p.engine = .serving ∨ ops = []) :
    (p.acts x r' flags ops).core = (p.updArm x fun _ => r).core := by
  have hc : (p.cause ||| flags) &&& ~~~causeBits = p.cause &&& ~~~causeBits := or_stray _ hf
  have hq : (if p.engine = .serving then [] else p.opQueue ++ ops) = if p.engine = .serving then [] else p.opQueue := by
    rcases ho with he | rfl
    · simp [he]
    · rw [List.append_nil]
  have h0 : (p.acts x r' flags ops).core = { (p.updArm x fun _ => r').core with
      cause := (p.cause ||| flags) &&& ~~~causeBits
      opQueue := if p.engine = .serving then [] else p.opQueue ++ ops } := by cases x <;> rfl
  rw [h0, hc, hq, Part.core_updArm (p := p) (g := fun _ => r) rfl hr]
  cases x <;> rfl

/-! ## The moves -/

/-- The moves of a link while its arm's guard stays in state `g`. -/
inductive Link.Move (g : GuardState) (l : Link) : Link → Prop
  | starts (b : Byte) (t : Word) (ha : l.state = .active) : Move g l
      { l with phase := .frame, received := [b], gapTimer := some t }
  | drops : Move g l l.dropPartial
  | joins (b : Byte) (t : Word) (ha : l.state = .active) (hp : l.phase = .frame) (hl : l.received.length + 1 ≤ 12) :
      Move g l { l with received := l.received ++ [b], gapTimer := some t }
  | accepts (f : Frame) (ha : l.state = .active) (hl : l.fifo.length < 8) : Move g l
      { l.dropPartial with fifo := l.fifo ++ [f] }
  | takes (f : Frame) (rest : List Frame) (hl : l.fifo = f :: rest) : Move g l { l with fifo := rest }
  | frees : Move g l (Link.transmit { l with onLine := none })
  | repeats (t : Word) (hg : g = .held) : Move g l
      { (if l.stopPlace = none then l.queueStop .hold else l) with repeatTimer := some t }

/-- The learned deceleration `a` is the arm's, or lies between 500 and its configured deceleration (R108, R113). -/
def Part.learns (p : Part) (x : Arm) (a : Nat) : Prop :=
  a = (p.arm x).test.alrn ∨ (500 ≤ (p.figures.arm x).acfg → 500 ≤ a ∧ a ≤ (p.figures.arm x).acfg)

/-- The moves of x's share. -/
inductive Part.Move (p : Part) (x : Arm) : ArmPart → Prop
  | rests : Move p x (p.arm x)
  | holds (q : HoldReason) (hs : (p.arm x).guard.state = .running) : Move p x (p.holdsArm (p.arm x) q)
  | reasoned (q : HoldReason) (hs : (p.arm x).guard.state ≠ .running) : Move p x ((p.arm x).withReason true q)
  | resumed (q : HoldReason) (hs : (p.arm x).guard.state = .held)
      (he : (p.arm x).guard.reasons.put false q = noReasons) (ht : q = .test → (p.arm x).test.rests) :
      Move p x ((p.arm x).resumed q)
  | unreasoned (q : HoldReason)
      (hs : ¬ ((p.arm x).guard.state = .held ∧ (p.arm x).guard.reasons.put false q = noReasons))
      (ht : q = .test → (p.arm x).test.rests) : Move p x ((p.arm x).withReason false q)
  | escalated (c : StopCause) (hs : (p.arm x).guard.state.inService = true) : Move p x ((p.arm x).escalated c)
  | admissionEnded (c : Option StopCause) (hs : (p.arm x).guard.state = .admitting) :
      Move p x ((p.arm x).admissionEnded ((p.arm x).guard.prior.getD .offline) c)
  | recorded (t : TestResult) (ha : p.learns x t.alrn) : Move p x ((p.arm x).recorded t)
  | regarded (s : Reasons) (hs : (p.arm x).guard.state = .admitting) : Move p x ((p.arm x).withReasons s)
  | admits (hs : (p.arm x).guard.state = .admitting) : Move p x (p.admitsArm (p.arm x))
  | counted (n : Nat) (l : List AdmissionHalf) (hs : (p.arm x).guard.state = .admitting) :
      Move p x { p.arm x with guard := { (p.arm x).guard with count := n, unpaired := l } }
  | acknowledged (hs : (p.arm x).guard.state = .held) :
      Move p x { p.arm x with guard := { (p.arm x).guard with phase := .acknowledged, ackTimer := none } }
  | uncapped (hc : (p.arm x).monitor.capped = true) : Move p x { p.arm x with
      monitor := { (p.arm x).monitor with capped := false }, link := (p.arm x).link.queueSpeed .uncap }
  | capped (creep : Nat) (hs : (p.arm x).guard.state.inService = true) : Move p x ((p.arm x).cappedAt creep)
  | tests (slot : Nat) (hs : (p.arm x).guard.state = .running) : Move p x (p.testingArm (p.arm x) slot)
  | testsOn (slot : Nat) (hs : (p.arm x).guard.state = .running) (ht : (p.arm x).guard.reasons.test = true) :
      Move p x { p.arm x with test := { (p.arm x).test with
        phase := .braking, slot := some slot, p0 := (p.arm x).test.seen.pos, t0 := (p.arm x).test.seen.time
        v0 := (p.arm x).test.seen.speed, slow := 0
        timer := some (p.now + BitVec.ofNat 32 (p.figures.testWindow * 1000)) } }
  | slows (n : Nat) (hb : (p.arm x).test.phase = .braking) (hn : n ≤ 1) :
      Move p x { p.arm x with test := { (p.arm x).test with slow := n } }
  | readmits (slot : Nat) (t : Word) (he : p.engine = .serving)
      (hs : (p.arm x).guard.state = .offline ∨ (p.arm x).guard.state = .stopped) :
      Move p x { p.arm x with guard := { (p.arm x).guard with
        state := .admitting, admissionSlot := some slot, prior := some (p.arm x).guard.state, count := 0, unpaired := []
        windowTimer := some t } }
  | links (l : Link) (hl : Link.Move (p.arm x).guard.state (p.arm x).link l) : Move p x { p.arm x with link := l }
  | takes (slot : Nat) (hc : p.isCursor slot = false) :
      Move p x { p.arm x with chain := { (p.arm x).chain with cursor := some slot, openSlot := some slot } }
  | closes : Move p x { p.arm x with chain := { (p.arm x).chain with openSlot := none } }
  | resets (host : Bool) : Move p x { p.arm x with
      guard := { resetGuard with reasons := { noReasons with host := host } }
      monitor := resetMonitor
      test := resetTest (match p.setup with
        | some f => (f.arm x).acfg
        | none => 0)
      link := resetLink (p.arm x).link.state }

/-- A run of moves, each seen through the core. -/
inductive Part.Runs (p : Part) : Part → Prop
  | refl : Runs p p
  | moves {q u : Part} (h : Runs p q) (x : Arm) {r : ArmPart} (hm : q.Move x r)
      (hu : u.core = (q.updArm x fun _ => r).core) : Runs p u

theorem Part.Runs.trans {p q u : Part} (h : p.Runs q) (h' : q.Runs u) : p.Runs u := by
  induction h' with
  | refl => exact h
  | moves _ x hm hu ih => exact ih.moves x hm hu

theorem Part.Runs.of_core {p q : Part} (h : q.core = p.core) : p.Runs q :=
  Part.Runs.refl.moves .a .rests (by
    rw [h]
    exact (Part.core_updArm (p := p) (q := p) (f := fun _ => p.arm .a) (g := fun _ => p.arm .a) rfl rfl).trans
      (by cases p; rfl) |>.symm)

theorem Part.Runs.of_blocks {p q : Part} (h : q.blocks = p.blocks) : p.Runs q := .of_core (Part.core_of_blocks h)

/-- A law that the core decides and that every move keeps is kept by every run. -/
theorem Part.Runs.keeps {p q : Part} (h : p.Runs q) {P : Part → Prop} (hcore : ∀ u v : Part, v.core = u.core → P u → P v)
    (hmove : ∀ (u : Part) (x : Arm) (r : ArmPart), u.Move x r → P u → P (u.updArm x fun _ => r)) (hp : P p) : P q := by
  induction h with
  | refl => exact hp
  | moves _ x hm hu ih => exact hcore _ _ hu (hmove _ x _ hm ih)

/-- The part without its arms, what the arbiter holds, the named cause flags and, while SERVING, the queue. -/
def Part.shell (p : Part) : Part := { p.core with armA := resetArm, armB := resetArm }

/-- A run touches nothing of the shell. -/
theorem Part.Runs.shell {p q : Part} (h : p.Runs q) : q.shell = p.shell := by
  induction h with
  | refl => rfl
  | @moves q u _ x r _ hu ih =>
    rw [← ih, Part.shell, hu]; cases x <;> rfl

theorem Part.Runs.engine {p q : Part} (h : p.Runs q) : q.engine = p.engine :=
  show q.shell.engine = p.shell.engine by rw [h.shell]
theorem Part.Runs.setup {p q : Part} (h : p.Runs q) : q.setup = p.setup :=
  show q.shell.setup = p.shell.setup by rw [h.shell]
theorem Part.Runs.inReset {p q : Part} (h : p.Runs q) : q.inReset = p.inReset :=
  show q.shell.inReset = p.shell.inReset by rw [h.shell]

/-! ## Runs of the shared operations -/

section
variable (p : Part) (x : Arm)

theorem Part.Move.acts {p : Part} {x : Arm} {r r' : ArmPart} (hm : p.Move x r) (hr : r'.core = r.core) {flags : Word}
    (hf : flags &&& ~~~causeBits = 0) (ops : List MemOp) (ho : p.engine = .serving ∨ ops = []) :
    p.Runs (p.acts x r' flags ops) :=
  Part.Runs.refl.moves x hm (p.core_acts x hr hf ops ho)

theorem Part.Move.updArm {p : Part} {x : Arm} {r : ArmPart} (hm : p.Move x r) (f : ArmPart → ArmPart)
    (hr : (f (p.arm x)).core = r.core) : p.Runs (p.updArm x f) :=
  Part.Runs.refl.moves x hm (Part.core_updArm rfl hr)

theorem Part.runs_updArm (f : ArmPart → ArmPart) (hf : (f (p.arm x)).core = (p.arm x).core) : p.Runs (p.updArm x f) :=
  Part.Move.rests.updArm f hf

theorem or_stray_zero {a b : Word} (ha : a &&& ~~~causeBits = 0) (hb : b &&& ~~~causeBits = 0) :
    (a ||| b) &&& ~~~causeBits = 0 := by rw [or_stray _ hb, ha]

theorem Part.resultOps_serving (slot : Nat) (v : Verdict) (f : ResultFigures) :
    p.engine = .serving ∨ p.resultOps x slot v f = [] := by
  by_cases h : p.engine = .serving
  · exact .inl h
  · right; simp [Part.resultOps, Part.answerable, h]

theorem Part.slotOps_serving (slot : Option Nat) (v : Verdict) (f : ResultFigures) :
    p.engine = .serving ∨ p.slotOps x slot v f = [] := by
  cases slot
  · exact .inr rfl
  · exact p.resultOps_serving x _ v f

theorem Part.runs_addReason (q : HoldReason) : p.Runs (p.addReason x q) := by
  cases hq : (p.arm x).guard.reasons.has q with
  | true => rw [p.addReason_present x q hq]; exact .refl
  | false =>
    by_cases hs : (p.arm x).guard.state = .running
    · rw [p.addReason_running x q hq hs]; exact (Part.Move.holds q hs).acts (by rfl) (causeBit_stray _) _ (.inr rfl)
    · rw [p.addReason_staying x q hq hs]; exact (Part.Move.reasoned q hs).acts (by rfl) (causeBit_stray _) _ (.inr rfl)

/-- TEST leaves the set only once no test runs. -/
theorem Part.runs_removeReason (q : HoldReason) (ht : q = .test → (p.arm x).test.rests) :
    p.Runs (p.removeReason x q) := by
  cases hq : (p.arm x).guard.reasons.has q with
  | false => rw [p.removeReason_absent x q hq]; exact .refl
  | true =>
    by_cases hs : (p.arm x).guard.state = .held ∧ (p.arm x).guard.reasons.put false q = noReasons
    · rw [p.removeReason_last x q hq hs.1 hs.2]
      exact (Part.Move.resumed q hs.1 hs.2 ht).acts (by rfl) (causeBit_stray _) _ (.inr rfl)
    · rw [p.removeReason_staying x q hq hs]
      exact (Part.Move.unreasoned q hs ht).acts (by rfl) (causeBit_stray _) _ (.inr rfl)

theorem Part.runs_compareParkLimit : p.Runs (p.compareParkLimit x) := by
  obtain ⟨-, e⟩ | ⟨-, -, e⟩ | ⟨-, -, e⟩ := p.compareParkLimit_cases x <;> rw [e]
  · exact .refl
  · exact p.runs_addReason x .park
  · exact p.runs_removeReason x .park (by simp)

theorem Part.runs_enterStopped (hs : (p.arm x).guard.state.inService = true) (c : StopCause) :
    p.Runs (p.enterStopped x c) := by
  rw [Part.enterStopped_eq]
  refine (Part.Move.escalated c hs).acts (by rfl) ?_ _ ?_
  · refine or_stray_zero (causeBit_stray _) ?_
    split
    · exact causeBit_stray _
    · rfl
  · unfold Part.abortOps Part.testOps
    split
    · split
      · exact p.resultOps_serving x _ _ _
      · exact .inr rfl
    · exact .inr rfl

theorem Part.runs_leaveAdmission (hs : (p.arm x).guard.state = .admitting) (c : Option StopCause) :
    p.Runs (p.leaveAdmission x c) := by
  rw [Part.leaveAdmission_eq]; exact (Part.Move.admissionEnded c hs).acts (by rfl) (causeBit_stray _) _ (.inr rfl)

theorem Part.runs_failAdmission (hs : (p.arm x).guard.state = .admitting) (f : AdmissionFailure) :
    p.Runs (p.failAdmission x f) := by
  rw [Part.failAdmission_eq]
  refine (Part.Move.admissionEnded f.stopCause hs).acts (by rfl) (causeBit_stray _) _ ?_
  unfold Part.failOps
  split
  · exact p.resultOps_serving x _ _ _
  · exact .inr rfl

theorem Part.runs_escalate (c : StopCause) : p.Runs (p.escalate x c) := by
  obtain ⟨hs, e⟩ | ⟨hs, e⟩ | ⟨-, e⟩ := p.escalate_cases x c <;> rw [e]
  · exact p.runs_enterStopped x hs c
  · exact p.runs_failAdmission x hs _
  · exact .refl

theorem Part.runs_recordTest (t : TestResult) (ha : p.learns x t.alrn) : p.Runs (p.recordTest x t) := by
  rw [Part.recordTest_eq]
  refine (Part.Move.recorded t ha).acts (by rfl) (causeBit_stray _) _ ?_
  unfold Part.testOps
  split
  · exact p.resultOps_serving x _ _ _
  · exact .inr rfl

/-! ## Envelope reports (R26 to R35) -/

theorem Part.runs_classify (cells : List Nat) : p.Runs (p.classify x cells) := by
  have hg : p.Runs (p.growPark x cells) := .of_blocks (p.blocks_growPark x cells)
  have hb : ∀ foreign : Bool, p.Runs (if foreign then ((p.growPark x cells).addReason x .breach).setCause .breach
      else p.growPark x cells) := by
    intro foreign
    split
    · exact (hg.trans (Part.runs_addReason _ x .breach)).trans (.of_blocks (Part.blocks_setCause _ _))
    · exact hg
  unfold Part.classify
  dsimp only
  split
  · exact (hb _).trans (Part.runs_compareParkLimit _ x)
  · exact ((hb _).trans (Part.runs_compareParkLimit _ x)).trans (.of_blocks (Part.blocks_crossingCheck _))

theorem Part.runs_takeReport (r : Report) : p.Runs (p.takeReport x r) := by
  have hc : p.Runs ((p.classify x (p.table.cellsOf r.cells)).leaveEvaluation x r) :=
    (p.runs_classify x _).trans (.of_blocks (Part.blocks_leaveEvaluation _ _ _))
  unfold Part.takeReport
  split
  · split
    · exact .refl
    · exact p.runs_updArm x _ rfl
    · exact hc
    · exact hc
    · exact hc
  · exact .refl

end

end Sys2Proof.Machine

/-! SUPPORT. The commands of an arm are runs of moves: admissions, notices, timers, clearance, frames, stop tests and
requests. -/

namespace Sys2Proof.Machine

section
variable (p : Part) (x : Arm)

theorem Part.arm_guard_state_of_core {p q : Part} (h : q.core = p.core) (y : Arm) :
    (q.arm y).guard.state = (p.arm y).guard.state :=
  show (q.arm y).core.guard.state = (p.arm y).core.guard.state by rw [Part.arm_core_of_core h]

/-! ## Admissions (R102, R103) -/

/-- Settling the park claim and the reasons leaves the arm in ADMITTING. -/
theorem Part.runs_admissionReasons (hs : (p.arm x).guard.state = .admitting) (cells : Option CellBox) :
    p.Runs (p.admissionReasons x cells) ∧ ((p.admissionReasons x cells).arm x).guard.state = .admitting := by
  have hb := p.blocks_trim x cells
  have hst : ((p.trim x cells).arm x).guard.state = .admitting := by
    rw [Part.arm_guard_state_of_core (Part.core_of_blocks hb)]; exact hs
  have hu : (p.trim x cells).Runs ((p.trim x cells).updGuard x fun g => { g with reasons := g.reasons.afterAdmission }) :=
    (Part.Move.regarded ((p.trim x cells).arm x).guard.reasons.afterAdmission hst).updArm _ rfl
  refine ⟨((Part.Runs.of_blocks hb).trans hu).trans (Part.runs_compareParkLimit _ x), ?_⟩
  rw [Part.admissionReasons, Part.compareParkLimit_staying] <;>
    simp [Part.updGuard_eq, hst, ArmPart.due, ArmPart.withReasons]

theorem Part.runs_admissionSuccess (hs : (p.arm x).guard.state = .admitting) (cells : Option CellBox) :
    p.Runs (p.admissionSuccess x cells) := by
  obtain ⟨hq, hqs⟩ := p.runs_admissionReasons x hs cells
  rw [Part.admissionSuccess_eq]
  exact hq.trans ((Part.Move.admits hqs).acts (by rfl) (causeBit_stray _) _ (Part.slotOps_serving _ x _ _ _))

theorem Part.runs_updGuardAdmitting (hs : (p.arm x).guard.state = .admitting) (g : Guard → Guard)
    (hg : ∀ g', g g' = { g' with count := (g g').count, unpaired := (g g').unpaired }) :
    p.Runs (p.updGuard x g) := by
  refine (Part.Move.counted (g (p.arm x).guard).count (g (p.arm x).guard).unpaired hs).updArm _ ?_
  rw [hg]

theorem Part.runs_admissionStep (hs : (p.arm x).guard.state = .admitting) (d : DriveState) (r : Answer) :
    p.Runs (p.admissionStep x d r) := by
  have hu := p.runs_updGuardAdmitting x hs (fun g => { g with count := countAfter (p.arm x).guard.count d r }) fun _ => rfl
  rw [Part.admissionStep_eq]
  dsimp only
  split
  · exact hu.trans (Part.runs_admissionSuccess _ x (by simpa [Part.updGuard_eq] using hs) _)
  · exact hu

theorem Part.runs_takeHalf (hs : (p.arm x).guard.state = .admitting) (k : AdmissionHalf) : p.Runs (p.takeHalf x k) := by
  have hu : ∀ l, p.Runs (p.updGuard x fun g => { g with unpaired := l }) := fun l =>
    p.runs_updGuardAdmitting x hs _ fun _ => rfl
  unfold Part.takeHalf
  dsimp only
  split
  · exact hu _
  · split
    · exact (hu _).trans (Part.runs_admissionStep _ x (by simpa [Part.updGuard_eq] using hs) _ _)
    · exact hu _

theorem Part.runs_takeAnswer (r : Answer) : p.Runs (p.takeAnswer x r) := by
  unfold Part.takeAnswer
  split
  · next hs => exact p.runs_takeHalf x hs.2 _
  · exact .refl

/-! ## Frame notices and freshness (R73, R74, R95) -/

theorem Part.runs_actOnNotice (n : Notice) : p.Runs (p.actOnNotice x n) := by
  unfold Part.actOnNotice
  dsimp only
  split
  · exact .refl
  · exact .refl
  · exact p.runs_failAdmission x ‹_› _
  · exact p.runs_takeHalf x ‹_› _
  · exact p.runs_escalate x _
  · exact .refl
  · exact p.runs_escalate x _
  · split
    · exact p.runs_escalate x _
    · exact .refl
  · split
    · exact ((Part.Move.acknowledged ‹_›).updArm _ (by rfl)).trans (.of_blocks (Part.blocks_markDue _ x))
    · exact .refl

theorem Part.runs_takeNotice (n : Notice) : p.Runs (p.takeNotice x n) := by
  unfold Part.takeNotice
  split
  · exact (p.runs_actOnNotice x n).trans (Part.runs_removeReason _ x .stale (by simp))
  · exact .refl

theorem Part.runs_expireStale : p.Runs (p.expireStale x) := by
  have hm : p.Runs (p.updMonitor x fun m => { m with staleTimer := none, stale := true, restart := true }) :=
    p.runs_updArm x _ rfl
  unfold Part.expireStale
  dsimp only
  split
  · exact hm.trans (Part.runs_addReason _ x .stale)
  · exact hm.trans (Part.runs_addReason _ x .stale)
  · next hs => exact hm.trans (Part.runs_updGuardAdmitting _ x hs _ fun _ => rfl)
  · exact hm
  · exact hm

theorem Part.runs_expireLoss : p.Runs (p.expireLoss x) := by
  have hm : p.Runs (p.updMonitor x fun m => { m with lossTimer := none, known := false }) := p.runs_updArm x _ rfl
  exact (hm.trans (.of_blocks (Part.blocks_markChanged _ x))).trans (Part.runs_escalate _ x .loss)

theorem Part.runs_expirePassed : p.Runs (p.expirePassed x) := by
  have hs : p.Runs (if timerDue p.now (p.arm x).monitor.staleTimer then p.expireStale x else p) := by
    split
    · exact p.runs_expireStale x
    · exact .refl
  unfold Part.expirePassed
  dsimp only
  generalize (if timerDue p.now (p.arm x).monitor.staleTimer then p.expireStale x else p) = q at hs
  split
  · exact hs.trans (q.runs_expireLoss x)
  · exact hs

/-! ## Clearance (R76 to R80) -/

theorem Part.runs_lowerClearance (c : Nat) : p.Runs (p.lowerClearance x c) := by
  unfold Part.lowerClearance
  split
  · exact (p.runs_updArm x _ (by rfl)).trans (.of_blocks (Part.blocks_markChanged _ x))
  · exact .refl

theorem Part.runs_uncap : p.Runs (p.uncap x) := by
  unfold Part.uncap
  split
  · next hc =>
    rw [Part.updMonitor_eq, Part.updLink_eq, Part.updArm_updArm]
    exact ((Part.Move.uncapped hc).updArm _ (by rfl)).trans (.of_blocks (Part.blocks_markDue _ x))
  · exact .refl

theorem Part.runs_cap (hs : (p.arm x).guard.state.inService = true) : p.Runs (p.cap x) := by
  unfold Part.cap
  rw [Part.updMonitor_eq, Part.updLink_eq, Part.updArm_updArm]
  exact ((Part.Move.capped p.figures.creep hs).updArm _ (by rfl)).trans
    (.of_blocks ((Part.blocks_markDue _ x).trans (Part.blocks_setCause _ _)))

theorem Part.runs_evaluateClearance : p.Runs (p.evaluateClearance x) := by
  have hl : ∀ c, p.Runs (p.lowerBoth x c) := fun c =>
    (p.runs_lowerClearance x c).trans (Part.runs_lowerClearance _ x.other c)
  unfold Part.evaluateClearance
  split
  · next b d _ _ =>
    obtain ⟨-, e⟩ | ⟨-, ⟨-, hs, -⟩, e⟩ | ⟨-, -, e⟩ := p.actOnClearance_cases x (clearance b d) <;> rw [e]
    · exact ((hl _).trans (Part.runs_uncap _ x)).trans (Part.runs_uncap _ x.other)
    · exact (hl _).trans (Part.runs_cap _ x (by simpa [Part.lowerBoth] using hs))
    · exact hl _
  · exact .refl

theorem Part.runs_settleEvaluation : p.Runs (p.settleEvaluation x) := by
  unfold Part.settleEvaluation
  split
  · have hm : p.Runs (p.updMonitor x fun m => { m with evaluationOwed := false }) := p.runs_updArm x _ rfl
    exact (hm.trans (Part.runs_expirePassed _ x)).trans (Part.runs_evaluateClearance _ x)
  · exact .refl

theorem Part.runs_takeFrame : p.Runs (p.takeFrame x) := by
  unfold Part.takeFrame
  split
  · exact .refl
  · next f rest hf =>
    split
    · have hl : p.Runs (p.updLink x fun l => { l with fifo := rest }) :=
        (Part.Move.links { (p.arm x).link with fifo := rest } (.takes f rest hf)).updArm _ rfl
      dsimp only
      split
      · exact hl
      · have hr : p.Runs ((p.updLink x fun l => { l with fifo := rest }).recordFrame x f) :=
          (hl.trans (Part.runs_updArm _ x _ (by rfl))).trans (.of_blocks (Part.blocks_markChanged _ x))
        unfold Part.processFrame Part.handFrame
        exact hr.trans (Part.runs_updArm _ x _ rfl)
    · exact .refl

/-! ## Stop tests (R110 to R117) -/

theorem Part.runs_startTest (slot : Nat) (hs : (p.arm x).guard.state = .running) : p.Runs (p.startTest x slot) := by
  cases ht : (p.arm x).guard.reasons.test with
  | false =>
    rw [Part.startTest_eq x slot hs ht]
    exact ((Part.Move.tests slot hs).acts (by rfl) (causeBit_stray _) _ (.inr rfl)).trans
      (.of_blocks (Part.blocks_waitingNotice _ x _ _))
  | true =>
    unfold Part.startTest
    dsimp only
    rw [Part.addReason_present _ x .test (by simpa [Part.updTest_eq, Reasons.has] using ht)]
    exact ((Part.Move.testsOn slot hs ht).updArm _ (by rfl)).trans (.of_blocks (Part.blocks_waitingNotice _ x _ _))

theorem Part.runs_stopTest (slot : Nat) : p.Runs (p.stopTest x slot) := by
  unfold Part.stopTest
  dsimp only
  split
  · exact .of_blocks (p.blocks_handResult x _ _ _)
  · next hs =>
    simp only [ne_eq, Classical.not_not] at hs
    split
    · exact .of_blocks (p.blocks_handResult x _ _ _)
    · exact p.runs_startTest x slot hs

/-- A measured deceleration lies between 500 and the configured one (R113). -/
theorem Part.learns_measured (f : Figures) : p.learns x (measuredResult (p.arm x).test (p.figures.arm x) f).alrn := by
  refine .inr fun h => ?_
  unfold measuredResult
  dsimp only
  split
  · exact ⟨h, Nat.le_refl _⟩
  · split <;> omega

theorem Part.runs_endTest (f : Figures) : p.Runs (p.endTest x f) := by
  have hr := p.runs_recordTest x _ (p.learns_measured x f)
  unfold Part.endTest
  dsimp only
  split
  · exact (hr.trans (Part.runs_escalate _ x _)).trans (Part.runs_removeReason _ x .test fun _ =>
      Part.escalate_rests x _ (Part.recordTest_rests x _))
  · exact hr.trans (Part.runs_removeReason _ x .test fun _ => Part.recordTest_rests x _)

theorem Part.runs_overrunTest : p.Runs (p.overrunTest x) :=
  ((p.runs_recordTest x _ (.inr fun h => ⟨Nat.le_refl _, h⟩)).trans (Part.runs_escalate _ x _)).trans
    (Part.runs_removeReason _ x .test fun _ => Part.escalate_rests x _ (Part.recordTest_rests x _))

/-- A running unit's count of slow frames stays at most 1. -/
theorem Part.runs_slow (hb : (p.arm x).test.phase = .braking) (n : Nat) (hn : n ≤ 1) :
    p.Runs (p.updTest x fun u => { u with slow := n }) := (Part.Move.slows n hb hn).updArm _ rfl

theorem Part.runs_takeFigures (f : Figures) : p.Runs (p.takeFigures x f) := by
  unfold Part.takeFigures
  split
  · have hu : p.Runs (p.updTest x fun u => { u with seen := f }) := p.runs_updArm x _ rfl
    dsimp only
    generalize p.updTest x (fun u => { u with seen := f }) = q at hu
    refine hu.trans ?_
    split
    · next hb =>
      have hslow : q.Runs (q.slowFrame x f) := by
        unfold Part.slowFrame
        split
        · exact q.runs_slow x hb 0 (by simp)
        · split
          · exact q.runs_slow x hb 1 (by simp)
          · exact q.runs_endTest x f
      unfold Part.watchStop
      split
      · exact q.runs_endTest x f
      · exact q.runs_slow x hb 0 (by simp)
      · exact hslow
      · exact hslow
    · exact .refl
  · exact .refl

/-! ## Requests (R101, R105, R166, R167) -/

theorem Part.runs_readmit (he : p.engine = .serving) (slot : Nat) : p.Runs (p.readmit x slot) := by
  unfold Part.readmit
  dsimp only
  split
  · next hs =>
    refine Part.Runs.trans ((Part.Move.readmits slot (p.now + BitVec.ofNat 32 (p.figures.admitWindow * 1000)) he
      hs.1).updArm (fun r => { r with guard := { r.guard with
        state := .admitting, admissionSlot := some slot, prior := some (p.arm x).guard.state, count := 0, unpaired := []
        windowTimer := p.afterMs p.figures.admitWindow } }) rfl) (.of_blocks ?_)
    rw [Part.blocks_waitingNotice, Part.guardChanged, Part.blocks_markDue, Part.blocks_setCause]
    rfl
  · exact .of_blocks (p.blocks_handResult x _ _ _)

theorem Part.runs_releasePark (slot : Nat) : p.Runs (p.releasePark x slot) := by
  have hu : p.Runs (p.unpark x (p.parkOutside x (p.sparedCells x))) := .of_blocks (p.blocks_unpark x _)
  exact (hu.trans (Part.runs_compareParkLimit _ x)).trans
    (.of_blocks ((Part.blocks_handResult _ x _ _ _).trans (Part.blocks_reevaluateIf _ _)))

theorem Part.runs_ackBreach (slot : Nat) : p.Runs (p.ackBreach x slot) := by
  have hand : ∀ v f, p.Runs (p.handResult x slot v f) := fun v f => .of_blocks (p.blocks_handResult x _ _ _)
  unfold Part.ackBreach
  dsimp only
  split
  · exact hand _ _
  · split
    · exact hand _ _
    · split
      · exact hand _ _
      · exact (p.runs_removeReason x .breach (by simp)).trans (.of_blocks (Part.blocks_handResult _ x _ _ _))

theorem Part.runs_clearWatermarks (slot : Nat) : p.Runs (p.clearWatermarks x slot) :=
  (p.runs_updArm x _ (by rfl)).trans
    (.of_blocks ((Part.blocks_handResult _ x _ _ _).trans (Part.blocks_markChanged _ x)))

theorem Part.runs_dispatch (he : p.engine = .serving) (slot : Nat) (f : SlotFields) :
    p.Runs (p.dispatch x slot f) := by
  unfold Part.dispatch
  split
  · exact .of_blocks (p.blocks_handResult x _ _ _)
  · split
    · exact .of_blocks (p.blocks_handResult x _ _ _)
    · exact .of_blocks (p.blocks_reserve x _ _)
    · exact .of_blocks (p.blocks_release x _ _)
    · exact p.runs_readmit x he slot
    · exact p.runs_releasePark x slot
    · exact p.runs_stopTest x slot
    · exact p.runs_ackBreach x slot
    · exact p.runs_clearWatermarks x slot

/-- x's part when the slot is open, TAKEN is queued, and the request is about to be dispatched (R144, R145). -/
def Part.taken (p : Part) (x : Arm) (slot : Nat) : Part :=
  let p := p.updChain x fun c => { c with cursor := some slot, openSlot := some slot, answered := false }
  ((p.queueOp (.figureWrite x slot 0x20 (le32 p.now.toNat))).queueOp (.stageWrite x slot .taken)).markDue x

theorem Part.takeSlot_eq (slot : Nat) (f : SlotFields) : p.takeSlot x slot f = (p.taken x slot).dispatch x slot f := rfl

theorem Part.runs_taken (he : p.engine = .serving) (slot : Nat) (hs : p.isCursor slot = false) :
    p.Runs (p.taken x slot) := by
  refine Part.Runs.trans ((Part.Move.takes slot hs).updArm (x := x) (fun r => { r with chain := { r.chain with
    cursor := some slot, openSlot := some slot, answered := false } }) rfl) (.of_blocks ?_)
  rw [Part.taken, Part.blocks_markDue, Part.blocks_queueOp, Part.blocks_queueOp]
  · rfl
  · simp [Part.updChain_eq, he]
  · simp [Part.updChain_eq, he]

theorem Part.runs_takeSlot (he : p.engine = .serving) (slot : Nat) (hs : p.isCursor slot = false)
    (f : SlotFields) : p.Runs (p.takeSlot x slot f) := by
  have ht := p.runs_taken x he slot hs
  rw [Part.takeSlot_eq]
  exact ht.trans (Part.runs_dispatch _ x (ht.engine.trans he) slot f)

theorem Part.runs_takeCandidate (he : p.engine = .serving) (slot : Nat) (f : SlotFields) :
    p.Runs (p.takeCandidate x slot f) := by
  unfold Part.takeCandidate
  split
  · exact .of_blocks ((Part.blocks_endWalk _ x (by simp [he])).trans (Part.blocks_setCause _ _))
  · next hs =>
    split
    · have ht := p.runs_takeSlot x he slot (by simpa using hs) f
      exact ht.trans (.of_blocks (Part.blocks_endWalk _ x (ht.engine.trans he)))
    · exact .of_blocks (Part.blocks_endWalk _ x he)

end

end Sys2Proof.Machine

/-! SUPPORT. Everything a step can do to the part. -/

namespace Sys2Proof.Machine

/-- The effects of the commands on a part out of reset, before the end of the step. -/
inductive Part.Effect : (Part → Part) → Prop
  | serveSet : Effect Part.serveSet
  | serveClear (first : Arm) : Effect fun p => p.serveClear first
  | writeHold (x : Arm) (v : Bool) : Effect fun p => p.writeHold x v
  | partReset : Effect Part.partReset
  | armReset (x : Arm) : Effect fun p => p.armReset x
  | writeCause (v : Word) : Effect fun p => p.writeCause v
  | writeCauseMask (v : Word) : Effect fun p => p.writeCauseMask v
  | promptBoth (first : Arm) : Effect fun p => p.promptBoth first
  | writeBase (which : BaseRegister) (v : Word) : Effect fun p => p.writeBase which v
  | writeWindow (offset : BitVec 6) (size : Nat) (v : Word) : Effect fun p => p.writeWindow offset size v
  | setupReadDone (data : BitVec 1024) (first : Arm) : Effect fun p => p.setupReadDone data first
  | nextReadDone (next : Byte) : Effect fun p => p.nextReadDone next
  | slotReadDone (data : BitVec 512) : Effect fun p => p.slotReadDone data
  | writeDone : Effect Part.writeDone
  | readTimedOut : Effect Part.readTimedOut
  | memoryFails (f : MemoryFailure) : Effect fun p => p.memoryFails f
  | losePcie (c : PcieCondition) : Effect fun p => p.losePcie c
  | pollExpires (first : Arm) : Effect fun p => p.pollExpires first
  | publishExpires : Effect Part.publishExpires
  | rxByte (x : Arm) (b : Byte) (framing : Bool) : Effect fun p => p.rxByte x b framing
  | byteGapExpires (x : Arm) : Effect fun p => p.byteGapExpires x
  | lineFree (x : Arm) : Effect fun p => p.lineFree x
  | holdRepeats (x : Arm) : Effect fun p => p.holdRepeats x
  | takeFrame (x : Arm) : Effect fun p => p.takeFrame x
  | staleExpires (x : Arm) : Effect fun p => p.staleExpires x
  | lossExpires (x : Arm) : Effect fun p => p.lossExpires x
  | nextReport (x : Arm) : Effect fun p => p.nextReport x
  | nextNotice (x : Arm) : Effect fun p => p.nextNotice x
  | nextAnswer (x : Arm) : Effect fun p => p.nextAnswer x
  | holdAckExpires (x : Arm) : Effect fun p => p.holdAckExpires x
  | admitWindowExpires (x : Arm) : Effect fun p => p.admitWindowExpires x
  | assertCellstop (first : Arm) : Effect fun p => p.assertCellstop first
  | releaseCellstop : Effect Part.releaseCellstop
  | nextFigures (x : Arm) : Effect fun p => p.nextFigures x
  | testWindowExpires (x : Arm) : Effect fun p => p.testWindowExpires x
  | waitExpires (x : Arm) : Effect fun p => p.waitExpires x
  | writeConfiguration (bm msg : Bool) : Effect fun p => p.writeConfiguration bm msg
  | pcieLink (up : Bool) : Effect fun p => p.pcieLink up

/-- Everything a step can make of the part: the counter counts; the pin is released or asserted; while it is asserted
at most an input follows; and otherwise a command has its effect, which the end of the step settles. -/
inductive Part.Steps (p : Part) : Part → Prop
  | tick : Steps p p.tick
  | pinReset : Steps p p.pinReset
  | assertReset : Steps p p.assertReset
  | inReset (hr : p.inReset = true) : Steps p p
  | cellstopInput (hr : p.inReset = true) (level : Bool) : Steps p { p with cellstopPin := level }
  | linkInput (hr : p.inReset = true) (up : Bool) : Steps p { p with pcieUp := up }
  | command (hr : p.inReset = false) {f : Part → Part} (hf : Part.Effect f) : Steps p (Part.settle p (f p))

theorem Part.Effect.steps {f : Part → Part} (hf : Part.Effect f) (p : Part) : p.Steps (p.step f) := by
  unfold Part.step
  split
  · next hr => exact .inReset hr
  · next hr => exact .command (by simpa using hr) hf

/-- An input's command: the level follows in reset, and otherwise the command has its effect. -/
theorem Part.Effect.stepsInput {f : Part → Part} (hf : Part.Effect f) {p q : Part} (hq : p.inReset = true → p.Steps q) :
    p.Steps (if p.inReset then q else p.step f) := by
  split
  · next hr => exact hq hr
  · exact hf.steps p

theorem exec_steps {c : Instr} {s t : State} (h : exec c s = .next t) : s.part.Steps t.part := by
  have hon : ∀ f : Part → Part, onPart s f = .next t → t.part = f s.part := fun f hf => by
    simp only [onPart, Host.Outcome.next.injEq] at hf; rw [← hf]
  have heff : ∀ f, Part.Effect f → onPart s (fun p => p.step f) = .next t → s.part.Steps t.part := fun f hf h => by
    rw [hon _ h]; exact hf.steps _
  cases c with
  | pinReset => rw [hon _ h]; exact .pinReset
  | resetPinAsserted => rw [hon _ h]; exact .assertReset
  | cellstopAsserted first => 
    obtain rfl := Host.Outcome.next.inj h
    exact (Part.Effect.assertCellstop first).stepsInput fun hr => .cellstopInput hr _
  | cellstopReleased => 
    obtain rfl := Host.Outcome.next.inj h
    exact Part.Effect.releaseCellstop.stepsInput fun hr => .cellstopInput hr _
  | pcieLinkUp up => 
    obtain rfl := Host.Outcome.next.inj h
    exact (Part.Effect.pcieLink up).stepsInput fun hr => .linkInput hr _
  | serveSet => exact heff _ .serveSet h
  | serveClear first => exact heff _ (.serveClear first) h
  | holdXWrite x value => exact heff _ (.writeHold x value) h
  | partReset => exact heff _ .partReset h
  | armResetX x => exact heff _ (.armReset x) h
  | causeWrite value => exact heff _ (.writeCause value) h
  | causeMaskWrite value => exact heff _ (.writeCauseMask value) h
  | nudge value first => exact heff _ (.promptBoth first) h
  | exchangeBaseWrite which value => exact heff _ (.writeBase which value) h
  | registerWrite offset size value => exact heff _ (.writeWindow offset size value) h
  | setupReadComplete data first => exact heff _ (.setupReadDone data first) h
  | nextReadComplete next => exact heff _ (.nextReadDone next) h
  | slotReadComplete data => exact heff _ (.slotReadDone data) h
  | memoryWriteComplete => exact heff _ .writeDone h
  | readTimeout => exact heff _ .readTimedOut h
  | memoryFault failure => exact heff _ (.memoryFails failure) h
  | pcieConditionLost condition => exact heff _ (.losePcie condition) h
  | pollTimerExpiry first => exact heff _ (.pollExpires first) h
  | publishTimerExpiry => exact heff _ .publishExpires h
  | rxByte x value framing => exact heff _ (.rxByte x value framing) h
  | byteGapExpiry x => exact heff _ (.byteGapExpires x) h
  | lineFree x => exact heff _ (.lineFree x) h
  | holdRepeatExpiry x => exact heff _ (.holdRepeats x) h
  | monitorTakeFrame x => exact heff _ (.takeFrame x) h
  | staleExpiry x => exact heff _ (.staleExpires x) h
  | lossExpiry x => exact heff _ (.lossExpires x) h
  | envelopeReport x => exact heff _ (.nextReport x) h
  | frameNotice x => exact heff _ (.nextNotice x) h
  | admissionAnswer x => exact heff _ (.nextAnswer x) h
  | holdAckExpiry x => exact heff _ (.holdAckExpires x) h
  | admitWindowExpiry x => exact heff _ (.admitWindowExpires x) h
  | frameFigures x => exact heff _ (.nextFigures x) h
  | testWindowExpiry x => exact heff _ (.testWindowExpires x) h
  | waitTimerExpiry x => exact heff _ (.waitExpires x) h
  | configurationSpaceWrite bm msg => exact heff _ (.writeConfiguration bm msg) h

/-- What a step makes of the part is one of the steps. -/
theorem step_steps {s t : State} (h : step s = .next t) : s.part.Steps t.part := by
  unfold step at h
  split at h
  · simp only [Host.Outcome.next.injEq] at h
    rw [← h]; exact .tick
  · next c rest _ => exact exec_steps (s := { s with pending := rest }) h

end Sys2Proof.Machine

/-! SUPPORT. What the engine's commands and the links' make of the arms: runs of moves, and the shifts of the engine's
state (R100, R106, R152, R171 to R174). -/

namespace Sys2Proof.Machine

/-! ## The shifts -/

/-- An arm at the start of serving (R172). -/
def ArmPart.started (r : ArmPart) (acfg : Nat) : ArmPart :=
  { resetArm with
    guard := { resetGuard with reasons := { noReasons with host := r.hold } }
    test := resetTest acfg
    link := resetLink .active }

/-- An arm once it is closed: OFFLINE, the monitor at reset, the link QUIET (R173). -/
def ArmPart.closed (r : ArmPart) : ArmPart :=
  { r with
    guard := { resetGuard with reasons := { noReasons with host := r.hold }, stopCause := .none }
    monitor := resetMonitor
    link := r.link.becomeQuiet }

/-- An arm at the entry into FAULTED: its admission is abandoned (R104, R152). -/
def ArmPart.abandoned (r : ArmPart) : ArmPart :=
  if r.guard.state = .admitting then r.admissionEnded (r.guard.prior.getD .offline) none else r

/-- An arm at the end of FAULTED: stopped if it was in service, the link QUIET (R174). -/
def ArmPart.ended (r : ArmPart) : ArmPart :=
  let r := if r.guard.state.inService = true then r.escalated .servingEnded else r
  { r with
    guard := { r.guard with ackTimer := none, windowTimer := none }
    link := r.link.becomeQuiet }

/-- What a shift of the engine's state makes of the arms' cores and the figures in force. -/
inductive Part.Shift (p q : Part) : Prop
  | outside (ha : ∀ y, (q.arm y).core = (p.arm y).core) (he : p.engine.guards = false) (hq : q.engine.guards = false)
      (hs : q.setup = p.setup ∨ q.setup = none)
  | starts (f : Setup) (hf : f.valid = true) (hq : q.engine = .serving) (hs : q.setup = some f)
      (ha : ∀ y, ∃ hold, (q.arm y).core = (({ p.arm y with hold := hold } : ArmPart).started (f.arm y).acfg).core)
  | closes (he : p.engine = .serving) (hq : q.engine = .closing) (hs : q.setup = p.setup)
      (ha : ∀ y, (q.arm y).core = ((p.arm y).withdrawn.closed).core)
  | faults (he : p.engine = .serving) (hq : q.engine = .faulted) (hs : q.setup = p.setup)
      (ha : ∀ y, (q.arm y).core = ((p.arm y).abandoned).core)
  | ends (he : p.engine = .faulted) (hq : q.engine = .idle) (hs : q.setup = none)
      (ha : ∀ y, (q.arm y).core = ((p.arm y).ended).core)
  | resets (hq : q.engine = .idle) (hs : q.setup = none) (ha : ∀ y, q.arm y = resetArm)

/-- A run of moves, a change beside the arms, the engine's state and the figures in force, or a shift. -/
inductive Part.Pace (p q : Part) : Prop
  | runs (h : p.Runs q)
  | still (ha : ∀ y, (q.arm y).core = (p.arm y).core) (he : q.engine = p.engine) (hs : q.setup = p.setup)
      (hr : q.inReset = p.inReset)
  | shift (h : p.Shift q) (hr : p.inReset = false → q.inReset = false)

/-- What a command makes of the part, as its arms, engine state and figures go. -/
inductive Part.Shifts : Part → Part → Prop
  | refl {p : Part} : p.Shifts p
  | tail {p q u : Part} (h : p.Shifts q) (h' : q.Pace u) : p.Shifts u

theorem Part.Pace.shifts {p q : Part} (h : p.Pace q) : p.Shifts q := .tail .refl h

theorem Part.Shift.shifts {p q : Part} (h : p.Shift q) (hr : p.inReset = false → q.inReset = false) : p.Shifts q :=
  Part.Pace.shifts (.shift h hr)

theorem Part.Shifts.trans {p q u : Part} (h : p.Shifts q) (h' : q.Shifts u) : p.Shifts u := by
  induction h' with
  | refl => exact h
  | tail _ hp ih => exact .tail ih hp

section
variable (p : Part) (x : Arm)

theorem Part.Runs.shifts {p q : Part} (h : p.Runs q) : p.Shifts q := Part.Pace.shifts (.runs h)

/-- A change beside the arms, the engine's state and the figures. -/
theorem Part.shifts_still {p q : Part} (ha : q.armA = p.armA) (hb : q.armB = p.armB) (he : q.engine = p.engine)
    (hs : q.setup = p.setup) (hr : q.inReset = p.inReset) : p.Shifts q := by
  refine Part.Pace.shifts (.still (fun y => ?_) he hs hr)
  cases y
  · show q.armA.core = _; rw [ha]; rfl
  · show q.armB.core = _; rw [hb]; rfl

/-! ## Loads and faults -/

theorem Part.serveSet_shifts : p.Shifts p.serveSet := by
  unfold Part.serveSet
  split
  · next hs => exact Part.Shift.shifts (.outside (fun y => by cases y <;> rfl) (by rw [hs.2]; rfl) rfl (.inl rfl)) id
  · exact .refl

theorem Part.endLoad_shifts (he : p.engine = .loading) (o : SetupOutcome) (n : Nat) : p.Shifts (p.endLoad o n) :=
  Part.Shift.shifts (.outside (fun y => by cases y <;> rfl) (by rw [he]; rfl) rfl (.inl rfl)) id

theorem Part.closeDone_core (y : Arm) : (p.closeDone.arm y).core = (p.arm y).core := by cases y <;> rfl

theorem Part.closeDone_shifts (he : p.engine = .closing) : p.Shifts p.closeDone :=
  Part.Shift.shifts (.outside p.closeDone_core (by rw [he]; rfl) rfl (.inr rfl)) id

/-- An arm's share at the entry into FAULTED. -/
theorem Part.faultArm_core : ((p.faultArm x).arm x).core = ((p.arm x).abandoned).core ∧
    (p.faultArm x).arm x.other = p.arm x.other ∧ (p.faultArm x).engine = p.engine ∧
    (p.faultArm x).setup = p.setup ∧ (p.faultArm x).inReset = p.inReset := by
  unfold Part.faultArm
  dsimp only
  by_cases hs : (p.arm x).guard.state = .admitting
  · rw [if_pos (by rw [Part.updArm_arm]; exact hs), Part.leaveAdmission_eq]
    refine ⟨?_, by simp, by simp, by simp, by simp⟩
    rw [Part.acts_arm, Part.updArm_arm, ArmPart.abandoned, if_pos hs]
    rfl
  · rw [if_neg (by rw [Part.updArm_arm]; exact hs)]
    refine ⟨?_, by simp, by simp, by simp, by simp⟩
    rw [Part.updArm_arm, ArmPart.abandoned, if_neg hs]
    rfl

theorem Part.enterFaulted_shifts (he : p.engine = .serving) (kind : FaultKind) : p.Shifts (p.enterFaulted kind) := by
  unfold Part.enterFaulted
  dsimp only
  generalize hq : Part.setCause _ .fault = q
  have hq' : ∀ y, q.arm y = p.arm y := fun y => by rw [← hq]; cases y <;> rfl
  have hqe : q.engine = .faulted := by rw [← hq]; rfl
  have hqs : q.setup = p.setup ∧ q.inReset = p.inReset := by rw [← hq]; exact ⟨rfl, rfl⟩
  obtain ⟨ha, hao, hae, has, har⟩ := q.faultArm_core .a
  obtain ⟨hb, hbo, hbe, hbs, hbr⟩ := (q.faultArm .a).faultArm_core .b
  refine Part.Shift.shifts (.faults he (by rw [hbe, hae, hqe]) (by rw [hbs, has, hqs.1]) fun y => ?_)
    (by rw [hbr, har, hqs.2]; exact id)
  cases y
  · rw [show ((q.faultArm .a).faultArm .b).arm .a = (q.faultArm .a).arm .a from hbo, ha, hq']
  · rw [hb, show (q.faultArm .a).arm .b = q.arm .b from hao, hq']

theorem Part.takeFault_shifts (kind : FaultKind) : p.Shifts (p.takeFault kind) := by
  obtain ⟨he, e⟩ | ⟨he, e⟩ | ⟨he, e⟩ | ⟨-, e⟩ := p.takeFault_cases kind <;> rw [e]
  · exact Part.Shift.shifts (.outside (fun y => by cases y <;> rfl) (by rw [he]; rfl) rfl (.inl rfl)) id
  · exact p.enterFaulted_shifts he kind
  · exact Part.Shift.shifts (.outside (fun y => by cases y <;> rfl) (by rw [he]; rfl) rfl (.inr rfl)) id
  · exact .refl

theorem Part.dropRunning_frame : p.dropRunning.armA = p.armA ∧ p.dropRunning.armB = p.armB ∧
    p.dropRunning.engine = p.engine ∧ p.dropRunning.setup = p.setup ∧ p.dropRunning.inReset = p.inReset := by
  obtain ⟨-, e⟩ | ⟨r, -, -, e⟩ | ⟨r, -, -, e⟩ := p.dropRunning_cases <;> rw [e] <;>
    exact ⟨rfl, rfl, rfl, rfl, rfl⟩

theorem Part.dropRunning_shifts : p.Shifts p.dropRunning := by
  obtain ⟨ha, hb, he, hs, hr⟩ := p.dropRunning_frame
  exact Part.shifts_still ha hb he hs hr

theorem Part.failRunning_shifts (kind : MemOp → FaultKind) : p.Shifts (p.failRunning kind) := by
  obtain ⟨-, e⟩ | ⟨r, -, -, e⟩ | ⟨r, -, -, e⟩ := p.failRunning_cases kind <;> rw [e]
  · exact .refl
  · exact p.dropRunning_shifts
  · exact p.dropRunning_shifts.trans (Part.takeFault_shifts _ _)

theorem Part.beginOp_shifts (op : MemOp) : p.Shifts (p.beginOp op) := by
  cases op with
  | statusWrite y =>
    have h : p.Shifts (p.raiseEdition (.statusWrite y)) := by
      unfold Part.raiseEdition; exact (p.runs_updArm y _ (by rfl)).shifts
    exact h.trans (Part.shifts_still rfl rfl rfl rfl rfl)
  | _ => exact Part.shifts_still rfl rfl rfl rfl rfl

theorem Part.startNext_shifts : p.Shifts p.startNext := by
  obtain ⟨-, e⟩ | ⟨-, -, he, e⟩ | ⟨-, -, -, e⟩ | ⟨op, rest, -, -, -, e⟩ | ⟨op, rest, -, -, -, e⟩ :=
    p.startNext_cases <;> rw [e]
  · exact .refl
  · exact p.closeDone_shifts he
  · exact .refl
  · have h : p.Shifts { p with opQueue := rest } := Part.shifts_still rfl rfl rfl rfl rfl
    exact h.trans (Part.beginOp_shifts _ op)
  · have h : p.Shifts { p with opQueue := rest } := Part.shifts_still rfl rfl rfl rfl rfl
    exact h.trans (Part.takeFault_shifts _ _)

theorem Part.driveStopLine_shifts : p.Shifts (p.driveStopLine x) := by
  unfold Part.driveStopLine; exact (p.runs_updArm x _ (by rfl)).shifts

theorem Part.settle_shifts (b : Part) : p.Shifts (Part.settle b p) := by
  have hp : p.Shifts ((p.publish .a).publish .b) :=
    (Part.Runs.of_blocks ((Part.blocks_publish _ .b).trans (Part.blocks_publish _ .a))).shifts
  have hm : ∀ q : Part, q.Shifts (Part.sendMessage b q) := fun q => by
    unfold Part.sendMessage
    split
    · exact Part.shifts_still rfl rfl rfl rfl rfl
    · exact .refl
  exact (((hp.trans (Part.startNext_shifts _)).trans (Part.driveStopLine_shifts _ .a)).trans
    (Part.driveStopLine_shifts _ .b)).trans (hm _)

/-! ## The start of serving (R172) -/

/-- What guardOffline makes of x's share: an OFFLINE guard (R87). -/
theorem Part.guardOffline_arm (c : StopCause) : ∃ k, ((p.guardOffline x c).arm x =
      ({ p.arm x with guard := { resetGuard with
          reasons := { noReasons with host := (p.arm x).hold }, stopCause := c } } : ArmPart).due k) ∧
    (p.guardOffline x c).arm x.other = p.arm x.other ∧ (p.guardOffline x c).engine = p.engine ∧
    (p.guardOffline x c).setup = p.setup ∧ (p.guardOffline x c).inReset = p.inReset := by
  obtain ⟨q, rfl, e | e | e⟩ := p.guardOffline_cases x c <;> rw [e]
  · refine ⟨p.marksKept, ?_⟩
    rw [Part.guardChanged_eq, Part.updGuard_eq, Part.updArm_eq_acts]; simp
  · refine ⟨p.marksKept, ?_⟩
    rw [Part.markDue_eq, Part.updGuard_eq, Part.updArm_eq_acts]; simp
  · refine ⟨false, ?_⟩
    simp [Part.updGuard_eq]

theorem Part.startArm_core (f : Setup) : ((p.startArm f x).arm x).core = ((p.arm x).started (f.arm x).acfg).core ∧
    (p.startArm f x).arm x.other = p.arm x.other ∧ (p.startArm f x).engine = p.engine ∧
    (p.startArm f x).setup = p.setup ∧ (p.startArm f x).inReset = p.inReset := by
  obtain ⟨k, hx, ho, he, hs, hr⟩ := p.guardOffline_arm x (p.arm x).guard.stopCause
  unfold Part.startArm
  refine ⟨?_, by simp [ho], by simp [he], by simp [hs], by simp [hr]⟩
  rw [Part.updArm_arm, hx]; rfl

theorem Part.blocks_clearTable (nx ny nz : Nat) : (p.clearTable nx ny nz).blocks = p.blocks := by
  have hc : ∀ (q : Part) (y : Arm), (q.clearClaims y).blocks = q.blocks := fun q y => by
    obtain ⟨-, e⟩ | ⟨-, -, e⟩ := q.clearClaims_cases y <;> rw [e]
    · rw [Part.blocks_markDue]; exact q.blocks_updArm y _ rfl
    · exact q.blocks_updArm y _ rfl
  rw [Part.clearTable, hc, hc, Part.blocks_setTable]

/-- Clearing the table leaves the HOLD bits alone. -/
theorem Part.clearTable_hold (nx ny nz : Nat) (y : Arm) : ((p.clearTable nx ny nz).arm y).hold = (p.arm y).hold := by
  have hc : ∀ (q : Part) (z : Arm), ((q.clearClaims z).arm y).hold = (q.arm y).hold := fun q z => by
    obtain ⟨-, e⟩ | ⟨-, -, e⟩ := q.clearClaims_cases z <;> rw [e] <;> by_cases h : y = z
    · subst h; simp
    · obtain rfl := Arm.eq_other_of_ne h; simp
    · subst h; simp
    · obtain rfl := Arm.eq_other_of_ne h; simp
  rw [Part.clearTable, hc, hc, Part.setTable_arm]

theorem Part.startServing_shifts (f : Setup) (hf : f.valid = true) (first : Arm) :
    p.Shifts (p.startServing f first) := by
  unfold Part.startServing
  dsimp only
  generalize hc : Part.clearTable _ f.nx f.ny f.nz = c
  have hcs : c.engine = .serving ∧ c.setup = some f ∧ c.inReset = p.inReset := by
    have h := fun q : Part => Part.Runs.of_blocks (q.blocks_clearTable f.nx f.ny f.nz)
    rw [← hc, (h _).engine, (h _).setup, (h _).inReset]
    exact ⟨rfl, rfl, rfl⟩
  obtain ⟨ha, hao, hae, has, har⟩ := c.startArm_core .a f
  obtain ⟨hb, hbo, hbe, hbs, hbr⟩ := (c.startArm f .a).startArm_core .b f
  have hserving : ((c.startArm f .a).startArm f .b).engine = .serving := by rw [hbe, hae, hcs.1]
  have hstart : p.Shift ((c.startArm f .a).startArm f .b) := by
    refine .starts f hf hserving (by rw [hbs, has, hcs.2.1]) fun y => ⟨(c.arm y).hold, ?_⟩
    cases y
    · rw [show ((c.startArm f .a).startArm f .b).arm .a = (c.startArm f .a).arm .a from hbo, ha]; rfl
    · rw [hb, show (c.startArm f .a).arm .b = c.arm .b from hao]; rfl
  refine (hstart.shifts (by rw [hbr, har, hcs.2.2]; exact id)).trans (Part.Runs.of_blocks ?_).shifts
  rw [← Part.promptBoth, Part.blocks_promptBoth,
    Part.blocks_queueStatus _ _ (by simpa [Part.queueStatus, Part.updChain_eq] using hserving),
    Part.blocks_queueStatus _ _ (by simpa using hserving), Part.blocks_setCause]

/-- A block that no field refuses is valid. -/
theorem valid_of_accepted {data : BitVec 1024} (h : setupRefusal data = none) : (readSetup data).valid = true := by
  unfold setupRefusal firstFailing at h
  simp only [Option.map_eq_none_iff, List.find?_eq_none, List.mem_cons, forall_eq_or_imp] at h
  simpa [Setup.valid] using h.2

theorem Part.opDone_shifts : p.Shifts p.opDone := Part.shifts_still rfl rfl rfl rfl rfl

theorem Part.setupReadDone_shifts (data : BitVec 1024) (first : Arm) : p.Shifts (p.setupReadDone data first) := by
  unfold Part.setupReadDone
  split
  · split
    · split
      · exact p.opDone_shifts
      · next hl =>
        have hload : p.opDone.engine = .loading := by
          show p.engine = .loading
          simpa using (not_or.mp hl).2
        refine p.opDone_shifts.trans ?_
        unfold Part.checkSetup
        split
        · exact (Part.endLoad_shifts _ hload _ _).trans (Part.Runs.of_blocks (Part.blocks_setCause _ _)).shifts
        · exact Part.startServing_shifts _ _ (valid_of_accepted ‹_›) _
    · exact .refl
  · exact .refl

/-! ## Withdrawals, teardown and arm resets (R106, R173) -/

theorem Part.withdrawalOps_serving : p.engine = .serving ∨ p.withdrawalOps x = [] := by
  by_cases he : p.engine = .serving
  · exact .inl he
  · have hr : ∀ slot v f, p.resultOps x slot v f = [] := fun slot v f => (p.resultOps_serving x slot v f).resolve_left he
    have hs : ∀ slot v f, p.slotOps x slot v f = [] := fun slot v f => (p.slotOps_serving x slot v f).resolve_left he
    right
    rw [Part.withdrawalOps_eq, Part.withdrawWaitingOps, Part.withdrawAdmissionOps, Part.withdrawTestOps]
    cases (p.arm x).waiting <;> simp [hr, hs]

theorem Part.withdraw_arm : (∃ k b, (p.withdraw x).arm x = ((p.arm x).withdrawn.due k).replied b) ∧
    (p.withdraw x).arm x.other = p.arm x.other ∧ (p.withdraw x).engine = p.engine ∧
    (p.withdraw x).setup = p.setup ∧ (p.withdraw x).inReset = p.inReset := by
  obtain ⟨k, b, flags, -, e⟩ := p.withdraw_eq x
  rw [e]
  exact ⟨⟨k, b, by simp⟩, by simp, by simp, by simp, by simp⟩

/-- An arm at the entry into CLOSING (R173). -/
theorem Part.closeArm_arm : (∃ j k, (p.closeArm x).arm x = ((p.arm x).closed.due j).noted k) ∧
    (p.closeArm x).arm x.other = p.arm x.other ∧ (p.closeArm x).engine = p.engine ∧
    (p.closeArm x).setup = p.setup ∧ (p.closeArm x).inReset = p.inReset := by
  obtain ⟨j, hx, ho, he, hs, hr⟩ := p.guardOffline_arm x .none
  unfold Part.closeArm
  dsimp only
  split
  · refine ⟨⟨j, false, ?_⟩, by simp [ho], by simp [he], by simp [hs], by simp [hr]⟩
    rw [Part.updArm_arm, hx, ArmPart.noted_false]; rfl
  · rw [Part.markChanged_eq]
    generalize Part.marksKept _ = k
    refine ⟨⟨j, k, ?_⟩, by simp [ho], by simp [he], by simp [hs], by simp [hr]⟩
    rw [Part.acts_arm, Part.updArm_arm, hx]; rfl

/-- Both arms' open requests withdrawn. -/
theorem Part.withdrawBoth_arm (first y : Arm) :
    (∃ k b, (p.bothArms first Part.withdraw).arm y = ((p.arm y).withdrawn.due k).replied b) ∧
    (p.bothArms first Part.withdraw).engine = p.engine ∧ (p.bothArms first Part.withdraw).setup = p.setup ∧
    (p.bothArms first Part.withdraw).inReset = p.inReset := by
  obtain ⟨hx, ho, he, hs, hr⟩ := p.withdraw_arm first
  obtain ⟨hx', ho', he', hs', hr'⟩ := (p.withdraw first).withdraw_arm first.other
  unfold Part.bothArms
  refine ⟨?_, by rw [he', he], by rw [hs', hs], by rw [hr', hr]⟩
  by_cases hy : y = first
  · subst hy; rw [Arm.other_other] at ho'; rw [ho']; exact hx
  · obtain rfl := Arm.eq_other_of_ne hy
    rw [ho] at hx'; exact hx'

theorem Part.teardown_shifts (he : p.engine = .serving) (first : Arm) : p.Shifts (p.teardown first) := by
  unfold Part.teardown
  dsimp only
  generalize hs : Part.updChain _ .b Chain.stopWalk = s
  have hps : p.Shifts s := by
    rw [← hs]
    have h0 : p.Shifts { p with opQueue := p.opQueue.filter MemOp.isSlotWrite, serve := false } :=
      Part.shifts_still rfl rfl rfl rfl rfl
    refine h0.trans ?_
    exact ((Part.runs_updArm _ .a _ (by rfl)).trans (Part.runs_updArm _ .b _ (by rfl))).shifts
  have hse : s.engine = .serving := by rw [← hs, ← he]; rfl
  have hw := s.withdrawBoth_arm first
  generalize s.bothArms first Part.withdraw = w at hw ⊢
  generalize hc : ({ w with engine := .closing, pollTimer := none, publishTimer := none } : Part) = c
  have hcw : ∀ y, c.arm y = w.arm y := fun y => by rw [← hc]; cases y <;> rfl
  obtain ⟨⟨ja, ka, ha⟩, hao, hae, has, har⟩ := c.closeArm_arm .a
  obtain ⟨⟨jb, kb, hb⟩, hbo, hbe, hbs, hbr⟩ := (c.closeArm .a).closeArm_arm .b
  refine hps.trans ?_
  generalize hd : (c.closeArm .a).closeArm .b = d at *
  have hde : d.engine = .closing := by rw [hbe, hae, ← hc]
  have hds : d.setup = s.setup := by
    rw [hbs, has, ← hc]; exact (hw .a).2.2.1
  have hdr : d.inReset = s.inReset := by
    rw [hbr, har, ← hc]; exact (hw .a).2.2.2
  have hcore : ∀ y, (d.arm y).core = ((s.arm y).withdrawn.closed).core := fun y => by
    cases y
    · obtain ⟨⟨k, b, e⟩, -⟩ := hw .a
      rw [show d.arm .a = (c.closeArm .a).arm .a from hbo, ha, hcw, e]; rfl
    · obtain ⟨⟨k, b, e⟩, -⟩ := hw .b
      rw [hb, show (c.closeArm .a).arm .b = c.arm .b from hao, hcw, e]; rfl
  have hq : ∀ (u : Part) (y : Arm), u.Shifts (u.queueStatus y) := fun u y => by
    refine ((u.runs_updArm y _ (by rfl)).shifts (q := u.updChain y fun c => { c with blockQueued := true })).trans ?_
    exact Part.shifts_still rfl rfl rfl rfl rfl
  have ht : d.Shifts (d.clearTable 0 0 0) := (Part.Runs.of_blocks (d.blocks_clearTable 0 0 0)).shifts
  exact ((((Part.Shift.closes hse hde hds hcore).shifts (by rw [hdr]; exact id)).trans ht).trans (hq _ .a)).trans (hq _ .b)

theorem Part.runs_armReset : p.Runs (p.armReset x) := by
  obtain ⟨k, b, flags, hf, e⟩ := p.withdraw_eq x
  refine .moves .refl x (Part.Move.resets (p := p) (x := x) (p.arm x).guard.reasons.host) ?_
  have hw : (p.withdraw x).core = (p.updArm x fun r => r.withdrawn).core := by
    rw [e]
    refine (p.core_acts x (r := (p.arm x).withdrawn) (by rfl) hf _ (p.withdrawalOps_serving x)).trans ?_
    cases x <;> rfl
  have hb : ((p.withdraw x).parkClaims x).core = (p.updArm x fun r => r.withdrawn).core :=
    (Part.core_of_blocks (Part.blocks_parkClaims _ x)).trans hw
  have hs : ((p.withdraw x).parkClaims x).setup = p.setup := by
    have := congrArg Part.setup hb
    exact this.trans (by cases x <;> rfl)
  have hl : (((p.withdraw x).parkClaims x).arm x).link.state = (p.arm x).link.state := by
    have := congrArg (fun r => r.link.state) (Part.arm_core_of_core hb x)
    refine this.trans ?_
    rw [Part.updArm_arm]
    unfold ArmPart.withdrawn
    dsimp only
    split <;> rfl
  unfold Part.armReset
  dsimp only
  generalize (p.withdraw x).parkClaims x = q at hb hs hl ⊢
  have hcause : ∀ u : Part, (if (p.arm x).guard.state = .offline ∧
      (p.arm x).guard.reasons = { noReasons with host := (p.arm x).guard.reasons.host } then u
      else u.setCause (armCause x)).blocks = u.blocks := fun u => by
    split
    · rfl
    · exact u.blocks_setCause _
  rw [Part.core_of_blocks (Part.blocks_markDue _ x), Part.core_of_blocks (hcause _), hs]
  have hchain : (q.arm x).chain.cursor = (p.arm x).chain.cursor ∧ (q.arm x).chain.openSlot = (p.arm x).chain.openSlot := by
    have h := congrArg (fun r => (r.chain.cursor, r.chain.openSlot)) (Part.arm_core_of_core hb x)
    rw [Part.updArm_arm] at h
    have hw : (p.arm x).withdrawn.core.chain = (p.arm x).core.chain := by
      unfold ArmPart.withdrawn; dsimp only; split <;> rfl
    simp only [hw] at h
    exact ⟨congrArg Prod.fst h, congrArg Prod.snd h⟩
  refine (Part.core_updArm hb (g := fun _ => { p.arm x with
      guard := { resetGuard with reasons := { noReasons with host := (p.arm x).guard.reasons.host } }
      monitor := resetMonitor
      test := resetTest (match p.setup with
        | some f => (f.arm x).acfg
        | none => 0)
      link := resetLink (p.arm x).link.state }) ?_).trans ?_
  · unfold ArmPart.core
    dsimp only
    rw [hl, hchain.1, hchain.2] <;> cases p.setup <;> rfl
  · rw [Part.updArm_updArm] <;> rfl

/-! ## From FAULTED to IDLE (R174) -/

theorem Part.endFaultedArm_core : ((p.endFaultedArm x).arm x).core = ((p.arm x).ended).core ∧
    (p.endFaultedArm x).arm x.other = p.arm x.other ∧ (p.endFaultedArm x).inReset = p.inReset := by
  unfold Part.endFaultedArm ArmPart.ended
  dsimp only
  by_cases hs : (p.arm x).guard.state.inService = true
  · rw [if_pos hs, if_pos hs, Part.enterStopped_eq]
    refine ⟨?_, by simp, by simp⟩
    rw [Part.updArm_arm, Part.acts_arm]; rfl
  · rw [if_neg hs, if_neg hs]
    refine ⟨?_, by simp, by simp⟩
    rw [Part.updArm_arm]; rfl

theorem Part.endFaulted_shifts (he : p.engine = .faulted) (first : Arm) : p.Shifts (p.endFaulted first) := by
  obtain ⟨hx, ho, hr⟩ := p.endFaultedArm_core first
  obtain ⟨hx', ho', hr'⟩ := (p.endFaultedArm first).endFaultedArm_core first.other
  rw [Arm.other_other] at ho'
  have harm : ∀ y, ((p.bothArms first Part.endFaultedArm).arm y).core = ((p.arm y).ended).core := fun y => by
    unfold Part.bothArms
    by_cases hyf : y = first
    · subst hyf; rw [ho', hx]
    · obtain rfl := Arm.eq_other_of_ne hyf
      rw [hx', ho]
  unfold Part.endFaulted
  have hreset : (p.bothArms first Part.endFaultedArm).inReset = p.inReset := hr'.trans hr
  refine Part.Shift.shifts (.ends he rfl rfl fun y => ?_) hreset.trans
  cases y
  · exact harm .a
  · exact harm .b

end

end Sys2Proof.Machine

/-! SUPPORT. Every command's effect, and every step of a part out of reset, is a row of shifts. -/

namespace Sys2Proof.Machine

section
variable (p : Part) (x : Arm)

theorem Part.Shifts.ite {p a b : Part} {c : Prop} [Decidable c] (ha : p.Shifts a) (hb : p.Shifts b) :
    p.Shifts (if c then a else b) := by
  split <;> assumption

theorem Part.Runs.ite {p a b : Part} {c : Prop} [Decidable c] (ha : p.Runs a) (hb : p.Runs b) :
    p.Runs (if c then a else b) := by
  split <;> assumption

/-! ## Commands that are runs -/

/-- A link that makes a move. -/
theorem Part.runs_updLink (f : Link → Link) (hf : Link.Move (p.arm x).guard.state (p.arm x).link (f (p.arm x).link)) :
    p.Runs (p.updLink x f) := (Part.Move.links _ hf).updArm _ rfl

theorem Part.runs_setCause (c : Cause) : p.Runs (p.setCause c) := .of_blocks (p.blocks_setCause c)

theorem Part.runs_writeHold (v : Bool) : p.Runs (p.writeHold x v) := by
  have hv : p.Runs (p.updArm x fun r => { r with hold := v }) := p.runs_updArm x _ rfl
  unfold Part.writeHold
  dsimp only
  split
  · exact .refl
  · split
    · exact hv.trans (Part.runs_addReason _ x .host)
    · exact hv.trans (Part.runs_removeReason _ x .host (by simp))

theorem Part.runs_promptBoth (first : Arm) : p.Runs (p.promptBoth first) := .of_blocks (p.blocks_promptBoth first)

theorem Part.runs_slotDone : p.Runs (p.slotDone x) :=
  ((Part.Runs.of_blocks (p.blocks_setCause .verdict)).trans (Part.Move.closes.updArm _ (by rfl))).trans
    (.of_blocks ((Part.blocks_prompt _ x).trans (Part.blocks_markDue _ x)))

theorem Part.runs_discardFrame : p.Runs (p.discardFrame x) :=
  (p.runs_updLink x _ .drops).trans (Part.runs_setCause _ .link)

theorem Part.runs_rxByte (b : Byte) (framing : Bool) : p.Runs (p.rxByte x b framing) := by
  unfold Part.rxByte
  dsimp only
  split
  · exact .refl
  · next ha hp =>
    unfold Part.rxHunt
    split
    · exact .refl
    · split
      · exact p.runs_updLink x _ (.starts b _ ha)
      · exact .ite ((p.runs_setCause .link).trans (Part.runs_escalate _ x .estop)) .refl
  · next ha hp =>
    unfold Part.rxFrame Part.acceptFrame
    dsimp only
    split
    · exact p.runs_discardFrame x
    · split
      · exact p.runs_discardFrame x
      · split
        · split
          · next hf => exact p.runs_updLink x _ (.accepts _ ha hf.2)
          · exact p.runs_discardFrame x
        · next hl =>
          refine p.runs_updLink x (fun l => { l with received := _, gapTimer := _ }) (.joins b _ ha hp ?_)
          simp only [frameLength, List.length_append, List.length_singleton, Nat.not_le] at hl
          omega

theorem Part.runs_nextReport : p.Runs (p.nextReport x) := by
  unfold Part.nextReport
  split
  · exact .refl
  · exact (p.runs_updArm x _ (by rfl)).trans (Part.runs_takeReport _ x _)

theorem Part.runs_nextNotice : p.Runs (p.nextNotice x) := by
  unfold Part.nextNotice
  split
  · exact .refl
  · next n rest _ =>
    have hn := (p.runs_updArm x (fun a => { a with notices := rest }) rfl).trans (Part.runs_takeNotice _ x n)
    exact .ite (hn.trans (Part.runs_settleEvaluation _ x)) hn

theorem Part.runs_nextAnswer : p.Runs (p.nextAnswer x) := by
  unfold Part.nextAnswer
  split
  · exact .refl
  · exact (p.runs_updArm x _ (by rfl)).trans (Part.runs_takeAnswer _ x _)

theorem Part.runs_nextFigures : p.Runs (p.nextFigures x) := by
  unfold Part.nextFigures
  split
  · exact .refl
  · exact (p.runs_updArm x _ (by rfl)).trans (Part.runs_takeFigures _ x _)

theorem Part.runs_admitWindowExpires : p.Runs (p.admitWindowExpires x) := by
  unfold Part.admitWindowExpires
  dsimp only
  split
  · next hw => exact p.runs_failAdmission x hw.2.1 .window
  · exact .refl

theorem Part.runs_waitExpires : p.Runs (p.waitExpires x) := by
  unfold Part.waitExpires
  split
  · exact .ite (.of_blocks (by simp)) .refl
  · exact .refl

theorem Part.runs_holdRepeats : p.Runs (p.holdRepeats x) := by
  unfold Part.holdRepeats
  split
  · next hh => exact p.runs_updLink x _ (.repeats _ hh.1)
  · exact .refl

theorem Part.runs_cellstopEscalates : p.Runs (p.cellstopEscalates x) := .ite (p.runs_escalate x .cellStop) .refl

/-! ## Commands of the engine and of the inputs -/

/-- The effects that go beyond runs of moves: they concern the engine, the registers, the interface and the inputs. -/
inductive Part.Engine : (Part → Part) → Prop
  | serveSet : Engine Part.serveSet
  | serveClear (first : Arm) : Engine fun p => p.serveClear first
  | partReset : Engine Part.partReset
  | writeCause (v : Word) : Engine fun p => p.writeCause v
  | writeCauseMask (v : Word) : Engine fun p => p.writeCauseMask v
  | writeBase (which : BaseRegister) (v : Word) : Engine fun p => p.writeBase which v
  | writeWindow (offset : BitVec 6) (size : Nat) (v : Word) : Engine fun p => p.writeWindow offset size v
  | setupReadDone (data : BitVec 1024) (first : Arm) : Engine fun p => p.setupReadDone data first
  | nextReadDone (next : Byte) : Engine fun p => p.nextReadDone next
  | slotReadDone (data : BitVec 512) : Engine fun p => p.slotReadDone data
  | writeDone : Engine Part.writeDone
  | readTimedOut : Engine Part.readTimedOut
  | memoryFails (f : MemoryFailure) : Engine fun p => p.memoryFails f
  | losePcie (c : PcieCondition) : Engine fun p => p.losePcie c
  | pollExpires (first : Arm) : Engine fun p => p.pollExpires first
  | publishExpires : Engine Part.publishExpires
  | assertCellstop (first : Arm) : Engine fun p => p.assertCellstop first
  | releaseCellstop : Engine Part.releaseCellstop
  | writeConfiguration (bm msg : Bool) : Engine fun p => p.writeConfiguration bm msg
  | pcieLink (up : Bool) : Engine fun p => p.pcieLink up

/-- Every command's effect is a run, or concerns the engine. -/
theorem Part.Effect.runs_or_engine {f : Part → Part} (hf : Part.Effect f) : p.Runs (f p) ∨ Part.Engine f := by
  cases hf with
  | serveSet => exact .inr .serveSet
  | serveClear first => exact .inr (.serveClear first)
  | writeHold x v => exact .inl (p.runs_writeHold x v)
  | partReset => exact .inr .partReset
  | armReset x => exact .inl (p.runs_armReset x)
  | writeCause v => exact .inr (.writeCause v)
  | writeCauseMask v => exact .inr (.writeCauseMask v)
  | promptBoth first => exact .inl (p.runs_promptBoth first)
  | writeBase which v => exact .inr (.writeBase which v)
  | writeWindow offset size v => exact .inr (.writeWindow offset size v)
  | setupReadDone data first => exact .inr (.setupReadDone data first)
  | nextReadDone next => exact .inr (.nextReadDone next)
  | slotReadDone data => exact .inr (.slotReadDone data)
  | writeDone => exact .inr .writeDone
  | readTimedOut => exact .inr .readTimedOut
  | memoryFails failure => exact .inr (.memoryFails failure)
  | losePcie c => exact .inr (.losePcie c)
  | pollExpires first => exact .inr (.pollExpires first)
  | publishExpires => exact .inr .publishExpires
  | rxByte x b framing => exact .inl (p.runs_rxByte x b framing)
  | byteGapExpires x => exact .inl (.ite (p.runs_discardFrame x) .refl)
  | lineFree x => exact .inl (p.runs_updLink x _ .frees)
  | holdRepeats x => exact .inl (p.runs_holdRepeats x)
  | takeFrame x => exact .inl (p.runs_takeFrame x)
  | staleExpires x => exact .inl (.ite (p.runs_expireStale x) .refl)
  | lossExpires x => exact .inl (.ite (p.runs_expireLoss x) .refl)
  | nextReport x => exact .inl (p.runs_nextReport x)
  | nextNotice x => exact .inl (p.runs_nextNotice x)
  | nextAnswer x => exact .inl (p.runs_nextAnswer x)
  | holdAckExpires x => exact .inl (.ite (p.runs_escalate x .holdAck) .refl)
  | admitWindowExpires x => exact .inl (p.runs_admitWindowExpires x)
  | assertCellstop first => exact .inr (.assertCellstop first)
  | releaseCellstop => exact .inr .releaseCellstop
  | nextFigures x => exact .inl (p.runs_nextFigures x)
  | testWindowExpires x => exact .inl (.ite (p.runs_overrunTest x) .refl)
  | waitExpires x => exact .inl (p.runs_waitExpires x)
  | writeConfiguration bm msg => exact .inr (.writeConfiguration bm msg)
  | pcieLink up => exact .inr (.pcieLink up)

theorem Part.serveClear_shifts (first : Arm) : p.Shifts (p.serveClear first) := by
  unfold Part.serveClear
  split
  · split
    next he => exact (p.endLoad_shifts he .abandoned 0).trans (Part.shifts_still rfl rfl rfl rfl rfl)
    next he => exact p.teardown_shifts he first
    next he => exact p.endFaulted_shifts he first
    all_goals exact .refl
  · exact .refl

theorem Part.writeBase_shifts (which : BaseRegister) (v : Word) : p.Shifts (p.writeBase which v) := by
  unfold Part.writeBase
  split
  · split <;> exact Part.shifts_still rfl rfl rfl rfl rfl
  · exact .refl

theorem Part.partReset_shifts : p.Shifts p.partReset :=
  Part.Shift.shifts (.resets rfl rfl fun y => by cases y <;> rfl) fun _ => rfl

theorem Part.pinReset_shifts : p.Shifts p.pinReset :=
  Part.Shift.shifts (.resets rfl rfl fun y => by cases y <;> rfl) fun _ => rfl

/-- The arms' part of a CONTROL write (R177, R106, R91). -/
def Part.controlArms (p : Part) (v : Word) : Part :=
  let p := (p.writeHold .a (v.getLsbD 1)).writeHold .b (v.getLsbD 2)
  let p := if v.getLsbD 9 then p.armReset .a else p
  if v.getLsbD 10 then p.armReset .b else p

theorem Part.writeControl_eq (v : Word) : p.writeControl v = if v.getLsbD 8 then p.partReset
    else if v.getLsbD 0 then (p.controlArms v).serveSet else (p.controlArms v).serveClear .a := rfl

theorem Part.runs_controlArms (v : Word) : p.Runs (p.controlArms v) := by
  have hh := (p.runs_writeHold .a (v.getLsbD 1)).trans (Part.runs_writeHold _ .b (v.getLsbD 2))
  have hr : ∀ q : Part, p.Runs q → ∀ (b : Bool) y, p.Runs (if b then q.armReset y else q) := fun q hq b y =>
    .ite (hq.trans (q.runs_armReset y)) hq
  exact hr _ (hr _ hh (v.getLsbD 9) .a) (v.getLsbD 10) .b

theorem Part.writeWindow_shifts (offset : BitVec 6) (size : Nat) (v : Word) : p.Shifts (p.writeWindow offset size v) := by
  unfold Part.writeWindow
  split
  · split
    · rw [Part.writeControl_eq]
      have hc := (p.runs_controlArms v).shifts
      exact .ite p.partReset_shifts (.ite (hc.trans (Part.serveSet_shifts _)) (hc.trans (Part.serveClear_shifts _ .a)))
    · exact Part.shifts_still rfl rfl rfl rfl rfl
    · exact Part.shifts_still rfl rfl rfl rfl rfl
    · exact (p.runs_promptBoth .a).shifts
    · exact p.writeBase_shifts .lo v
    · exact p.writeBase_shifts .hi v
    · exact .refl
  · exact .refl

theorem Part.nextReadDone_shifts (next : Byte) : p.Shifts (p.nextReadDone next) := by
  unfold Part.nextReadDone
  split
  · split
    · next he =>
      have he' : p.opDone.engine = .serving := he
      exact p.opDone_shifts.trans (Part.Runs.of_blocks (Part.blocks_takeNext _ _ _ he')).shifts
    · exact p.opDone_shifts
  · exact .refl

theorem Part.slotReadDone_shifts (data : BitVec 512) : p.Shifts (p.slotReadDone data) := by
  unfold Part.slotReadDone
  split
  · split
    · next he =>
      have he' : p.opDone.engine = .serving := he
      exact p.opDone_shifts.trans (Part.runs_takeCandidate _ _ he' _ _).shifts
    · exact p.opDone_shifts
  · exact .refl

theorem Part.writeDone_shifts : p.Shifts p.writeDone := by
  have hl : ∀ r, p.Shifts (p.landWrite r).opDone := fun r => Part.shifts_still rfl rfl rfl rfl rfl
  unfold Part.writeDone
  split
  · split
    · exact .refl
    · split
      · exact (hl _).trans (Part.runs_slotDone _ _).shifts
      · exact hl _
  · exact .refl

theorem Part.losePcie_shifts (c : PcieCondition) : p.Shifts (p.losePcie c) := by
  unfold Part.losePcie
  refine Part.Shifts.trans ?_ (Part.failRunning_shifts _ _)
  cases c <;> exact Part.shifts_still rfl rfl rfl rfl rfl

theorem Part.memoryFails_shifts (f : MemoryFailure) : p.Shifts (p.memoryFails f) := by
  unfold Part.memoryFails
  split
  · exact .refl
  · split
    · exact .ite (p.failRunning_shifts _) .refl
    · exact .ite (p.failRunning_shifts _) .refl
    · exact p.losePcie_shifts _
    · exact p.losePcie_shifts _

theorem Part.Engine.shifts {f : Part → Part} (hf : Part.Engine f) : p.Shifts (f p) := by
  cases hf with
  | serveSet => exact p.serveSet_shifts
  | serveClear first => exact p.serveClear_shifts first
  | partReset => exact p.partReset_shifts
  | writeCause v => exact Part.shifts_still rfl rfl rfl rfl rfl
  | writeCauseMask v => exact Part.shifts_still rfl rfl rfl rfl rfl
  | writeBase which v => exact p.writeBase_shifts which v
  | writeWindow offset size v => exact p.writeWindow_shifts offset size v
  | setupReadDone data first => exact p.setupReadDone_shifts data first
  | nextReadDone next => exact p.nextReadDone_shifts next
  | slotReadDone data => exact p.slotReadDone_shifts data
  | writeDone => exact p.writeDone_shifts
  | readTimedOut =>
    unfold Part.readTimedOut
    split
    · exact .ite (p.failRunning_shifts _) .refl
    · exact .refl
  | memoryFails failure => exact p.memoryFails_shifts failure
  | losePcie c => exact p.losePcie_shifts c
  | pollExpires first =>
    have hq : p.Shifts { p with pollTimer := p.afterMs p.figures.pollInterval } := Part.shifts_still rfl rfl rfl rfl rfl
    exact .ite (hq.trans (Part.runs_promptBoth _ first).shifts) .refl
  | publishExpires =>
    have hq : p.Shifts { p with publishTimer := p.afterMs p.figures.publishInterval } :=
      Part.shifts_still rfl rfl rfl rfl rfl
    exact .ite (hq.trans (Part.Runs.of_blocks
      ((Part.blocks_publishChanged _ .b).trans (Part.blocks_publishChanged _ .a))).shifts) .refl
  | assertCellstop first =>
    show p.Shifts (p.assertCellstop first)
    obtain ⟨-, e⟩ | ⟨-, e⟩ := p.assertCellstop_cases first <;> rw [e]
    · have hs : p.Shifts (p.setCellstopPin true).seeCellstop := Part.shifts_still rfl rfl rfl rfl rfl
      exact hs.trans ((Part.runs_cellstopEscalates _ first).trans (Part.runs_cellstopEscalates _ first.other)).shifts
    · exact Part.shifts_still rfl rfl rfl rfl rfl
  | releaseCellstop =>
    obtain ⟨-, e⟩ | ⟨-, e⟩ := p.releaseCellstop_cases <;> rw [e] <;> exact Part.shifts_still rfl rfl rfl rfl rfl
  | writeConfiguration bm msg =>
    have hq : p.Shifts { p with msgEnable := msg, busMaster := bm } := Part.shifts_still rfl rfl rfl rfl rfl
    exact .ite hq (hq.trans (Part.failRunning_shifts _ _))
  | pcieLink up => exact .ite (Part.shifts_still rfl rfl rfl rfl rfl) (p.losePcie_shifts _)

/-- Every command's effect is a row of shifts. -/
theorem Part.Effect.shifts {f : Part → Part} (hf : Part.Effect f) : p.Shifts (f p) :=
  (hf.runs_or_engine p).elim (fun h => h.shifts) fun h => h.shifts p

theorem Part.Effect.settled_shifts {f : Part → Part} (hf : Part.Effect f) : p.Shifts (Part.settle p (f p)) :=
  (hf.shifts p).trans (Part.settle_shifts _ p)

end

/-- A part out of reset stays out of reset. -/
theorem Part.Shifts.inReset {p q : Part} (h : p.Shifts q) (hp : p.inReset = false) : q.inReset = false := by
  induction h with
  | refl => exact hp
  | tail _ hq ih =>
    cases hq with
    | runs hr => rw [hr.inReset, ih]
    | still _ _ _ hr => rw [hr, ih]
    | shift _ hr => exact hr ih

/-! ## Laws of the arms -/

/-- A law that the arms' cores, the engine's state and the figures in force decide, and that every move and every shift
of the engine's state keeps. -/
structure ArmsLaw (P : Part → Prop) : Prop where
  reads : ∀ p q : Part, (∀ y, (q.arm y).core = (p.arm y).core) → q.engine = p.engine → q.setup = p.setup → P p → P q
  move : ∀ (p : Part) (x : Arm) (r : ArmPart), p.Move x r → P p → P (p.updArm x fun _ => r)
  shift : ∀ p q : Part, p.Shift q → P p → P q

theorem ArmsLaw.runs {P : Part → Prop} (h : ArmsLaw P) {p q : Part} (hr : p.Runs q) (hp : P p) : P q :=
  hr.keeps (fun u v hc => h.reads u v (Part.arm_core_of_core hc) (Part.Runs.of_core hc).engine (Part.Runs.of_core hc).setup)
    h.move hp

theorem ArmsLaw.shifts {P : Part → Prop} (h : ArmsLaw P) {p q : Part} (hs : p.Shifts q) (hp : P p) : P q := by
  induction hs with
  | refl => exact hp
  | @tail q u _ hq ih =>
    cases hq with
    | runs hr => exact h.runs hr ih
    | still ha he hs _ => exact h.reads q u ha he hs ih
    | shift hs _ => exact h.shift q u hs ih

/-- A law of one arm's share, decided by its core: it needs to be kept by the moves of that share, and by the shifts of
the engine's state as they change one share. -/
structure ArmLaw (L : Arm → ArmPart → EngineState → Option Setup → Prop) : Prop where
  core : ∀ x (r : ArmPart) e s, L x r.core e s ↔ L x r e s
  move : ∀ (p : Part) x r, p.Move x r → L x (p.arm x) p.engine p.setup → L x r p.engine p.setup
  outside : ∀ x r (e : EngineState) s (e' : EngineState) s', e.guards = false → e'.guards = false → s' = s ∨ s' = none → L x r e s → L x r e' s'
  starts : ∀ x (r : ArmPart) (f : Setup), f.valid = true → L x (r.started (f.arm x).acfg) .serving (some f)
  closes : ∀ x (r : ArmPart) s, L x r .serving s → L x r.withdrawn.closed .closing s
  faults : ∀ x (r : ArmPart) s, L x r .serving s → L x r.abandoned .faulted s
  ends : ∀ x (r : ArmPart) s, L x r .faulted s → L x r.ended .idle none
  resets : ∀ x, L x resetArm .idle none

theorem ArmLaw.arms {L : Arm → ArmPart → EngineState → Option Setup → Prop} (h : ArmLaw L) :
    ArmsLaw fun p => ∀ y, L y (p.arm y) p.engine p.setup where
  reads p q ha he hs hp y := by
    rw [he, hs, ← h.core, ha, h.core]; exact hp y
  move p x r hm hp y := by
    rw [Part.updArm_engine, Part.updArm_setup]
    by_cases hy : y = x
    · subst hy; rw [Part.updArm_arm]; exact h.move p y r hm (hp y)
    · obtain rfl := Arm.eq_other_of_ne hy
      rw [Part.updArm_arm_other]; exact hp _
  shift p q hs hp y := by
    rw [← h.core]
    cases hs with
    | outside ha he hq hs => rw [ha, h.core]; exact h.outside _ _ _ _ _ _ he hq hs (hp y)
    | starts f hf hq hs ha =>
      obtain ⟨hold, e⟩ := ha y
      rw [e, h.core, hq, hs]; exact h.starts y _ f hf
    | closes he hq hs ha => rw [ha, h.core, hq, hs]; exact h.closes _ _ _ (he ▸ hp y)
    | faults he hq hs ha => rw [ha, h.core, hq, hs]; exact h.faults _ _ _ (he ▸ hp y)
    | ends he hq hs ha => rw [ha, h.core, hq, hs]; exact h.ends _ _ _ (he ▸ hp y)
    | resets hq hs ha => rw [ha, h.core, hq, hs]; exact h.resets y

end Sys2Proof.Machine

/-! PROOFS. Every step keeps the laws of the guards and of the stop test units (O57). -/

namespace Sys2Proof.Machine

/-- Both arms' guards, caps and stop test units are lawful. -/
def Part.GuardsOk (p : Part) : Prop := ∀ y, (p.arm y).GuardOk p.engine

theorem Part.guardsOk_iff (p : Part) : p.GuardsOk ↔ ∀ x, p.guardLaw x ∧ p.testLaw x :=
  forall_congr' fun x => (p.guardOk_iff x).symm

section
variable {r : ArmPart} {e : EngineState}

/-! ## Moves -/

/-- ADMITTING does not read the reasons. -/
theorem ArmPart.GuardOk.withReasons (h : r.GuardOk e) (hs : r.guard.state = .admitting) (s : Reasons) :
    (r.withReasons s).GuardOk e := by
  simp only [ArmPart.GuardOk, ArmPart.withReasons, hs] at h ⊢; exact h

/-- The arm that enters service is lawful. -/
theorem ArmPart.GuardOk.admits (h : r.GuardOk e) (hs : r.guard.state = .admitting) (p : Part) :
    (p.admitsArm r).GuardOk e := by
  simp only [ArmPart.GuardOk, hs] at h
  obtain ⟨hh, -, ht, he, -⟩ := h
  have hg : e.guards = true := by rw [he]; rfl
  unfold Part.admitsArm
  dsimp only
  split
  · next hr => exact ⟨hh, ⟨rfl, rfl, rfl, rfl, rfl⟩, ht, hg, hr⟩
  · next hr => exact ⟨⟨rfl, rfl, rfl, rfl, rfl⟩, hg, hr, by simp, by simp [Part.afterMs, timerAt], .inl ht⟩

theorem ArmPart.GuardOk.counted (h : r.GuardOk e) (hs : r.guard.state = .admitting) (n : Nat) (l : List AdmissionHalf) :
    ({ r with guard := { r.guard with count := n, unpaired := l } } : ArmPart).GuardOk e := by
  simp only [ArmPart.GuardOk, hs] at h ⊢; exact h

/-- An AWAITING hold is acknowledged (R95). -/
theorem ArmPart.GuardOk.acknowledged (h : r.GuardOk e) (hs : r.guard.state = .held) :
    ({ r with guard := { r.guard with phase := .acknowledged, ackTimer := none } } : ArmPart).GuardOk e := by
  simp only [ArmPart.GuardOk, hs] at h ⊢
  obtain ⟨ha, he, hr, -, -, ht⟩ := h
  exact ⟨ha, he, hr, by simp, by simp, ht⟩

theorem ArmPart.GuardOk.uncapped (h : r.GuardOk e) : r.uncapped.GuardOk e := by
  unfold ArmPart.GuardOk at h ⊢
  cases hs : r.guard.state <;> simp_all [ArmPart.uncapped]

theorem ArmPart.GuardOk.capped (h : r.GuardOk e) (hs : r.guard.state.inService = true) (creep : Nat) :
    (r.cappedAt creep).GuardOk e := by
  unfold ArmPart.GuardOk at h ⊢
  cases hst : r.guard.state <;> simp_all [GuardState.inService, ArmPart.cappedAt]

/-- A test that starts holds its RUNNING arm for TEST (R111). -/
theorem ArmPart.GuardOk.testing (h : r.GuardOk e) (hs : r.guard.state = .running) (p : Part) (slot : Nat) :
    (p.testingArm r slot).GuardOk e := by
  simp only [ArmPart.GuardOk, hs] at h
  obtain ⟨-, ha, -, he, -⟩ := h
  exact ⟨ha, he, Reasons.put_true_ne _ .test, by simp [Part.testingArm, Part.holdsArm],
    by simp [Part.testingArm, Part.holdsArm], .inr ⟨⟨rfl, by simp [Part.testingArm], by simp [Part.testingArm],
      by simp [Part.testingArm]⟩, rfl⟩⟩

/-- A running unit's count of slow frames stays at most 1. -/
theorem ArmPart.GuardOk.slow (h : r.GuardOk e) (hb : r.test.phase = .braking) (n : Nat) (hn : n ≤ 1) :
    ({ r with test := { r.test with slow := n } } : ArmPart).GuardOk e := by
  have hno : ¬ r.test.rests := fun hr => by rw [hr.1] at hb; simp at hb
  unfold ArmPart.GuardOk at h ⊢
  cases hs : r.guard.state <;> simp only [hs] at h ⊢
  case held =>
    obtain ⟨h1, h2, h3, h4, h5, h6⟩ := h
    obtain ⟨⟨h6, h7, h8, -⟩, h9⟩ := h6.resolve_left hno
    exact ⟨h1, h2, h3, h4, h5, .inr ⟨⟨h6, h7, h8, hn⟩, h9⟩⟩
  all_goals exact absurd (by simp_all) hno

theorem ArmPart.GuardOk.readmitted (h : r.GuardOk .serving) (hs : r.guard.state = .offline ∨ r.guard.state = .stopped)
    (slot : Nat) (t : Word) : ({ r with guard := { r.guard with
      state := .admitting, admissionSlot := some slot, prior := some r.guard.state, count := 0, unpaired := []
      windowTimer := some t } } : ArmPart).GuardOk .serving := by
  unfold ArmPart.GuardOk at h ⊢
  rcases hs with hst | hst <;> simp only [hst] at h ⊢ <;> exact ⟨h.1, h.2.2.1, h.2.2.2, by simp, by simp, by simp, by simp⟩

theorem ArmPart.GuardOk.move {p : Part} {x : Arm} {r : ArmPart} (hm : p.Move x r) (h : (p.arm x).GuardOk p.engine) :
    r.GuardOk p.engine := by
  cases hm with
  | rests => exact h
  | holds q hs => exact h.holds hs p q
  | reasoned q hs => exact h.withReason hs q
  | resumed q hs he ht => exact h.resumed hs q he ht
  | unreasoned q hs ht => exact h.withoutReason q hs ht
  | escalated c hs => exact h.escalated hs c
  | admissionEnded c hs => exact h.admissionEnded hs c _
  | recorded t => exact h.recorded t
  | regarded s hs => exact h.withReasons hs s
  | admits hs => exact h.admits hs p
  | counted n l hs => exact h.counted hs n l
  | acknowledged hs => exact h.acknowledged hs
  | uncapped => exact h.uncapped
  | capped creep hs => exact h.capped hs creep
  | tests slot hs => exact h.testing hs p slot
  | testsOn slot hs ht =>
    simp only [ArmPart.GuardOk, hs] at h
    rw [h.2.2.2.2] at ht; simp [noReasons] at ht
  | slows n hb hn => exact h.slow hb n hn
  | readmits slot t he hs => rw [he] at h ⊢; exact h.readmitted hs slot t
  | links => exact h
  | takes => exact h
  | closes => exact h
  | resets host => exact .of_reset rfl ⟨rfl, rfl⟩ ⟨rfl, rfl, rfl, rfl, rfl⟩ rfl (resetTest_rests _) _

/-! ## Shifts of the engine's state -/

/-- Outside SERVING and FAULTED the arms are OFFLINE or STOPPED, lawful in every engine state. -/
theorem ArmPart.GuardOk.outside (h : r.GuardOk e) (he : e.guards = false) (e' : EngineState) : r.GuardOk e' := by
  unfold ArmPart.GuardOk at h ⊢
  cases hs : r.guard.state <;> simp_all [EngineState.guards]

/-- After its open request is withdrawn an arm's unit rests. -/
theorem ArmPart.GuardOk.withdrawn_rests (h : r.GuardOk e) : r.withdrawn.test.rests := by
  unfold ArmPart.withdrawn
  dsimp only
  split
  · exact ⟨rfl, rfl, rfl, rfl, rfl, rfl, rfl⟩
  · next hb =>
    by_cases hs : r.guard.state = .held
    · simp only [ArmPart.GuardOk, hs] at h
      obtain ⟨-, -, -, -, -, ht | ⟨⟨ht, -⟩, -⟩⟩ := h
      · exact ht
      · exact absurd ht hb
    · exact h.rests hs

theorem ArmPart.GuardOk.abandoned (h : r.GuardOk .serving) : r.abandoned.GuardOk .faulted := by
  unfold ArmPart.abandoned
  split
  · next hs => exact h.admissionEnded hs none _
  · next hs =>
    unfold ArmPart.GuardOk at h ⊢
    cases hst : r.guard.state <;> simp_all [EngineState.guards]

/-- An arm that is not in service and whose timers stop. -/
theorem ArmPart.GuardOk.stopTimers (h : r.GuardOk .faulted) (hs : r.guard.state.inService = false) (l : Link) :
    ({ r with guard := { r.guard with ackTimer := none, windowTimer := none }, link := l } : ArmPart).GuardOk .idle := by
  unfold ArmPart.GuardOk at h ⊢
  cases hst : r.guard.state <;> simp only [hst] at h ⊢
  case offline => exact ⟨⟨h.1.1, rfl⟩, ⟨h.2.1.1, h.2.1.2.1, rfl, h.2.1.2.2.2⟩, h.2.2⟩
  case stopped => exact ⟨⟨h.1.1, rfl⟩, ⟨h.2.1.1, h.2.1.2.1, rfl, h.2.1.2.2.2⟩, h.2.2⟩
  case admitting => exact absurd h.2.2.2.1 (by simp)
  case running => rw [hst] at hs; simp [GuardState.inService] at hs
  case held => rw [hst] at hs; simp [GuardState.inService] at hs

theorem ArmPart.escalated_state (r : ArmPart) (c : StopCause) : (r.escalated c).guard.state = .stopped := by
  unfold ArmPart.escalated; dsimp only; split <;> rfl

theorem ArmPart.GuardOk.ended (h : r.GuardOk .faulted) : r.ended.GuardOk .idle := by
  unfold ArmPart.ended
  dsimp only
  split
  · next hs => exact (h.escalated hs .servingEnded).stopTimers (by rw [ArmPart.escalated_state]; rfl) _
  · next hs => exact h.stopTimers (by simpa using hs) _

end

theorem guardOk_armLaw : ArmLaw fun _ r e _ => r.GuardOk e where
  core _ _ _ _ := Iff.rfl
  move _ _ _ hm h := h.move hm
  outside _ _ _ _ e' _ he _ _ h := h.outside he e'
  starts _ _ _ _ := .of_reset rfl ⟨rfl, rfl⟩ ⟨rfl, rfl, rfl, rfl, rfl⟩ rfl (resetTest_rests _) _
  closes _ r _ h := ArmPart.GuardOk.of_reset (r := r.withdrawn.closed) rfl ⟨rfl, rfl⟩ ⟨rfl, rfl, rfl, rfl, rfl⟩ rfl h.withdrawn_rests _
  faults _ _ _ h := h.abandoned
  ends _ _ _ h := h.ended
  resets _ := .of_reset rfl ⟨rfl, rfl⟩ ⟨rfl, rfl, rfl, rfl, rfl⟩ rfl (resetTest_rests 0) _

/-! ## Steps -/

/-- A law of the arms that the reset pin's assertion keeps is kept by every step. -/
theorem ArmsLaw.steps {P : Part → Prop} (h : ArmsLaw P) {p q : Part} (hs : p.Steps q)
    (ha : P p → P p.assertReset) (hp : P p) : P q := by
  cases hs with
  | tick =>
    unfold Part.tick
    split
    · exact hp
    · exact h.shifts (Part.shifts_still (p := p) (q := { p with now := p.now + 1 }) rfl rfl rfl rfl rfl) hp
  | pinReset => exact h.shifts p.pinReset_shifts hp
  | assertReset => exact ha hp
  | inReset => exact hp
  | cellstopInput _ level => exact h.shifts (Part.shifts_still (p := p) (q := { p with cellstopPin := level }) rfl rfl rfl rfl rfl) hp
  | linkInput _ up => exact h.shifts (Part.shifts_still (p := p) (q := { p with pcieUp := up }) rfl rfl rfl rfl rfl) hp
  | command _ hf => exact h.shifts (hf.settled_shifts p) hp

/-- What the reset pin's assertion makes of an arm. -/
theorem Part.assertReset_arm (p : Part) (y : Arm) : p.assertReset.arm y = { p.arm y with
    link := { (p.arm y).link with onLine := none }, guard := { (p.arm y).guard with stopAsserted := true } } := by
  obtain ⟨ha, hb, -⟩ := p.dropRunning_frame
  cases y
  · rw [show p.arm .a = p.dropRunning.armA from ha.symm]; rfl
  · rw [show p.arm .b = p.dropRunning.armB from hb.symm]; rfl

theorem Part.assertReset_frame (p : Part) : p.assertReset.engine = p.engine ∧ p.assertReset.setup = p.setup ∧
    p.assertReset.inReset = true := ⟨p.dropRunning_frame.2.2.1, p.dropRunning_frame.2.2.2.1, rfl⟩

/-- Settles O57: the two laws read as `ArmPart.GuardOk`, by guard state, which every move and shift keeps. -/
theorem stepKeepsGuardAndTestLaws : Obligations.StepKeepsGuardAndTestLaws := by
  intro s t h hst
  rw [← Part.guardsOk_iff] at h ⊢
  refine guardOk_armLaw.arms.steps (step_steps hst) (fun hp y => ?_) h
  rw [Part.assertReset_arm, s.part.assertReset_frame.1]
  exact hp y

end Sys2Proof.Machine

/-! PROOFS. Every step keeps the laws of the links and of the stop lines (O58). -/

namespace Sys2Proof.Machine

/-! ## Links -/

/-- The law of a link by itself (R122, R123, R131, R133). -/
structure Link.Ok (l : Link) : Prop where
  hunt : l.phase = .hunt ↔ l.received = []
  length : l.received.length ≤ 12
  gap : l.gapTimer.isSome = true ↔ l.phase = .frame
  fifo : l.fifo.length ≤ 8
  quiet : l.state = .quiet → l.fifo = [] ∧ l.stopPlace = none ∧ l.speedPlace = none ∧ l.phase = .hunt
  line : l.state = .active → l.onLine = none → l.stopPlace = none ∧ l.speedPlace = none

namespace Link.Ok
variable {l : Link}

/-- A change of the transmit places and the hold-repeat timer of a link that is not QUIET. -/
theorem sends (h : l.Ok) (ha : l.state = .active) {l' : Link} (hs : l'.state = l.state) (hp : l'.phase = l.phase)
    (hr : l'.received = l.received) (hg : l'.gapTimer = l.gapTimer) (hf : l'.fifo = l.fifo)
    (hl : l'.onLine = none → l'.stopPlace = none ∧ l'.speedPlace = none) : l'.Ok where
  hunt := by rw [hp, hr]; exact h.hunt
  length := by rw [hr]; exact h.length
  gap := by rw [hg, hp]; exact h.gap
  fifo := by rw [hf]; exact h.fifo
  quiet hq := by rw [hs, ha] at hq; simp at hq
  line _ := hl

/-- What an ACTIVE link transmits leaves no place occupied while its line rests. -/
theorem transmits (h : l.Ok) (ha : l.state = .active) (f : Option StopFrame) (v : Option SpeedFrame)
    (o : Option OutFrame) (t : Timer) :
    ({ (Link.transmit { l with stopPlace := f, speedPlace := v, onLine := o }) with repeatTimer := t } : Link).Ok := by
  refine h.sends ha (by simp) (by simp) (by simp) (by simp) (by simp) fun hl => ?_
  exact Link.transmit_idle _ (by simpa using ha) hl

theorem queueStop (h : l.Ok) (ha : l.state = .active) (f : StopFrame) : (l.queueStop f).Ok :=
  h.transmits ha (some f) l.speedPlace l.onLine (l.queueStop f).repeatTimer

theorem queueSpeed (h : l.Ok) (ha : l.state = .active) (v : SpeedFrame) : (l.queueSpeed v).Ok :=
  h.transmits ha l.stopPlace (some v) l.onLine (l.queueSpeed v).repeatTimer

theorem repeatTimer (h : l.Ok) (t : Timer) : ({ l with repeatTimer := t } : Link).Ok :=
  ⟨h.hunt, h.length, h.gap, h.fifo, h.quiet, h.line⟩

theorem dropLoosening (h : l.Ok) : l.dropLoosening.Ok where
  hunt := h.hunt
  length := h.length
  gap := h.gap
  fifo := h.fifo
  quiet hq := by
    obtain ⟨h1, h2, h3, h4⟩ := h.quiet hq
    simp [Link.dropLoosening, h1, h2, h3, h4]
  line ha hl := by
    obtain ⟨h1, h2⟩ := h.line ha hl
    simp [Link.dropLoosening, h1, h2]

theorem dropPartial (h : l.Ok) : l.dropPartial.Ok where
  hunt := by simp [Link.dropPartial]
  length := by simp [Link.dropPartial]
  gap := by simp [Link.dropPartial]
  fifo := h.fifo
  quiet hq := by
    obtain ⟨h1, h2, h3, -⟩ := h.quiet hq
    exact ⟨h1, h2, h3, rfl⟩
  line := h.line

theorem resetLink (s : LinkState) : (resetLink s).Ok where
  hunt := by simp [Machine.resetLink]
  length := by simp [Machine.resetLink]
  gap := by simp [Machine.resetLink]
  fifo := by simp [Machine.resetLink]
  quiet _ := ⟨rfl, rfl, rfl, rfl⟩
  line _ _ := ⟨rfl, rfl⟩

theorem becomeQuiet (l : Link) : l.becomeQuiet.Ok where
  hunt := by simp [Link.becomeQuiet, Machine.resetLink]
  length := by simp [Link.becomeQuiet, Machine.resetLink]
  gap := by simp [Link.becomeQuiet, Machine.resetLink]
  fifo := by simp [Link.becomeQuiet, Machine.resetLink]
  quiet _ := ⟨rfl, rfl, rfl, rfl⟩
  line ha := by simp [Link.becomeQuiet, Machine.resetLink] at ha

theorem active_of_fifo (h : l.Ok) {f : Frame} {rest : List Frame} (hl : l.fifo = f :: rest) : l.state = .active := by
  cases hs : l.state with
  | active => rfl
  | quiet => rw [(h.quiet hs).1] at hl; simp at hl

theorem move {g : GuardState} {l l' : Link} (hm : Link.Move g l l') (h : l.Ok) (hg : g = .held → l.state = .active) :
    l'.Ok := by
  cases hm with
  | starts b t ha => exact ⟨by simp, by simp, by simp, h.fifo, fun hq => by rw [ha] at hq; simp at hq, h.line⟩
  | drops => exact h.dropPartial
  | joins b t ha hp hl =>
    exact ⟨by simp [hp], by simpa using hl, by simp [hp], h.fifo, fun hq => by rw [ha] at hq; simp at hq, h.line⟩
  | accepts f ha hl =>
    have hd := h.dropPartial
    exact ⟨hd.hunt, hd.length, hd.gap, by simp; omega, fun hq => by
      rw [show l.dropPartial.state = l.state from rfl, ha] at hq; simp at hq, hd.line⟩
  | takes f rest hl =>
    have ha := h.active_of_fifo hl
    have hf := h.fifo
    rw [hl, List.length_cons] at hf
    exact ⟨h.hunt, h.length, h.gap, Nat.le_of_succ_le hf, fun hq => by rw [ha] at hq; simp at hq, h.line⟩
  | frees =>
    cases hs : l.state with
    | active =>
      rw [← hs]
      exact h.transmits hs l.stopPlace l.speedPlace none (Link.transmit { l with onLine := none }).repeatTimer
    | quiet =>
      obtain ⟨h1, h2, h3, h4⟩ := h.quiet hs
      have he : Link.transmit { l with onLine := none } = { l with onLine := none } := by simp [Link.transmit, hs]
      rw [← hs, he]
      exact ⟨h.hunt, h.length, h.gap, h.fifo, h.quiet, fun _ _ => ⟨h2, h3⟩⟩
  | repeats t hh =>
    split
    · exact (h.queueStop (hg hh) .hold).repeatTimer _
    · exact h.repeatTimer _

end Link.Ok

/-! ## A link and its guard -/

/-- The law of an arm's link in engine state `e`, with what it needs of the guard (R94, R122; R78, R86, R100). -/
structure ArmPart.LinkOk (r : ArmPart) (e : EngineState) : Prop where
  link : r.link.Ok
  active : r.link.state = .active ↔ e.guards = true
  held : r.link.repeatTimer.isSome = true ↔ r.guard.state = .held
  serves : r.guard.state.inService = true → e.guards = true
  admits : r.guard.state = .admitting → e = .serving
  prior : r.guard.prior = none ∨ r.guard.prior = some .offline ∨ r.guard.prior = some .stopped
  capped : r.monitor.capped = true → r.guard.state.inService = true

namespace ArmPart.LinkOk
variable {r : ArmPart} {e : EngineState}

theorem active_of_service (h : r.LinkOk e) (hs : r.guard.state.inService = true) : r.link.state = .active :=
  h.active.mpr (h.serves hs)

theorem no_repeat (h : r.LinkOk e) (hs : r.guard.state ≠ .held) : r.link.repeatTimer = none := by
  have := mt h.held.mp hs
  simpa using this

theorem holds (h : r.LinkOk e) (hs : r.guard.state = .running) (p : Part) (q : HoldReason) :
    (p.holdsArm r q).LinkOk e where
  link := (h.link.queueStop (h.active_of_service (by rw [hs]; rfl)) .hold).repeatTimer _
  active := by simpa [Part.holdsArm, Link.queueStop] using h.active
  held := by simp [Part.holdsArm]
  serves _ := h.serves (by rw [hs]; rfl)
  admits := by simp [Part.holdsArm]
  prior := h.prior
  capped _ := by simp [Part.holdsArm, GuardState.inService]

theorem resumed (h : r.LinkOk e) (hs : r.guard.state = .held) (q : HoldReason) : (r.resumed q).LinkOk e where
  link := (h.link.queueStop (h.active_of_service (by rw [hs]; rfl)) .resume).repeatTimer none
  active := by simpa [ArmPart.resumed, Link.queueStop] using h.active
  held := by simp [ArmPart.resumed]
  serves _ := h.serves (by rw [hs]; rfl)
  admits := by simp [ArmPart.resumed]
  prior := h.prior
  capped _ := by simp [ArmPart.resumed, GuardState.inService]

/-- A change beside the link, the guard's state and prior, and the cap. -/
theorem beside (h : r.LinkOk e) {r' : ArmPart} (hl : r'.link = r.link) (hs : r'.guard.state = r.guard.state)
    (hp : r'.guard.prior = r.guard.prior) (hc : r'.monitor.capped = r.monitor.capped) : r'.LinkOk e where
  link := by rw [hl]; exact h.link
  active := by rw [hl]; exact h.active
  held := by rw [hl, hs]; exact h.held
  serves := by rw [hs]; exact h.serves
  admits := by rw [hs]; exact h.admits
  prior := by rw [hp]; exact h.prior
  capped := by rw [hc, hs]; exact h.capped

/-- An arm that is out of service and out of ADMITTING, its loosening frames dropped. -/
theorem leaves (h : r.LinkOk e) {r' : ArmPart} (hl : r'.link = r.link.dropLoosening)
    (hs : r'.guard.state = .offline ∨ r'.guard.state = .stopped)
    (hp : r'.guard.prior = none ∨ r'.guard.prior = r.guard.prior) (hc : r'.monitor.capped = false) {e' : EngineState}
    (he : e'.guards = e.guards) : r'.LinkOk e' where
  link := by rw [hl]; exact h.link.dropLoosening
  active := by rw [hl, he]; exact h.active
  held := by rw [hl]; rcases hs with hs | hs <;> simp [hs, Link.dropLoosening]
  serves := by rcases hs with hs | hs <;> simp [hs, GuardState.inService]
  admits := by rcases hs with hs | hs <;> simp [hs]
  prior := by
    rcases hp with hp | hp
    · exact .inl hp
    · rw [hp]; exact h.prior
  capped := by simp [hc]

theorem escalated (h : r.LinkOk e) (c : StopCause) : (r.escalated c).LinkOk e := by
  have hm : (r.escalated c).link = r.link.dropLoosening ∧ (r.escalated c).guard.prior = r.guard.prior ∧
      (r.escalated c).monitor.capped = false := by
    unfold ArmPart.escalated; dsimp only; split <;> exact ⟨rfl, rfl, rfl⟩
  exact h.leaves hm.1 (.inr (ArmPart.escalated_state r c)) (.inr hm.2.1) hm.2.2 rfl

theorem admissionEnded (h : r.LinkOk e) (c : Option StopCause) {e' : EngineState} (he : e'.guards = e.guards) :
    (r.admissionEnded (r.guard.prior.getD .offline) c).LinkOk e' := by
  refine h.leaves rfl ?_ (.inl rfl) rfl he
  rcases h.prior with hp | hp | hp <;> simp [ArmPart.admissionEnded, hp]

/-- The arm that enters service has an ACTIVE link. -/
theorem admitted (h : r.LinkOk e) (hs : r.guard.state = .admitting) (p : Part) : (p.admitsArm r).LinkOk e := by
  have hg : e.guards = true := by rw [h.admits hs]; rfl
  have ha : r.link.state = .active := h.active.mpr hg
  have hno := h.no_repeat (by rw [hs]; simp)
  unfold Part.admitsArm
  dsimp only
  split
  · exact {
      link := h.link.queueSpeed ha _
      active := by simpa [Link.queueSpeed] using h.active
      held := by simp [Link.queueSpeed, hno]
      serves := fun _ => hg
      admits := by simp
      prior := .inl rfl
      capped := by simp [GuardState.inService] }
  · exact {
      link := ((h.link.queueStop ha .hold).repeatTimer _).queueSpeed (by simpa [Link.queueStop] using ha) _
      active := by simpa [Link.queueSpeed, Link.queueStop] using h.active
      held := by simp [Link.queueSpeed, Part.afterMs, timerAt]
      serves := fun _ => hg
      admits := by simp
      prior := .inl rfl
      capped := by simp [GuardState.inService] }

/-- A CAP or UNCAP is queued for an arm in service. -/
theorem capMoves (h : r.LinkOk e) (hs : r.guard.state.inService = true) (v : SpeedFrame) (b : Bool) :
    ({ r with monitor := { r.monitor with capped := b }, link := r.link.queueSpeed v } : ArmPart).LinkOk e where
  link := h.link.queueSpeed (h.active_of_service hs) v
  active := by simpa [Link.queueSpeed] using h.active
  held := by simpa [Link.queueSpeed] using h.held
  serves := h.serves
  admits := h.admits
  prior := h.prior
  capped _ := hs

theorem linkMoves (h : r.LinkOk e) {l : Link} (hm : Link.Move r.guard.state r.link l) :
    ({ r with link := l } : ArmPart).LinkOk e where
  link := h.link.move hm fun hs => h.active_of_service (by rw [hs]; rfl)
  active := by
    rw [← h.active]
    cases hm <;> simp [Link.dropPartial]
    split <;> simp [Link.queueStop]
  held := by
    rw [← h.held]
    cases hm with
    | repeats t hg => simp [h.held.mpr hg]
    | _ => simp [Link.dropPartial]
  serves := h.serves
  admits := h.admits
  prior := h.prior
  capped := h.capped

theorem readmitted (h : r.LinkOk .serving) (hs : r.guard.state = .offline ∨ r.guard.state = .stopped) (slot : Nat)
    (t : Word) : ({ r with guard := { r.guard with
      state := .admitting, admissionSlot := some slot, prior := some r.guard.state, count := 0, unpaired := []
      windowTimer := some t } } : ArmPart).LinkOk .serving where
  link := h.link
  active := h.active
  held := by have := h.no_repeat (by rcases hs with hs | hs <;> simp [hs]); simp [this]
  serves := by simp [GuardState.inService]
  admits _ := rfl
  prior := by rcases hs with hs | hs <;> simp [hs]
  capped hc := by have := h.capped hc; rcases hs with hs | hs <;> simp [hs, GuardState.inService] at this

/-- An OFFLINE arm whose link is ACTIVE exactly while the blocks guard. -/
theorem of_offline (hl : r.link.Ok) (ha : r.link.state = .active ↔ e.guards = true) (ht : r.link.repeatTimer = none)
    (hs : r.guard.state = .offline) (hp : r.guard.prior = none) (hc : r.monitor.capped = false) : r.LinkOk e where
  link := hl
  active := ha
  held := by simp [ht, hs]
  serves := by simp [hs, GuardState.inService]
  admits := by simp [hs]
  prior := .inl hp
  capped := by simp [hc]

theorem move {p : Part} {x : Arm} {r : ArmPart} (hm : p.Move x r) (h : (p.arm x).LinkOk p.engine) :
    r.LinkOk p.engine := by
  cases hm with
  | rests => exact h
  | holds q hs => exact h.holds hs p q
  | reasoned => exact h.beside rfl rfl rfl rfl
  | resumed q hs => exact h.resumed hs q
  | unreasoned => exact h.beside rfl rfl rfl rfl
  | escalated c => exact h.escalated c
  | admissionEnded c => exact h.admissionEnded c rfl
  | recorded => exact h.beside rfl rfl rfl rfl
  | regarded => exact h.beside rfl rfl rfl rfl
  | admits hs => exact h.admitted hs p
  | counted => exact h.beside rfl rfl rfl rfl
  | acknowledged => exact h.beside rfl rfl rfl rfl
  | uncapped hc => exact h.capMoves (h.capped hc) _ _
  | capped creep hs => exact h.capMoves hs _ _
  | tests slot hs => exact (h.holds hs p .test).beside rfl rfl rfl rfl
  | testsOn => exact h.beside rfl rfl rfl rfl
  | slows => exact h.beside rfl rfl rfl rfl
  | readmits slot t he hs => rw [he] at h ⊢; exact h.readmitted hs slot t
  | links l hl => exact h.linkMoves hl
  | takes => exact h.beside rfl rfl rfl rfl
  | closes => exact h.beside rfl rfl rfl rfl
  | resets host => exact of_offline (Link.Ok.resetLink _) h.active rfl rfl rfl rfl

/-- Outside SERVING and FAULTED every state is as good as another. -/
theorem outside (h : r.LinkOk e) (he : e.guards = false) {e' : EngineState} (he' : e'.guards = false) : r.LinkOk e' where
  link := h.link
  active := by rw [he', ← he]; exact h.active
  held := h.held
  serves hs := by rw [h.serves hs] at he; simp at he
  admits hs := by rw [h.admits hs] at he; simp [EngineState.guards] at he
  prior := h.prior
  capped := h.capped

theorem abandoned (h : r.LinkOk .serving) : r.abandoned.LinkOk .faulted := by
  unfold ArmPart.abandoned
  split
  · exact h.admissionEnded none rfl
  · next hs => exact ⟨h.link, h.active, h.held, fun _ => rfl, fun ha => absurd ha hs, h.prior, h.capped⟩

theorem ended (h : r.LinkOk .faulted) : r.ended.LinkOk .idle := by
  have hq : ∀ u : ArmPart, u.LinkOk .faulted → u.guard.state.inService = false → ({ u with
      guard := { u.guard with ackTimer := none, windowTimer := none }, link := u.link.becomeQuiet } : ArmPart).LinkOk
        .idle := fun u hu hs => {
    link := Link.Ok.becomeQuiet _
    active := by simp [Link.becomeQuiet, resetLink, EngineState.guards]
    held := by
      have : u.guard.state ≠ .held := fun hh => by rw [hh] at hs; simp [GuardState.inService] at hs
      simp [Link.becomeQuiet, resetLink, this]
    serves := fun hh => by rw [hs] at hh; simp at hh
    admits := fun hh => by simpa using hu.admits hh
    prior := hu.prior
    capped := hu.capped }
  unfold ArmPart.ended
  dsimp only
  split
  · exact hq _ (h.escalated .servingEnded) (by rw [ArmPart.escalated_state]; rfl)
  · next hs => exact hq _ h (by simpa using hs)

end ArmPart.LinkOk

theorem linkOk_armLaw : ArmLaw fun _ r e _ => r.LinkOk e where
  core _ _ _ _ := ⟨fun h => h.beside rfl rfl rfl rfl, fun h => h.beside rfl rfl rfl rfl⟩
  move _ _ _ hm h := h.move hm
  outside _ _ _ _ _ _ he he' _ h := h.outside he he'
  starts _ r f _ := .of_offline (r := r.started _) (Link.Ok.resetLink _) (by simp [ArmPart.started, resetLink, EngineState.guards]) rfl rfl rfl rfl
  closes _ r _ _ := .of_offline (r := r.withdrawn.closed) (Link.Ok.becomeQuiet _)
    (by simp [ArmPart.closed, Link.becomeQuiet, resetLink, EngineState.guards]) rfl rfl rfl rfl
  faults _ _ _ h := h.abandoned
  ends _ _ _ h := h.ended
  resets _ := .of_offline (r := resetArm) (Link.Ok.resetLink _) (by simp [resetArm, resetLink, EngineState.guards]) rfl rfl rfl rfl

/-! ## The two laws -/

theorem Part.linkOk_of_laws {p : Part} {x : Arm} (hr : p.inReset = false) (hg : p.guardLaw x) (hl : p.linkLaw x) :
    (p.arm x).LinkOk p.engine := by
  obtain ⟨-, -, -, -, -, g6, -, -, -, g10, g11, g12⟩ := hg
  obtain ⟨l1, l2, l3, l4, l5, l6, l7, l8⟩ := hl
  exact ⟨⟨l2, l3, l4, l5, l7, l8 hr⟩, l1, l6, g11, g10, g6, g12⟩

theorem Part.linkLaw_of_ok {p : Part} {x : Arm} (h : (p.arm x).LinkOk p.engine) : p.linkLaw x :=
  ⟨h.active, h.link.hunt, h.link.length, h.link.gap, h.link.fifo, h.held, h.link.quiet, fun _ => h.link.line⟩

theorem Part.driveStopLine_arm (p : Part) (x : Arm) : (p.driveStopLine x).arm x =
    { p.arm x with guard := { (p.arm x).guard with stopAsserted := !p.lineReleased x } } := by
  rw [Part.driveStopLine, Part.updGuard_eq, Part.updArm_arm]

theorem Part.driveStopLine_lineReleased (p : Part) (x y : Arm) : (p.driveStopLine x).lineReleased y = p.lineReleased y := by
  have he : (p.driveStopLine x).guarding = p.guarding := by simp [Part.driveStopLine, Part.updGuard_eq]
  unfold Part.lineReleased
  rw [he]
  by_cases hy : y = x
  · subst hy; rw [Part.driveStopLine_arm]
  · obtain rfl := Arm.eq_other_of_ne hy
    rw [Part.driveStopLine, Part.updGuard_eq, Part.updArm_arm_other]

/-- The end of a step drives both lines to their level (R88). -/
theorem Part.settle_stopLines (b p : Part) (x : Arm) : ((Part.settle b p).arm x).guard.stopAsserted =
    !(Part.settle b p).lineReleased x := by
  have hm : ∀ q : Part, (Part.sendMessage b q).arm x = q.arm x ∧ (Part.sendMessage b q).guarding = q.guarding :=
    fun q => by
      unfold Part.sendMessage
      split
      · exact ⟨by cases x <;> rfl, rfl⟩
      · exact ⟨rfl, rfl⟩
  unfold Part.settle
  generalize ((p.publish .a).publish .b).startNext = q
  rw [Part.lineReleased, (hm _).1, (hm _).2, ← Part.lineReleased, Part.driveStopLine_lineReleased,
    Part.driveStopLine_lineReleased]
  cases x
  · rw [show ((q.driveStopLine .a).driveStopLine .b).arm .a = (q.driveStopLine .a).arm .a from
      Part.updArm_arm_other _ .b _, Part.driveStopLine_arm]
  · rw [Part.driveStopLine_arm, Part.driveStopLine_lineReleased]

/-- The laws that O58 states of an arm, for the part out of reset: its link and its line are lawful. -/
def Part.linesOk (p : Part) : Prop := ∀ y, p.linkLaw y ∧ p.stopLineLaw y

/-- While the reset pin is asserted lines rest and both stop lines are asserted. -/
theorem Part.linesOk_assertReset {p : Part} (h : p.linesOk) : p.assertReset.linesOk := fun y => by
  obtain ⟨he, -, hr⟩ := p.assertReset_frame
  have hg : p.assertReset.guarding = p.guarding := by unfold Part.guarding; rw [he]
  obtain ⟨l1, l2, l3, l4, l5, l6, l7, -⟩ := (h y).1
  unfold Part.linkLaw Part.stopLineLaw
  rw [Part.assertReset_arm, hr, hg]
  exact ⟨⟨l1, l2, l3, l4, l5, l6, l7, by simp⟩, rfl⟩

theorem Part.Steps.linesOk {p q : Part} (hs : p.Steps q) (hg : ∀ x, p.guardLaw x) (h : p.linesOk) : q.linesOk := by
  cases hs with
  | tick =>
    unfold Part.tick
    split
    · exact h
    · intro y; cases y
      · exact h .a
      · exact h .b
  | pinReset =>
    have hr := linkOk_armLaw.resets
    intro y; cases y
    · exact ⟨Part.linkLaw_of_ok (hr .a), rfl⟩
    · exact ⟨Part.linkLaw_of_ok (hr .b), rfl⟩
  | assertReset => exact Part.linesOk_assertReset h
  | inReset => exact h
  | cellstopInput =>
    intro y; cases y
    · exact h .a
    · exact h .b
  | linkInput =>
    intro y; cases y
    · exact h .a
    · exact h .b
  | @command hr f hf =>
    have hs := hf.settled_shifts p
    have hl := linkOk_armLaw.arms.shifts hs fun y => Part.linkOk_of_laws hr (hg y) (h y).1
    intro y
    refine ⟨Part.linkLaw_of_ok (hl y), ?_⟩
    unfold Part.stopLineLaw
    rw [if_neg (by rw [hs.inReset hr]; simp), Part.settle_stopLines]

/-- Settles O58: `ArmPart.LinkOk`, the link's law with what it needs of the guard, is kept by every move and shift; the
end of each step drives the lines. -/
theorem stepKeepsLinkAndStopLineLaws : Obligations.StepKeepsLinkAndStopLineLaws := fun _ _ h hst =>
  (step_steps hst).linesOk (fun x => (h x).1) fun x => (h x).2

end Sys2Proof.Machine

/-! PROOFS. Every step keeps the laws of the engine, the chains, the learned decelerations, the registers, the CELLSTOP
filter and host memory, and leaves nothing unstarted or unqueued (O59). -/

namespace Sys2Proof.Machine

/-! ## Learned decelerations (R109) and cursors (R142): laws of the arms -/

/-- The learned deceleration of x's share lies between 500 and the configured one of the figures in force. -/
def ArmPart.alrnOk (x : Arm) (r : ArmPart) (s : Option Setup) : Prop :=
  ∀ f, s = some f → f.valid = true ∧ 500 ≤ r.test.alrn ∧ r.test.alrn ≤ (f.arm x).acfg

theorem Part.decelerationLaw_iff (p : Part) : p.decelerationLaw ↔ ∀ y, (p.arm y).alrnOk y p.setup := by
  unfold Part.decelerationLaw Part.figures
  cases hs : p.setup with
  | none => simp [ArmPart.alrnOk]
  | some f =>
    constructor
    · intro h y g hg
      obtain rfl := Option.some.inj hg
      obtain ⟨h1, h2, h3, h4, h5⟩ := h rfl
      cases y
      · exact ⟨h1, h2, h3⟩
      · exact ⟨h1, h4, h5⟩
    · intro h _
      obtain ⟨h1, h2, h3⟩ := h .a f rfl
      obtain ⟨-, h4, h5⟩ := h .b f rfl
      exact ⟨h1, h2, h3, h4, h5⟩

/-- A valid block configures at least 500 (R170). -/
theorem Setup.acfg_of_valid {f : Setup} (h : f.valid = true) (x : Arm) : 500 ≤ (f.arm x).acfg := by
  have hc := fun c hc => List.all_eq_true.mp h c hc
  have hr : ∀ n, inRange 500 60000 n = true → 500 ≤ n := fun n hn => by
    simp only [inRange, Bool.and_eq_true, decide_eq_true_eq] at hn; exact hn.1
  cases x
  · exact hr _ (hc (29, inRange 500 60000 f.armA.acfg) (by simp [Setup.checks, armChecks]))
  · exact hr _ (hc (33, inRange 500 60000 f.armB.acfg) (by simp [Setup.checks, armChecks]))

theorem ArmPart.alrnOk.of_alrn {x : Arm} {r r' : ArmPart} {s : Option Setup} (h : r.alrnOk x s)
    (ha : r'.test.alrn = r.test.alrn) : r'.alrnOk x s := fun f hf => by rw [ha]; exact h f hf

theorem ArmPart.escalated_alrn (r : ArmPart) (c : StopCause) : (r.escalated c).test.alrn = r.test.alrn := by
  unfold ArmPart.escalated; dsimp only; split <;> rfl

theorem ArmPart.alrnOk.move {p : Part} {x : Arm} {r : ArmPart} (hm : p.Move x r) (h : (p.arm x).alrnOk x p.setup) :
    r.alrnOk x p.setup := by
  cases hm with
  | escalated c => exact h.of_alrn (ArmPart.escalated_alrn _ c)
  | recorded t ha =>
    intro f hf
    obtain ⟨hv, h1, h2⟩ := h f hf
    have hfig : p.figures = f := by unfold Part.figures; rw [hf]; rfl
    rcases ha with ha | ha
    · show f.valid = true ∧ 500 ≤ t.alrn ∧ t.alrn ≤ _
      rw [ha]; exact ⟨hv, h1, h2⟩
    · rw [hfig] at ha; exact ⟨hv, ha (Setup.acfg_of_valid hv x)⟩
  | admits =>
    refine h.of_alrn ?_
    unfold Part.admitsArm; dsimp only; split <;> rfl
  | resets =>
    intro f hf
    obtain ⟨hv, -⟩ := h f hf
    rw [hf]; exact ⟨hv, Setup.acfg_of_valid hv x, Nat.le_refl _⟩
  | _ => exact h.of_alrn rfl

theorem alrnOk_armLaw : ArmLaw fun x r _ s => r.alrnOk x s where
  core _ _ _ _ := Iff.rfl
  move _ _ _ hm h := h.move hm
  outside _ _ _ _ _ _ _ _ hs h := by
    rcases hs with rfl | rfl
    · exact h
    · intro f hf; simp at hf
  starts x r f hf g hg := by
    obtain rfl := Option.some.inj hg
    exact ⟨hf, Setup.acfg_of_valid hf x, Nat.le_refl _⟩
  closes _ r _ h := h.of_alrn (by unfold ArmPart.closed ArmPart.withdrawn; dsimp only; split <;> rfl)
  faults _ r _ h := h.of_alrn (by unfold ArmPart.abandoned; split <;> rfl)
  ends _ r _ _ := fun f hf => by simp at hf
  resets _ := fun f hf => by simp at hf

/-- Cursor and open slot of x's share. -/
def ArmPart.place (r : ArmPart) : Option Nat × Option Nat := (r.chain.cursor, r.chain.openSlot)

theorem Part.chainLaw_of_place {p q : Part} (h : ∀ y, (q.arm y).place = (p.arm y).place) (hp : p.chainLaw) :
    q.chainLaw := by
  obtain ⟨h1, h2⟩ := Prod.mk.inj (show (q.armA.chain.cursor, q.armA.chain.openSlot) = _ from h .a)
  obtain ⟨h3, h4⟩ := Prod.mk.inj (show (q.armB.chain.cursor, q.armB.chain.openSlot) = _ from h .b)
  unfold Part.chainLaw
  rw [h1, h2, h3, h4]; exact hp

/-- The law of the chains with nothing open. -/
theorem Part.chainLaw_of_empty {p : Part} (h : ∀ y, (p.arm y).place = (none, none)) : p.chainLaw := by
  obtain ⟨h1, h2⟩ := Prod.mk.inj (show (p.armA.chain.cursor, p.armA.chain.openSlot) = _ from h .a)
  obtain ⟨h3, h4⟩ := Prod.mk.inj (show (p.armB.chain.cursor, p.armB.chain.openSlot) = _ from h .b)
  simp [Part.chainLaw, h1, h2, h4]

theorem ArmPart.place_of_core {r r' : ArmPart} (h : r.core = r'.core) : r.place = r'.place :=
  show r.core.place = r'.core.place by rw [h]

theorem ArmPart.escalated_place (r : ArmPart) (c : StopCause) : (r.escalated c).place = r.place := by
  unfold ArmPart.escalated; dsimp only; split <;> rfl

/-- A move leaves cursor and open slot alone, takes a slot that is no cursor, or closes the open slot. -/
theorem Part.Move.place {p : Part} {x : Arm} {r : ArmPart} (hm : p.Move x r) : r.place = (p.arm x).place ∨
    (∃ slot, p.isCursor slot = false ∧ r.place = (some slot, some slot)) ∨
    r.place = ((p.arm x).chain.cursor, none) := by
  cases hm with
  | escalated c => exact .inl (ArmPart.escalated_place _ c)
  | admits => left; unfold Part.admitsArm; dsimp only; split <;> rfl
  | takes slot hc => exact .inr (.inl ⟨slot, hc, rfl⟩)
  | closes => exact .inr (.inr rfl)
  | _ => exact .inl rfl

theorem chain_armsLaw : ArmsLaw Part.chainLaw where
  reads p q ha _ _ hp := Part.chainLaw_of_place (fun y => ArmPart.place_of_core (ha y)) hp
  move p x r hm hp := by
    obtain ⟨ha, hb, hne⟩ := hp
    obtain h | ⟨slot, hs, h⟩ | h := hm.place
    · refine Part.chainLaw_of_place (p := p) (fun y => ?_) ⟨ha, hb, hne⟩
      by_cases hy : y = x
      · subst hy; rw [Part.updArm_arm]; exact h
      · obtain rfl := Arm.eq_other_of_ne hy; rw [Part.updArm_arm_other]
    · obtain ⟨h1, h2⟩ := Prod.mk.inj (show (r.chain.cursor, r.chain.openSlot) = _ from h)
      simp only [Part.isCursor, Bool.or_eq_false_iff, beq_eq_false_iff_ne] at hs
      cases x <;> simp [Part.chainLaw, Part.updArm, h1, h2]
      · exact ⟨hb, fun e => hs.2 e.symm⟩
      · exact ⟨ha, fun e => hs.1⟩
    · obtain ⟨h1, h2⟩ := Prod.mk.inj (show (r.chain.cursor, r.chain.openSlot) = _ from h)
      cases x <;> simp only [Part.chainLaw, Part.updArm, h1, h2]
      · exact ⟨by simp, hb, hne⟩
      · exact ⟨ha, by simp, hne⟩
  shift p q hs hp := by
    cases hs with
    | outside ha => exact Part.chainLaw_of_place (fun y => ArmPart.place_of_core (ha y)) hp
    | starts f _ _ _ ha =>
      refine Part.chainLaw_of_empty fun y => ?_
      obtain ⟨hold, e⟩ := ha y
      exact (ArmPart.place_of_core e).trans rfl
    | closes _ _ _ ha =>
      refine Part.chainLaw_of_place (fun y => (ArmPart.place_of_core (ha y)).trans ?_) hp
      unfold ArmPart.closed ArmPart.withdrawn; dsimp only; split <;> rfl
    | faults _ _ _ ha =>
      refine Part.chainLaw_of_place (fun y => (ArmPart.place_of_core (ha y)).trans ?_) hp
      unfold ArmPart.abandoned; split <;> rfl
    | ends _ _ _ ha =>
      refine Part.chainLaw_of_place (fun y => (ArmPart.place_of_core (ha y)).trans ?_) hp
      unfold ArmPart.ended
      dsimp only
      split
      · exact ArmPart.escalated_place _ _
      · rfl
    | resets _ _ ha => exact Part.chainLaw_of_empty fun y => by rw [ha y]; rfl

/-! ## The engine, the registers, the inputs and host memory -/

/-- The laws that the shell of a part decides (R139, R143, R154, R168 to R171, R177, R180, R89). -/
structure Part.UnitOk (p : Part) : Prop where
  engine : p.engineLaw
  registers : p.registerLaw
  input : p.inputLaw
  memory : Memory.wf p.hostMem = true

theorem Part.unitOk_shell (p : Part) : p.shell.UnitOk ↔ p.UnitOk := by
  have hq : (p.engine = .idle ∨ p.engine = .faulted → p.shell.opQueue = []) ↔
      (p.engine = .idle ∨ p.engine = .faulted → p.opQueue = []) := by
    refine forall_congr' fun he => ?_
    have hs : p.engine ≠ .serving := by rcases he with he | he <;> simp [he]
    show (if p.engine = .serving then [] else p.opQueue) = [] ↔ _
    rw [if_neg hs]
  have hc : p.shell.cause &&& ~~~causeBits = 0 ↔ p.cause &&& ~~~causeBits = 0 := by
    show (p.cause &&& ~~~causeBits) &&& ~~~causeBits = 0 ↔ _
    rw [BitVec.and_assoc, BitVec.and_self]
  constructor
  · rintro ⟨⟨h1, h2, h3, h4, h5, h6, h7, h8⟩, ⟨r1, r2⟩, hi, hm⟩
    exact ⟨⟨h1, h2, h3, h4, h5, h6, hq.mp h7, h8⟩, ⟨hc.mp r1, r2⟩, hi, hm⟩
  · rintro ⟨⟨h1, h2, h3, h4, h5, h6, h7, h8⟩, ⟨r1, r2⟩, hi, hm⟩
    exact ⟨⟨h1, h2, h3, h4, h5, h6, hq.mpr h7, h8⟩, ⟨hc.mpr r1, r2⟩, hi, hm⟩

theorem Part.shell_updArm (p : Part) (x : Arm) (f : ArmPart → ArmPart) : (p.updArm x f).shell = p.shell := by
  cases x <;> rfl

theorem Part.shell_of_core {p q : Part} (h : q.core = p.core) : q.shell = p.shell := by
  unfold Part.shell; rw [h]

theorem Part.shell_of_blocks {p q : Part} (h : q.blocks = p.blocks) : q.shell = p.shell :=
  Part.shell_of_core (Part.core_of_blocks h)

theorem Part.shell_acts (p : Part) (x : Arm) (r : ArmPart) {flags : Word} (hf : flags &&& ~~~causeBits = 0)
    (ops : List MemOp) (ho : p.engine = .serving ∨ ops = []) : (p.acts x r flags ops).shell = p.shell :=
  (Part.shell_of_core (p.core_acts x rfl hf ops ho)).trans (p.shell_updArm x _)

theorem Part.shell_withdraw (p : Part) (x : Arm) : (p.withdraw x).shell = p.shell := by
  obtain ⟨k, b, flags, hf, e⟩ := p.withdraw_eq x
  rw [e]; exact p.shell_acts x _ hf _ (p.withdrawalOps_serving x)

theorem Part.shell_guardOffline (p : Part) (x : Arm) (c : StopCause) : (p.guardOffline x c).shell = p.shell := by
  obtain ⟨q, rfl, e | e | e⟩ := p.guardOffline_cases x c <;> rw [e]
  · exact (Part.shell_of_blocks ((Part.blocks_markDue _ x).trans (Part.blocks_setCause _ _))).trans (p.shell_updArm x _)
  · exact (Part.shell_of_blocks (Part.blocks_markDue _ x)).trans (p.shell_updArm x _)
  · exact p.shell_updArm x _

theorem Part.shell_startArm (p : Part) (f : Setup) (x : Arm) : (p.startArm f x).shell = p.shell :=
  (Part.shell_updArm _ x _).trans (p.shell_guardOffline x _)

theorem Part.shell_closeArm (p : Part) (x : Arm) : (p.closeArm x).shell = p.shell := by
  have h := (Part.shell_updArm (p.guardOffline x .none) x fun r =>
    { r with monitor := resetMonitor, link := r.link.becomeQuiet }).trans (p.shell_guardOffline x .none)
  unfold Part.closeArm
  dsimp only
  split
  · exact h
  · exact (Part.shell_of_blocks (Part.blocks_markChanged _ x)).trans h

theorem Part.shell_faultArm (p : Part) (x : Arm) : (p.faultArm x).shell = p.shell := by
  unfold Part.faultArm
  dsimp only
  split
  · rw [Part.leaveAdmission_eq, Part.shell_acts _ _ _ (causeBit_stray _) _ (.inr rfl)]; exact p.shell_updArm x _
  · exact p.shell_updArm x _

theorem Part.shell_endFaultedArm (p : Part) (x : Arm) : (p.endFaultedArm x).shell = p.shell := by
  unfold Part.endFaultedArm
  dsimp only
  rw [Part.shell_updArm]
  split
  · exact (p.runs_enterStopped x ‹_› _).shell
  · rfl

/-- The part with the figures of an accepted block in force (R172). -/
def Part.opens (p : Part) (f : Setup) : Part :=
  { p with
    engine := .serving
    outcome := .accepted
    fieldNumber := 0
    setup := some f
    pollTimer := if f.pollInterval = 0 then none else p.afterMs f.pollInterval
    publishTimer := p.afterMs f.publishInterval }

theorem Part.startServing_eq (p : Part) (f : Setup) (first : Arm) : p.startServing f first =
    (((((((p.opens f).clearTable f.nx f.ny f.nz).startArm f .a).startArm f .b).setCause .setup).queueStatus
      .a).queueStatus .b).promptBoth first := rfl

/-- The part at a teardown once every open request is withdrawn (R173). -/
def Part.stops (p : Part) (first : Arm) : Part :=
  Part.bothArms (({ p with opQueue := p.opQueue.filter MemOp.isSlotWrite, serve := false }.updChain .a
    Chain.stopWalk).updChain .b Chain.stopWalk) first Part.withdraw

/-- The part in CLOSING before its blocks are closed (R173). -/
def Part.stopped (p : Part) (first : Arm) : Part :=
  { p.stops first with engine := .closing, pollTimer := none, publishTimer := none }

theorem Part.teardown_eq (p : Part) (first : Arm) : p.teardown first =
    (((((p.stopped first).closeArm .a).closeArm .b).clearTable 0 0 0).queueStatus .a).queueStatus .b := rfl

/-- A refusing field is one of the 34 (R170). -/
theorem field_le_of_refused {data : BitVec 1024} {k : Nat} (h : setupRefusal data = some k) : k ≤ 34 := by
  unfold setupRefusal firstFailing at h
  obtain ⟨c, hc, rfl⟩ := Option.map_eq_some_iff.mp h
  have hall : ∀ d ∈ (1, halfAt data 0 == 0x5A31) :: (readSetup data).checks, d.1 ≤ 34 := by
    simp [Setup.checks, armChecks]
  exact hall c (List.mem_of_find?_eq_some hc)

namespace Part.UnitOk
variable {p q : Part}

theorem of_shell (h : p.UnitOk) (hs : q.shell = p.shell) : q.UnitOk := by
  rw [← Part.unitOk_shell, hs, Part.unitOk_shell]; exact h

theorem runs (h : p.UnitOk) (hr : p.Runs q) : q.UnitOk := h.of_shell hr.shell

theorem idle_queue (h : p.UnitOk) (he : p.engine = .idle ∨ p.engine = .faulted) : p.opQueue = [] :=
  h.engine.2.2.2.2.2.2.1 he

/-- The running operation's law for another part with the same base (R139, R171). -/
theorem running (h : p.UnitOk) {r : RunningOp} (hr : p.inProgress = some r) :
    (r.abandoned = false → r.addr = p.areaAddr r.op.offset) ∧
      (p.engine = .idle ∨ p.engine = .faulted → r.abandoned = true) := h.engine.2.2.2.2.2.2.2 r hr

/-- The queue in the engine states in which it may hold operations. -/
theorem requeue (h : p.UnitOk) (he : p.engine ≠ .idle ∧ p.engine ≠ .faulted) (l : List MemOp) :
    ({ p with opQueue := l } : Part).UnitOk := by
  obtain ⟨⟨h1, h2, h3, h4, h5, h6, h7, h8⟩, hr, hi, hm⟩ := h
  exact ⟨⟨h1, h2, h3, h4, h5, h6, fun h => absurd h (not_or.mpr he), h8⟩, hr, hi, hm⟩

/-- An operation has ended. -/
theorem ended (h : p.UnitOk) : p.opDone.UnitOk := by
  obtain ⟨⟨h1, h2, h3, h4, h5, h6, h7, h8⟩, hr, hi, hm⟩ := h
  exact ⟨⟨h1, h2, h3, h4, h5, h6, h7, fun r hr => by simp [Part.opDone] at hr⟩, hr, hi, hm⟩

/-! ### The load -/

theorem serveSet (h : p.UnitOk) : p.serveSet.UnitOk := by
  unfold Part.serveSet
  split
  · next hs =>
    obtain ⟨⟨h1, h2, h3, h4, h5, h6, h7, h8⟩, hr, hi, hm⟩ := h
    rw [hs.2] at h2 h3 h4
    refine ⟨⟨by simp [Part.queueOp], ?_, ?_, ?_, Nat.zero_le _, by simp [Part.queueOp], by simp [Part.queueOp],
      fun r hr => ⟨(h8 r hr).1, by simp [Part.queueOp]⟩⟩, hr, hi, hm⟩
    · simpa [Part.queueOp] using h2
    · simpa [Part.queueOp] using h3
    · intro hp
      exact absurd (h4 hp) (by simp)
  · exact h

/-- The part once a load has ended, whose read, if it is in progress, is abandoned (R171). -/
theorem endLoad (h : p.UnitOk) (he : p.engine = .loading) (o : SetupOutcome) (n : Nat) (hn : n ≤ 34)
    (ho : n ≠ 0 → o = .refused) (l : Option RunningOp) (hl : ∀ r, l = some r → r.abandoned = true) (k : FaultKind) :
    ({ p.endLoad o n with inProgress := l, faultKind := k } : Part).UnitOk := by
  obtain ⟨⟨h1, h2, h3, h4, h5, h6, h7, h8⟩, hr, hi, hm⟩ := h
  rw [he] at h2 h3 h4
  refine ⟨⟨by simp [Part.endLoad], by simpa [Part.endLoad] using h2, by simpa [Part.endLoad] using h3, ?_, hn, ho,
    fun _ => rfl, fun r hr => ⟨fun ha => ?_, fun _ => hl r hr⟩⟩, hr, hi, hm⟩
  · intro hp
    exact absurd (h4 hp) (by simp)
  · rw [hl r hr] at ha; simp at ha

theorem setCause (h : p.UnitOk) (c : Cause) : (p.setCause c).UnitOk := h.of_shell (Part.shell_of_blocks (p.blocks_setCause c))

/-! ### Faults -/

/-- CLOSING has ended (R173). -/
theorem closeDone (h : p.UnitOk) (he : p.engine = .closing) (hn : p.inProgress = none) (k : FaultKind) :
    ({ ({ p with opQueue := [] } : Part).closeDone with faultKind := k } : Part).UnitOk := by
  obtain ⟨⟨h1, h2, h3, h4, h5, h6, h7, h8⟩, hr, hi, hm⟩ := h
  rw [he] at h1 h3 h4
  refine ⟨⟨?_, ?_, ?_, ?_, h5, h6, fun _ => rfl, fun r hr => ?_⟩, hr, hi, hm⟩
  · simpa [Part.closeDone, Part.updChain, Part.updArm] using h1
  · simp [Part.closeDone, Part.updChain, Part.updArm]
  · simpa [Part.closeDone, Part.updChain, Part.updArm] using h3
  · intro hp
    exact absurd (h4 hp) (by simp)
  · rw [show p.inProgress = some r from hr] at hn; simp at hn

/-- The shell at the entry into FAULTED (R152). -/
theorem faulted (h : p.UnitOk) (he : p.engine = .serving) (hn : p.inProgress = none) (k : FaultKind) :
    ({ p with engine := .faulted, faultKind := k, opQueue := [], pollTimer := none, publishTimer := none } :
      Part).UnitOk := by
  obtain ⟨⟨h1, h2, h3, h4, h5, h6, h7, h8⟩, hr, hi, hm⟩ := h
  rw [he] at h1 h2
  refine ⟨⟨?_, ?_, by simp, by simp, h5, h6, fun _ => rfl, fun r hr => ?_⟩, hr, hi, hm⟩
  · simpa using h1
  · simpa using h2
  · rw [show p.inProgress = some r from hr] at hn; simp at hn

/-- A fault finds no operation in progress any more. -/
theorem takeFault (h : p.UnitOk) (hn : p.inProgress = none) (k : FaultKind) : (p.takeFault k).UnitOk := by
  obtain ⟨he, e⟩ | ⟨he, e⟩ | ⟨he, e⟩ | ⟨-, e⟩ := p.takeFault_cases k <;> rw [e]
  · have hl := (h.endLoad he .refused 0 (Nat.zero_le _) (fun _ => rfl) p.inProgress (by simp [hn]) k).setCause .fault
    exact hl
  · unfold Part.enterFaulted
    dsimp only
    exact ((h.faulted he hn k).setCause .fault).of_shell ((Part.shell_faultArm _ .b).trans (Part.shell_faultArm _ .a))
  · exact UnitOk.closeDone (h.setCause .fault) he hn k
  · exact h

theorem dropRunning (h : p.UnitOk) : p.dropRunning.UnitOk ∧ p.dropRunning.inProgress = none := by
  have hm := dropRunning_wf p h.memory
  obtain ⟨⟨h1, h2, h3, h4, h5, h6, h7, -⟩, hr, hi, -⟩ := h
  obtain ⟨hn, e⟩ | ⟨r, -, -, e⟩ | ⟨r, -, -, e⟩ := p.dropRunning_cases <;> rw [e] at hm ⊢
  · exact ⟨⟨⟨h1, h2, h3, h4, h5, h6, h7, by simp [hn]⟩, hr, hi, hm⟩, hn⟩
  · exact ⟨⟨⟨h1, h2, h3, h4, h5, h6, h7, by simp⟩, hr, hi, hm⟩, rfl⟩
  · exact ⟨⟨⟨h1, h2, h3, h4, h5, h6, h7, by simp⟩, hr, hi, hm⟩, rfl⟩

theorem failRunning (h : p.UnitOk) (kind : MemOp → FaultKind) : (p.failRunning kind).UnitOk := by
  obtain ⟨-, e⟩ | ⟨r, -, -, e⟩ | ⟨r, -, -, e⟩ := p.failRunning_cases kind <;> rw [e]
  · exact h
  · exact h.dropRunning.1
  · exact h.dropRunning.1.takeFault h.dropRunning.2 _

/-! ### The end of a step -/

/-- An operation that starts is at the base plus its offset (R139). -/
theorem beginOp (h : p.UnitOk) (he : p.engine ≠ .idle ∧ p.engine ≠ .faulted) (op : MemOp) : (p.beginOp op).UnitOk := by
  have hs : (p.raiseEdition op).shell = p.shell := by
    cases op with
    | statusWrite y => exact p.shell_updArm y _
    | _ => rfl
  have hq := h.of_shell hs
  have hqe : (p.raiseEdition op).engine = p.engine := show (p.raiseEdition op).shell.engine = p.shell.engine by rw [hs]
  obtain ⟨⟨h1, h2, h3, h4, h5, h6, h7, -⟩, hr, hi, hm⟩ := hq
  refine ⟨⟨h1, h2, h3, h4, h5, h6, h7, fun r hr => ?_⟩, hr, hi, hm⟩
  obtain rfl := Option.some.inj hr
  refine ⟨fun _ => rfl, fun hi => ?_⟩
  rw [show (p.beginOp op).engine = (p.raiseEdition op).engine from rfl, hqe] at hi
  exact absurd hi (not_or.mpr he)

theorem startNext (h : p.UnitOk) : p.startNext.UnitOk := by
  have hne : ∀ op rest, p.opQueue = op :: rest → p.engine ≠ .idle ∧ p.engine ≠ .faulted := fun op rest hq =>
    not_or.mp fun he => by rw [h.idle_queue he] at hq; simp at hq
  obtain ⟨-, e⟩ | ⟨hn, hq, he, e⟩ | ⟨-, -, -, e⟩ | ⟨op, rest, -, hq, -, e⟩ | ⟨op, rest, hn, hq, -, e⟩ :=
    p.startNext_cases <;> rw [e]
  · exact h
  · have hc := h.closeDone he hn p.faultKind
    rw [← hq] at hc; exact hc
  · exact h
  · exact (h.requeue (hne _ _ hq) rest).beginOp (hne _ _ hq) op
  · exact (h.requeue (hne _ _ hq) rest).takeFault hn _

theorem settle (h : p.UnitOk) (b : Part) : (Part.settle b p).UnitOk := by
  have hp : ((p.publish .a).publish .b).UnitOk :=
    h.of_shell (Part.shell_of_blocks ((Part.blocks_publish _ .b).trans (Part.blocks_publish _ .a)))
  have hl := hp.startNext.of_shell ((Part.shell_updArm _ .b fun r => { r with guard := { r.guard with
    stopAsserted := !(((p.publish .a).publish .b).startNext.driveStopLine .a).lineReleased .b } }).trans
    (Part.shell_updArm _ .a fun r => { r with guard := { r.guard with
      stopAsserted := !((p.publish .a).publish .b).startNext.lineReleased .a } }))
  unfold Part.settle Part.sendMessage
  split
  · obtain ⟨he, hr, hi, hm⟩ := hl; exact ⟨he, hr, hi, hm⟩
  · exact hl

/-! ### Serving -/

theorem startServing (h : p.UnitOk) (he : p.engine = .loading) (f : Setup) (first : Arm) :
    (p.startServing f first).UnitOk := by
  have h0 : (p.opens f).UnitOk := by
    obtain ⟨⟨h1, h2, h3, h4, h5, h6, h7, h8⟩, hr, hi, hm⟩ := h
    rw [he] at h1
    exact ⟨⟨by simpa [Part.opens] using h1, by simp [Part.opens], by simp [Part.opens, Part.afterMs, timerAt],
      by simp [Part.opens], Nat.zero_le _, by simp [Part.opens], by simp [Part.opens],
      fun r hr => ⟨(h8 r hr).1, by simp [Part.opens]⟩⟩, hr, hi, hm⟩
  have hs : ((((p.opens f).clearTable f.nx f.ny f.nz).startArm f .a).startArm f .b).shell = (p.opens f).shell :=
    ((Part.shell_startArm _ f .b).trans (Part.shell_startArm _ f .a)).trans
      (Part.shell_of_blocks (Part.blocks_clearTable _ _ _ _))
  rw [Part.startServing_eq]
  generalize ((((p.opens f).clearTable f.nx f.ny f.nz).startArm f .a).startArm f .b) = q at hs
  have hqe : q.engine = .serving := show q.shell.engine = .serving by rw [hs]; rfl
  refine (h0.of_shell hs).of_shell (Part.shell_of_blocks ?_)
  rw [Part.blocks_promptBoth, Part.blocks_queueStatus _ _ (by simpa [Part.queueStatus, Part.updChain_eq] using hqe),
    Part.blocks_queueStatus _ _ (by simpa using hqe), Part.blocks_setCause]

theorem setupReadDone (h : p.UnitOk) (data : BitVec 1024) (first : Arm) : (p.setupReadDone data first).UnitOk := by
  unfold Part.setupReadDone
  split
  · split
    · split
      · exact h.ended
      · next hl =>
        have hload : p.opDone.engine = .loading := by
          show p.engine = .loading
          simpa using (not_or.mp hl).2
        unfold Part.checkSetup
        split
        · next k hk =>
          exact (h.ended.endLoad hload .refused k (field_le_of_refused hk) (fun _ => rfl) none (by simp)
            p.faultKind).setCause .setup
        · exact h.ended.startServing hload _ _
    · exact h
  · exact h

/-- A status block write that joins the queue of CLOSING. -/
theorem queueStatus (h : p.UnitOk) (he : p.engine = .closing) (x : Arm) : (p.queueStatus x).UnitOk := by
  have hq : (p.updChain x fun c => { c with blockQueued := true }).UnitOk := h.of_shell (p.shell_updArm x _)
  have hqe : (p.updChain x fun c => { c with blockQueued := true }).engine = .closing := by
    rw [← he]; exact Part.updArm_engine _ _ _
  exact hq.requeue (by rw [hqe]; simp) _

theorem stopped (h : p.UnitOk) (he : p.engine = .serving) (first : Arm) : (p.stopped first).UnitOk := by
  have hw : (p.stops first).shell = ({ p with serve := false } : Part).shell := by
    unfold Part.stops Part.bothArms
    rw [Part.shell_withdraw, Part.shell_withdraw]
    refine (Part.shell_updArm _ .b _).trans ((Part.shell_updArm _ .a _).trans ?_)
    simp [Part.shell, Part.core, Part.blocks, he]
  have hs : (p.stopped first).shell = { (p.stops first).shell with
      engine := .closing, pollTimer := none, publishTimer := none, opQueue := (p.stops first).opQueue } := rfl
  have hc : ({ p with
      serve := false, engine := .closing, pollTimer := none, publishTimer := none
      opQueue := (p.stops first).opQueue } : Part).UnitOk := by
    obtain ⟨⟨h1, h2, h3, h4, h5, h6, h7, h8⟩, hr, hi, hm⟩ := h
    rw [he] at h2
    exact ⟨⟨by simp, by simpa using h2, by simp, by simp, h5, h6, by simp, fun r hr => ⟨(h8 r hr).1, by simp⟩⟩, hr, hi, hm⟩
  refine hc.of_shell ?_
  rw [hs, hw]; rfl

theorem teardown (h : p.UnitOk) (he : p.engine = .serving) (first : Arm) : (p.teardown first).UnitOk := by
  have hs : (((p.stopped first).closeArm .a).closeArm .b |>.clearTable 0 0 0).shell = (p.stopped first).shell :=
    (Part.shell_of_blocks (Part.blocks_clearTable _ _ _ _)).trans
      ((Part.shell_closeArm _ .b).trans (Part.shell_closeArm _ .a))
  have hq := (h.stopped he first).of_shell hs
  rw [Part.teardown_eq]
  generalize (((p.stopped first).closeArm .a).closeArm .b).clearTable 0 0 0 = q at hs hq
  have hqe : q.engine = .closing := show q.shell.engine = .closing by rw [hs]; rfl
  refine (hq.queueStatus hqe .a).queueStatus ?_ .b
  rw [← hqe]; exact (Part.queueOp_engine _ _).trans (Part.updArm_engine _ _ _)

theorem endFaulted (h : p.UnitOk) (he : p.engine = .faulted) (first : Arm) : (p.endFaulted first).UnitOk := by
  have hw : (p.bothArms first Part.endFaultedArm).shell = p.shell :=
    (Part.shell_endFaultedArm _ _).trans (Part.shell_endFaultedArm _ _)
  have hu := h.of_shell hw
  have hue : (p.bothArms first Part.endFaultedArm).engine = .faulted :=
    show (p.bothArms first Part.endFaultedArm).shell.engine = .faulted by rw [hw]; exact he
  unfold Part.endFaulted
  dsimp only
  generalize p.bothArms first Part.endFaultedArm = u at hu hue
  obtain ⟨⟨h1, h2, h3, h4, h5, h6, h7, h8⟩, hr, hi, hm⟩ := hu
  rw [hue] at h3 h4 h7 h8
  refine ⟨⟨by simp, by simp, by simpa using h3, ?_, h5, h6, fun _ => h7 (.inr rfl), fun r hr =>
    ⟨(h8 r hr).1, fun _ => (h8 r hr).2 (.inr rfl)⟩⟩, hr, hi, hm⟩
  intro hp
  exact absurd (h4 hp) (by simp)

theorem serveClear (h : p.UnitOk) (first : Arm) : (p.serveClear first).UnitOk := by
  unfold Part.serveClear
  split
  · split
    next he =>
      refine h.endLoad he .abandoned 0 (Nat.zero_le _) (by simp) _ (fun r hr => ?_) p.faultKind
      obtain ⟨r', -, rfl⟩ := Option.map_eq_some_iff.mp hr
      rfl
    next he => exact h.teardown he first
    next he => exact h.endFaulted he first
    all_goals exact h
  · exact h

/-! ### Registers, reads, writes and inputs -/

/-- What a reset of everything but some registers leaves (R175). -/
theorem of_reset {q : Part} (hq : q.engineLaw) (hc : q.cause = 0) (hm : q.causeMask &&& ~~~causeBits = 0)
    (hb : q.baseLo &&& 0xFFF = 0) (hi : q.inputLaw) (hw : Memory.wf q.hostMem = true) : q.UnitOk :=
  ⟨hq, ⟨by rw [hc]; rfl, hm, hb⟩, hi, hw⟩

theorem resetLaw {q : Part} (he : q.engine = .idle) (hs : q.serve = false) (hset : q.setup = none)
    (hp : q.publishTimer = none) (hpo : q.pollTimer = none) (hf : q.fieldNumber = 0) (hq : q.opQueue = [])
    (hi : q.inProgress = none) : q.engineLaw := by
  refine ⟨?_, ?_, ?_, ?_, ?_, ?_, fun _ => hq, fun r hr => ?_⟩
  · simp [he, hs]
  · simp [he, hset]
  · simp [he, hp]
  · simp [hpo]
  · simp [hf]
  · simp [hf]
  · rw [hi] at hr; simp at hr

theorem partReset (h : p.UnitOk) (hr : p.inReset = false) : p.partReset.UnitOk := by
  have hd := h.dropRunning.1
  refine of_reset (resetLaw rfl rfl rfl rfl rfl rfl rfl rfl) rfl hd.registers.2.1 hd.registers.2.2 (fun _ => ?_) hd.memory
  exact hd.input (p.dropRunning_frame.2.2.2.2.trans hr)

theorem pinReset (h : p.UnitOk) : p.pinReset.UnitOk :=
  of_reset (resetLaw rfl rfl rfl rfl rfl rfl rfl rfl) rfl BitVec.zero_and BitVec.zero_and (fun _ => by simp [Part.pinReset, resetPart])
    h.dropRunning.1.memory

theorem assertReset (h : p.UnitOk) : p.assertReset.UnitOk := by
  obtain ⟨⟨⟨h1, h2, h3, h4, h5, h6, h7, h8⟩, hr, -, hm⟩, hn⟩ := h.dropRunning
  refine UnitOk.of_shell (p := { p.dropRunning with inReset := true, opQueue := [] })
    ⟨⟨h1, h2, h3, h4, h5, h6, fun _ => rfl, fun r hr => ?_⟩, hr, fun hf => Bool.noConfusion (show true = false from hf), hm⟩
    ((Part.shell_updArm _ .b _).trans (Part.shell_updArm _ .a _))
  rw [show p.dropRunning.inProgress = some r from hr] at hn; simp at hn

theorem writeCause (h : p.UnitOk) (v : Word) : (p.writeCause v).UnitOk := by
  obtain ⟨he, ⟨r1, r2⟩, hi, hm⟩ := h
  refine ⟨he, ⟨?_, r2⟩, hi, hm⟩
  show (p.cause &&& ~~~v) &&& ~~~causeBits = 0
  rw [BitVec.and_assoc, BitVec.and_comm (~~~v), ← BitVec.and_assoc, r1]
  exact BitVec.zero_and

theorem writeCauseMask (h : p.UnitOk) (v : Word) : (p.writeCauseMask v).UnitOk := by
  obtain ⟨he, ⟨r1, -, r3⟩, hi, hm⟩ := h
  refine ⟨he, ⟨r1, ?_, r3⟩, hi, hm⟩
  show (v &&& causeBits) &&& ~~~causeBits = 0
  rw [BitVec.and_assoc, show causeBits &&& ~~~causeBits = 0 from rfl]
  exact BitVec.and_zero

/-- The base moves in IDLE alone, where no operation of the exchange is in progress (R139). -/
theorem writeBase (h : p.UnitOk) (which : BaseRegister) (v : Word) : (p.writeBase which v).UnitOk := by
  unfold Part.writeBase
  split
  · next he =>
    have hrun : ∀ r, p.inProgress = some r → r.abandoned = true := fun r hr => (h.running hr).2 (.inl he)
    obtain ⟨⟨h1, h2, h3, h4, h5, h6, h7, h8⟩, ⟨r1, r2, r3⟩, hi, hm⟩ := h
    have h8' : ∀ (q : Part) r, p.inProgress = some r → (r.abandoned = false → r.addr = q.areaAddr r.op.offset) ∧
        (p.engine = .idle ∨ p.engine = .faulted → r.abandoned = true) := fun q r hr =>
      ⟨fun ha => by rw [hrun r hr] at ha; simp at ha, (h8 r hr).2⟩
    split
    · refine ⟨⟨h1, h2, h3, h4, h5, h6, h7, fun r hr => h8' _ r hr⟩, ⟨r1, r2, ?_⟩, hi, hm⟩
      show (v &&& baseLoBits) &&& 0xFFF = 0
      rw [BitVec.and_assoc, show baseLoBits &&& 0xFFF = 0 from rfl]
      exact BitVec.and_zero
    · exact ⟨⟨h1, h2, h3, h4, h5, h6, h7, fun r hr => h8' _ r hr⟩, ⟨r1, r2, r3⟩, hi, hm⟩
  · exact h

theorem writeWindow (h : p.UnitOk) (hr : p.inReset = false) (offset : BitVec 6) (size : Nat) (v : Word) :
    (p.writeWindow offset size v).UnitOk := by
  unfold Part.writeWindow
  split
  · split
    · rw [Part.writeControl_eq]
      have hc := h.runs (p.runs_controlArms v)
      split
      · exact h.partReset hr
      · split
        · exact hc.serveSet
        · exact hc.serveClear .a
    · exact h.writeCause v
    · exact h.writeCauseMask v
    · exact h.runs (p.runs_promptBoth .a)
    · exact h.writeBase .lo v
    · exact h.writeBase .hi v
    · exact h
  · exact h

theorem landed (h : p.UnitOk) (r : RunningOp) : (p.landWrite r).UnitOk := by
  obtain ⟨he, hr, hi, hm⟩ := h
  exact ⟨he, hr, hi, landWrite_wf p r hm⟩

theorem writeDone (h : p.UnitOk) : p.writeDone.UnitOk := by
  unfold Part.writeDone
  split
  · split
    · exact h
    · split
      · exact (h.landed _).ended.runs (Part.runs_slotDone _ _)
      · exact (h.landed _).ended
  · exact h

theorem losePcie (h : p.UnitOk) (c : PcieCondition) : (p.losePcie c).UnitOk := by
  obtain ⟨he, hr, hi, hm⟩ := h
  unfold Part.losePcie
  refine UnitOk.failRunning ?_ _
  cases c <;> exact ⟨he, hr, hi, hm⟩

theorem memoryFails (h : p.UnitOk) (f : MemoryFailure) : (p.memoryFails f).UnitOk := by
  unfold Part.memoryFails
  split
  · exact h
  · split
    · split
      · exact h.failRunning _
      · exact h
    · split
      · exact h.failRunning _
      · exact h
    · exact h.losePcie _
    · exact h.losePcie _

/-- A level of the CELLSTOP input: the filter runs exactly while the guards do not see it (R89). -/
theorem setCellstopPin (h : p.UnitOk) (hr : p.inReset = false) (level : Bool) : (p.setCellstopPin level).UnitOk := by
  obtain ⟨he, hreg, hi, hm⟩ := h
  refine ⟨he, hreg, fun _ => ?_, hm⟩
  have hi := hi hr
  show (if p.cellstop = level then none else if p.cellstopPin = level then p.cellstopFilter
    else timerAt p.now cellstopFilterUs).isSome = true ↔ level ≠ p.cellstop
  split
  · next hc => simp [hc]
  · next hc =>
    split
    · next hp => rw [hi, hp]
    · simp [timerAt, Ne.symm hc]

theorem seeCellstop (h : p.UnitOk) : p.seeCellstop.UnitOk := by
  obtain ⟨he, hr, hi, hm⟩ := h
  exact ⟨he, hr, fun _ => by simp [Part.seeCellstop], hm⟩

theorem engineEffect {f : Part → Part} (hf : Part.Engine f) (h : p.UnitOk) (hr : p.inReset = false) : (f p).UnitOk := by
  cases hf with
  | serveSet => exact h.serveSet
  | serveClear first => exact h.serveClear first
  | partReset => exact h.partReset hr
  | writeCause v => exact h.writeCause v
  | writeCauseMask v => exact h.writeCauseMask v
  | writeBase which v => exact h.writeBase which v
  | writeWindow offset size v => exact h.writeWindow hr offset size v
  | setupReadDone data first => exact h.setupReadDone data first
  | nextReadDone next =>
    unfold Part.nextReadDone
    dsimp only
    split
    · split
      · next he =>
        have he' : p.opDone.engine = .serving := he
        exact h.ended.runs (.of_blocks (Part.blocks_takeNext _ _ _ he'))
      · exact h.ended
    · exact h
  | slotReadDone data =>
    unfold Part.slotReadDone
    dsimp only
    split
    · split
      · next he =>
        have he' : p.opDone.engine = .serving := he
        exact h.ended.runs (Part.runs_takeCandidate _ _ he' _ _)
      · exact h.ended
    · exact h
  | writeDone => exact h.writeDone
  | readTimedOut =>
    unfold Part.readTimedOut
    split
    · split
      · exact h.failRunning _
      · exact h
    · exact h
  | memoryFails failure => exact h.memoryFails failure
  | losePcie c => exact h.losePcie c
  | pollExpires first =>
    unfold Part.pollExpires
    dsimp only
    split
    · next he =>
      obtain ⟨⟨h1, h2, h3, h4, h5, h6, h7, h8⟩, hr, hi, hm⟩ := h
      have hq : ({ p with pollTimer := p.afterMs p.figures.pollInterval } : Part).UnitOk :=
        ⟨⟨h1, h2, h3, fun _ => he.1, h5, h6, h7, h8⟩, hr, hi, hm⟩
      exact hq.runs (Part.runs_promptBoth _ first)
    · exact h
  | publishExpires =>
    unfold Part.publishExpires
    split
    · next he =>
      obtain ⟨⟨h1, h2, h3, h4, h5, h6, h7, h8⟩, hr, hi, hm⟩ := h
      have hq : ({ p with publishTimer := p.afterMs p.figures.publishInterval } : Part).UnitOk :=
        ⟨⟨h1, h2, by simp [he.1, Part.afterMs, timerAt], h4, h5, h6, h7, h8⟩, hr, hi, hm⟩
      exact hq.runs (.of_blocks ((Part.blocks_publishChanged _ .b).trans (Part.blocks_publishChanged _ .a)))
    · exact h
  | assertCellstop first =>
    show (p.assertCellstop first).UnitOk
    obtain ⟨-, e⟩ | ⟨-, e⟩ := p.assertCellstop_cases first <;> rw [e]
    · exact (h.setCellstopPin hr true).seeCellstop.runs
        ((Part.runs_cellstopEscalates _ first).trans (Part.runs_cellstopEscalates _ first.other))
    · exact h.setCellstopPin hr true
  | releaseCellstop =>
    obtain ⟨-, e⟩ | ⟨-, e⟩ := p.releaseCellstop_cases <;> rw [e]
    · exact (h.setCellstopPin hr false).seeCellstop
    · exact h.setCellstopPin hr false
  | writeConfiguration bm msg =>
    obtain ⟨he, hreg, hi, hm⟩ := h
    have hq : ({ p with msgEnable := msg, busMaster := bm } : Part).UnitOk := ⟨he, hreg, hi, hm⟩
    unfold Part.writeConfiguration
    dsimp only
    split
    · exact hq
    · exact hq.failRunning _
  | pcieLink up =>
    unfold Part.pcieLink
    split
    · obtain ⟨he, hreg, hi, hm⟩ := h; exact ⟨he, hreg, hi, hm⟩
    · exact h.losePcie _

theorem effect {f : Part → Part} (hf : Part.Effect f) (h : p.UnitOk) (hr : p.inReset = false) : (f p).UnitOk :=
  (hf.runs_or_engine p).elim h.runs fun he => h.engineEffect he hr

theorem steps (h : p.UnitOk) (hs : p.Steps q) : q.UnitOk := by
  cases hs with
  | tick =>
    unfold Part.tick
    split
    · exact h
    · obtain ⟨he, hr, hi, hm⟩ := h; exact ⟨he, hr, hi, hm⟩
  | pinReset => exact h.pinReset
  | assertReset => exact h.assertReset
  | inReset => exact h
  | cellstopInput hr =>
    obtain ⟨he, hreg, -, hm⟩ := h
    exact ⟨he, hreg, fun hn => by rw [show p.inReset = false from hn] at hr; simp at hr, hm⟩
  | linkInput => obtain ⟨he, hr, hi, hm⟩ := h; exact ⟨he, hr, hi, hm⟩
  | command hr hf => exact (h.effect hf hr).settle p

end Part.UnitOk

/-! ## Nothing unstarted, nothing unqueued (R150, R155, R173) -/

/-- Every due block of a SERVING engine waits in the queue. -/
def Part.blocksQueued (p : Part) : Prop := p.engine = .serving → ∀ y,
  (p.arm y).chain.publishDue = true → (p.arm y).chain.blockQueued = true

theorem Part.settledLaw_iff (p : Part) :
    p.settledLaw ↔ (p.inProgress = none → p.opQueue = [] ∧ p.engine ≠ .closing) ∧ p.blocksQueued := by
  refine and_congr Iff.rfl (forall_congr' fun _ => ⟨fun h y => ?_, fun h => ⟨h .a, h .b⟩⟩)
  cases y
  · exact h.1
  · exact h.2

/-- After publish x's block waits if it is due, and the other arm's marks are as before. -/
theorem Part.publish_queued (p : Part) (x : Arm) (he : p.engine = .serving) :
    (((p.publish x).arm x).chain.publishDue = true → ((p.publish x).arm x).chain.blockQueued = true) ∧
    (p.publish x).arm x.other = p.arm x.other := by
  obtain ⟨-, e⟩ | ⟨hn, e⟩ := p.publish_cases x <;> rw [e]
  · exact ⟨fun _ => by simp [Part.queueStatus, Part.updChain_eq], by simp [Part.queueStatus, Part.updChain_eq]⟩
  · refine ⟨fun hd => ?_, rfl⟩
    refine Classical.byContradiction fun hb => ?_
    exact hn ⟨he, hd, by simpa using hb⟩

theorem Part.publish_blocksQueued (p : Part) : ((p.publish .a).publish .b).blocksQueued := by
  intro he y
  have he1 : (p.publish .a).engine = .serving := (Part.engine_of_blocks (Part.blocks_publish _ .b)).symm.trans he
  have he0 : p.engine = .serving := (Part.engine_of_blocks (Part.blocks_publish _ .a)).symm.trans he1
  obtain ⟨ha, -⟩ := p.publish_queued .a he0
  obtain ⟨hb, hbo⟩ := (p.publish .a).publish_queued .b he1
  cases y
  · rw [show ((p.publish .a).publish .b).arm .a = (p.publish .a).arm .a from hbo]; exact ha
  · exact hb

/-- The marks of an operation that starts: those of its own block are cleared. -/
theorem Part.beginOp_blocksQueued {p : Part} (h : p.blocksQueued) (op : MemOp) : (p.beginOp op).blocksQueued := by
  cases op with
  | statusWrite x =>
    intro he y
    have he0 : p.engine = .serving := (Part.updArm_engine p x _).symm.trans he
    by_cases hy : y = x
    · subst hy
      rw [show (p.beginOp (.statusWrite y)).arm y = _ from Part.updArm_arm p y _]
      simp
    · obtain rfl := Arm.eq_other_of_ne hy
      rw [show (p.beginOp (.statusWrite x)).arm x.other = p.arm x.other from Part.updArm_arm_other p x _]
      exact h he0 _
  | _ => exact h

/-- A fault of a queued operation leaves nothing queued and the engine out of SERVING and CLOSING. -/
theorem Part.takeFault_empties (p : Part) (k : FaultKind) (hi : p.engine ≠ .idle) (hf : p.engine ≠ .faulted) :
    (p.takeFault k).opQueue = [] ∧ ((p.takeFault k).engine = .idle ∨ (p.takeFault k).engine = .faulted) := by
  have hq : ∀ (q : Part) (x : Arm), (q.faultArm x).opQueue = q.opQueue ∧ (q.faultArm x).engine = q.engine :=
    fun q x => by
      unfold Part.faultArm
      dsimp only
      split
      · rw [Part.leaveAdmission_eq]; simp
      · simp
  obtain ⟨-, e⟩ | ⟨-, e⟩ | ⟨-, e⟩ | ⟨he, -⟩ := p.takeFault_cases k
  · rw [e]; exact ⟨rfl, .inl rfl⟩
  · rw [e]
    unfold Part.enterFaulted
    dsimp only
    rw [(hq _ .b).1, (hq _ .b).2, (hq _ .a).1, (hq _ .a).2]
    exact ⟨rfl, .inr rfl⟩
  · rw [e]; exact ⟨rfl, .inl rfl⟩
  · exact absurd he (not_or.mpr ⟨hi, hf⟩)

theorem Part.settledLaw_of_empty {p : Part} (hq : p.opQueue = []) (he : p.engine = .idle ∨ p.engine = .faulted) :
    p.settledLaw :=
  (Part.settledLaw_iff p).mpr ⟨fun _ => ⟨hq, by rcases he with he | he <;> simp [he]⟩,
    fun hs => by rcases he with he | he <;> simp [he] at hs⟩

theorem Part.UnitOk.startNext_settled {p : Part} (h : p.UnitOk) (hb : p.blocksQueued) : p.startNext.settledLaw := by
  obtain ⟨hi, e⟩ | ⟨-, hq, -, e⟩ | ⟨-, hq, he, e⟩ | ⟨op, rest, -, -, -, e⟩ | ⟨op, rest, -, hq, -, e⟩ :=
    p.startNext_cases <;> rw [e]
  · exact (Part.settledLaw_iff p).mpr ⟨fun hn => by rw [hn] at hi; simp at hi, hb⟩
  · exact Part.settledLaw_of_empty hq (.inl rfl)
  · exact (Part.settledLaw_iff p).mpr ⟨fun _ => ⟨hq, he⟩, hb⟩
  · have hb' : ({ p with opQueue := rest } : Part).blocksQueued := hb
    exact (Part.settledLaw_iff _).mpr ⟨fun hn => by simp [Part.beginOp] at hn, Part.beginOp_blocksQueued hb' op⟩
  · have hne : p.engine ≠ .idle ∧ p.engine ≠ .faulted :=
      not_or.mp fun he => by rw [h.idle_queue he] at hq; simp at hq
    obtain ⟨hq', he'⟩ := Part.takeFault_empties { p with opQueue := rest } op.faultKind hne.1 hne.2
    exact Part.settledLaw_of_empty hq' he'

/-- The stop lines and the messages are beside the law. -/
theorem Part.settledLaw_of_view {p q : Part} (hq : q.opQueue = p.opQueue) (hi : q.inProgress = p.inProgress)
    (he : q.engine = p.engine) (ha : ∀ y, (q.arm y).chain = (p.arm y).chain) (h : p.settledLaw) : q.settledLaw := by
  rw [Part.settledLaw_iff] at h ⊢
  unfold Part.blocksQueued at h ⊢
  rw [hq, hi, he]
  exact ⟨h.1, fun hs y => by rw [ha]; exact h.2 hs y⟩

theorem Part.settle_settled {p : Part} (h : p.UnitOk) (b : Part) : (Part.settle b p).settledLaw := by
  have hp : ((p.publish .a).publish .b).UnitOk :=
    h.of_shell (Part.shell_of_blocks ((Part.blocks_publish _ .b).trans (Part.blocks_publish _ .a)))
  have hn := hp.startNext_settled p.publish_blocksQueued
  unfold Part.settle
  generalize ((p.publish .a).publish .b).startNext = q at hn
  have hd : ∀ (u : Part) (x : Arm), u.settledLaw → (u.driveStopLine x).settledLaw := fun u x hu =>
    Part.settledLaw_of_view (by simp [Part.driveStopLine, Part.updGuard_eq]) (by simp [Part.driveStopLine, Part.updGuard_eq])
      (by simp [Part.driveStopLine, Part.updGuard_eq]) (fun y => by
        by_cases hy : y = x
        · subst hy; rw [Part.driveStopLine_arm]
        · obtain rfl := Arm.eq_other_of_ne hy
          rw [Part.driveStopLine, Part.updGuard_eq, Part.updArm_arm_other]) hu
  have hs := hd _ .b (hd _ .a hn)
  unfold Part.sendMessage
  split
  · exact hs
  · exact hs

/-- Every step of a part out of reset leaves a settled part. -/
theorem Part.UnitOk.steps_settled {p q : Part} (h : p.UnitOk) (hs : p.Steps q)
    (hp : p.inReset = false → p.settledLaw) (hq : q.inReset = false) : q.settledLaw := by
  cases hs with
  | tick =>
    cases hr : p.inReset with
    | true =>
      have ht : p.tick = p := by simp [Part.tick, hr]
      rw [ht] at hq ⊢; exact hp hq
    | false =>
      have ht : p.tick = { p with now := p.now + 1 } := by simp [Part.tick, hr]
      rw [ht]; exact hp hr
  | pinReset => exact Part.settledLaw_of_empty rfl (.inl rfl)
  | assertReset => rw [p.assertReset_frame.2.2] at hq; simp at hq
  | inReset => exact hp hq
  | cellstopInput => exact hp hq
  | linkInput => exact hp hq
  | command hr hf => exact Part.settle_settled (h.effect hf hr) p

/-- Settles O59: the shell decides the laws of the engine, the registers, the inputs and host memory
(`Part.UnitOk.steps`), the arms' cores those of chains and decelerations (`chain_armsLaw`, `alrnOk_armLaw`), and the
end of a step settles what waits. -/
theorem stepKeepsEngineLaws : Obligations.StepKeepsEngineLaws := by
  rintro s t laws ⟨he, hc, hd, hr, hi, hm, hsettled⟩ hst
  have hsteps := step_steps hst
  have hok : s.part.UnitOk := ⟨he, hr, hi, hm⟩
  have hunit := hok.steps hsteps
  have hplace : s.part.chainLaw → s.part.assertReset.chainLaw :=
    Part.chainLaw_of_place fun y => by rw [Part.assertReset_arm]; rfl
  have halrn := alrnOk_armLaw.arms.steps hsteps (fun h y => by
    rw [Part.assertReset_arm, s.part.assertReset_frame.2.1]; exact h y) (s.part.decelerationLaw_iff.mp hd)
  exact ⟨hunit.engine, chain_armsLaw.steps hsteps hplace hc, t.part.decelerationLaw_iff.mpr halrn, hunit.registers,
    hunit.input, hunit.memory, hok.steps_settled hsteps hsettled⟩

end Sys2Proof.Machine

/-! SUPPORT. The cell table law and the park law through the operations of the arbiter (R19 to R41, R54). -/

namespace Sys2Proof.Machine

/-! ## Which claim number holds which cell -/

/-- Claim number `n` of arm x, or its park claim, holds the cell. -/
def CellTable.holds (t : CellTable) (x : Arm) (n c : Nat) : Prop := t.owner c = some x ∧ n ∈ (t.entry c).holders

section
variable {t : CellTable} {x : Arm} {n : Nat}

/-- A cell that no other arm owns and something holds is x's. -/
theorem CellTable.owner_of_held (h : t.wf) {c : Nat} (hc : t.owner c ≠ some x.other)
    (hh : (t.entry c).holders ≠ []) : t.owner c = some x := by
  have hne : t.owner c ≠ none := fun e => hh ((t.owner_none_iff h c).mp e)
  cases ho : t.owner c with
  | none => exact absurd ho hne
  | some y =>
    by_cases hy : y = x
    · rw [hy]
    · rw [ho, Arm.eq_other_of_ne hy] at hc; exact absurd rfl hc

/-- A number that joins cells of no foreign owner holds them, and all else is as before (R23, R27). -/
theorem CellTable.addAll_holds (h : t.wf) (hn : n ≤ 8) {l : List Nat} (hl : ∀ c ∈ l, t.owner c ≠ some x.other)
    (y : Arm) (m c : Nat) : (t.addAll x n l).holds y m c ↔ t.holds y m c ∨ (y = x ∧ m = n ∧ c ∈ l) := by
  obtain ⟨-, -, -, -, he⟩ := CellTable.addAll_spec x n hn l t h
  unfold CellTable.holds CellTable.owner
  rw [he c]
  by_cases hc : c ∈ l
  · rw [if_pos hc]
    simp only [CellEntry.joined, mem_holderInsert]
    by_cases hh : (t.entry c).holders = []
    · have ho : (t.entry c).owner = none := (t.owner_none_iff h c).mpr hh
      simp [hh, ho, hc, eq_comm]
    · have ho : (t.entry c).owner = some x := CellTable.owner_of_held h (hl c hc) hh
      simp only [hh, if_false, ho, Option.some.injEq, hc]
      constructor
      · rintro ⟨rfl, rfl | hm⟩
        · exact .inr ⟨rfl, rfl, trivial⟩
        · exact .inl ⟨rfl, hm⟩
      · rintro (⟨rfl, hm⟩ | ⟨rfl, rfl, -⟩)
        · exact ⟨rfl, .inr hm⟩
        · exact ⟨rfl, .inl rfl⟩
  · simp [hc]

/-- A number that leaves cells of its arm holds them no more, and all else is as before (R24, R38). -/
theorem CellTable.removeAll_holds (h : t.wf) {l : List Nat} (hl : ∀ c ∈ l, t.owner c = some x) (y : Arm) (m c : Nat) :
    (t.removeAll n l).holds y m c ↔ t.holds y m c ∧ ¬ (y = x ∧ m = n ∧ c ∈ l) := by
  obtain ⟨-, -, -, -, he⟩ := CellTable.removeAll_spec n l t h
  unfold CellTable.holds CellTable.owner
  rw [he c]
  by_cases hc : c ∈ l
  · have ho : (t.entry c).owner = some x := hl c hc
    rw [if_pos hc]
    simp only [CellEntry.left, mem_holderErase, ho, Option.some.injEq, hc, and_true]
    by_cases hr : holderErase n (t.entry c).holders = []
    · have hall : ∀ m, ¬ (m ≠ n ∧ m ∈ (t.entry c).holders) := fun m hm => by
        have := (mem_holderErase m n _).mpr hm
        simp [hr] at this
      simp only [hr, if_true]
      constructor
      · rintro ⟨h', -⟩; simp at h'
      · rintro ⟨⟨rfl, hm⟩, hno⟩; exact absurd ⟨fun e => hno ⟨rfl, e⟩, hm⟩ (hall m)
    · simp only [hr, if_false, Option.some.injEq]
      constructor
      · rintro ⟨rfl, hmn, hm⟩; exact ⟨⟨rfl, hm⟩, fun h => hmn h.2⟩
      · rintro ⟨⟨rfl, hm⟩, hno⟩; exact ⟨rfl, fun e => hno ⟨rfl, e⟩, hm⟩
  · simp [hc]

/-- Cells of a claim that are parked change their holder from `n` to the park claim (R36). -/
theorem CellTable.parkAll_holds (hn : n < 8) : ∀ (l : List Nat) (t : CellTable), t.wf → (∀ c ∈ l, t.owner c = some x) →
    (t.parkAll x n l).wf ∧ (t.parkAll x n l).nx = t.nx ∧ (t.parkAll x n l).ny = t.ny ∧
      ∀ y m c, (t.parkAll x n l).holds y m c ↔
        (t.holds y m c ∧ ¬ (y = x ∧ m = n ∧ c ∈ l)) ∨ (y = x ∧ m = parkNumber ∧ c ∈ l)
  | [], t, h, _ => ⟨h, rfl, rfl, fun y m c => by simp [CellTable.parkAll]⟩
  | d :: rest, t, h, hl => by
    have hent := t.entry_setEntry h d
    have hown : ∀ c, (t.parkCell x n d).owner c = t.owner c := fun c => by
      unfold CellTable.owner CellTable.parkCell
      rw [hent]
      split
      · next e => rw [e]; exact (hl d List.mem_cons_self).symm
      · rfl
    have hold : ∀ m c, m ∈ ((t.parkCell x n d).entry c).holders ↔
        if c = d then m = parkNumber ∨ (m ≠ n ∧ m ∈ (t.entry c).holders) else m ∈ (t.entry c).holders := fun m c => by
      unfold CellTable.parkCell
      rw [hent]
      split
      · next e => simp [e, mem_holderInsert, mem_holderErase]
      · rfl
    obtain ⟨hw, hx, hy, hh⟩ := CellTable.parkAll_holds hn rest (t.parkCell x n d) (t.parkCell_wf h x n d)
      fun c hc => (hown c).trans (hl c (List.mem_cons_of_mem _ hc))
    refine ⟨hw, hx, hy, fun y m c => ?_⟩
    rw [CellTable.parkAll, hh]
    unfold CellTable.holds
    rw [hown, hold]
    have hne : parkNumber ≠ n := by simp only [parkNumber]; omega
    by_cases hc : c = d
    · subst hc
      have ho := hl c List.mem_cons_self
      rw [if_pos rfl, ho]
      simp only [Option.some.injEq, List.mem_cons, true_or, and_true]
      constructor
      · rintro (⟨⟨rfl, rfl | ⟨hmn, hm⟩⟩, -⟩ | ⟨rfl, rfl, -⟩)
        · exact .inr ⟨rfl, rfl⟩
        · exact .inl ⟨⟨rfl, hm⟩, fun h => hmn h.2⟩
        · exact .inr ⟨rfl, rfl⟩
      · rintro (⟨⟨rfl, hm⟩, hno⟩ | ⟨rfl, rfl⟩)
        · exact .inl ⟨⟨rfl, .inr ⟨fun e => hno ⟨rfl, e⟩, hm⟩⟩, fun h => hno ⟨h.1, h.2.1⟩⟩
        · exact .inl ⟨⟨rfl, .inl rfl⟩, fun h => hne h.2.1⟩
    · simp [hc]

end

theorem CellTable.mem_parkCells_iff {t : CellTable} (h : t.wf) {x : Arm} {c : Nat} :
    c ∈ t.parkCells x ↔ t.holds x parkNumber c := t.mem_parkCells h x c

/-- The number of park cells when the park claim has not moved. -/
theorem CellTable.parkCells_length_of_same {t u : CellTable} (ht : t.wf) (hu : u.wf) {x : Arm}
    (h : ∀ c, u.holds x parkNumber c ↔ t.holds x parkNumber c) : (u.parkCells x).length = (t.parkCells x).length :=
  u.parkCells_length hu x (t.parkCells_nodup ht x) fun c => (CellTable.mem_parkCells_iff ht).trans (h c).symm

/-- The number of park cells when `l` has joined the park claim. -/
theorem CellTable.parkCells_length_of_joined {t u : CellTable} (ht : t.wf) (hu : u.wf) {x : Arm} {l : List Nat}
    (hl : l.Nodup) (hd : ∀ c ∈ l, ¬ t.holds x parkNumber c)
    (h : ∀ c, u.holds x parkNumber c ↔ t.holds x parkNumber c ∨ c ∈ l) :
    (u.parkCells x).length = (t.parkCells x).length + l.length := by
  rw [← List.length_append]
  refine u.parkCells_length hu x ?_ fun c => ?_
  · refine List.nodup_append.mpr ⟨t.parkCells_nodup ht x, hl, fun c hc d hd' e => ?_⟩
    subst e
    exact hd c hd' ((CellTable.mem_parkCells_iff ht).mp hc)
  · rw [List.mem_append, CellTable.mem_parkCells_iff ht]; exact (h c).symm

/-- The number of park cells once the cells of claim `n` have been parked. -/
theorem CellTable.parkAll_count {t : CellTable} (ht : t.wf) {x : Arm} {n : Nat} (hn : n < 8) {l : List Nat}
    (hl : l.Nodup) (hheld : ∀ c ∈ l, t.holds x n c) : ((t.parkAll x n l).parkCells x).length =
      (t.parkCells x).length + (l.filter fun c => !(t.entry c).holders.contains parkNumber).length := by
  obtain ⟨hw, -, -, hh⟩ := CellTable.parkAll_holds hn l t ht fun c hc => (hheld c hc).1
  have hne : parkNumber ≠ n := by simp only [parkNumber]; omega
  refine CellTable.parkCells_length_of_joined ht hw (hl.filter _) (fun c hc => ?_) fun c => ?_
  · simp only [List.mem_filter, Bool.not_eq_true', List.contains_eq_mem, decide_eq_false_iff_not] at hc
    exact fun hp => hc.2 hp.2
  · simp only [hh, List.mem_filter, Bool.not_eq_true', List.contains_eq_mem, decide_eq_false_iff_not, hne,
      false_and, and_false, not_false_eq_true, and_true, true_and]
    constructor
    · rintro (hc | hc)
      · exact .inl hc
      · by_cases hp : parkNumber ∈ (t.entry c).holders
        · exact .inl ⟨(hheld c hc).1, hp⟩
        · exact .inr ⟨hc, hp⟩
    · rintro (hc | ⟨hc, -⟩)
      · exact .inl hc
      · exact .inr hc

/-- The number of park cells when `l` of them have left the park claim. -/
theorem CellTable.parkCells_length_of_left {t u : CellTable} (ht : t.wf) (hu : u.wf) {x : Arm} {l : List Nat}
    (hl : l.Nodup) (hd : ∀ c ∈ l, t.holds x parkNumber c)
    (h : ∀ c, u.holds x parkNumber c ↔ t.holds x parkNumber c ∧ c ∉ l) :
    (u.parkCells x).length = (t.parkCells x).length - l.length := by
  have := CellTable.parkCells_length_of_joined hu ht hl (fun c hc hk => ((h c).mp hk).2 hc) fun c => by
    rw [h c]
    by_cases hc : c ∈ l
    · simp [hc, hd c hc]
    · simp [hc]
  omega

/-! ## Boxes within the counts -/

/-- A box of cells that the figures give lies within their counts on the two axes that number the cells (R11). -/
theorem cellBoxOf_within {f : Setup} {b : Box} {c : CellBox} (hx : 0 < f.nx) (hy : 0 < f.ny)
    (h : cellBoxOf f b = some c) : c.xhi < f.nx ∧ c.yhi < f.ny := by
  unfold cellBoxOf at h
  split at h
  · next h1 h2 h3 =>
    obtain rfl := Option.some.inj h
    exact ⟨axisCells_bound hx h1, axisCells_bound hy h2⟩
  · simp at h

/-! ## The two laws as one -/

/-- The cell table law, and with `park` the park law of both arms as well. -/
def Part.TableOk (park : Bool) (p : Part) : Prop := p.tableLaw ∧ (park = true → ∀ x, p.parkLaw x)

theorem Part.tableLaw_iff {p : Part} : p.tableLaw ↔ p.table.wf ∧ p.armA.claims.length = 8 ∧ p.armB.claims.length = 8 ∧
    ∀ (x : Arm) (n c : Nat), n < 8 →
      (p.table.holds x n c ↔ (p.claim x n).inForce = true ∧ c ∈ p.table.cellsOf (some (p.claim x n).box)) := Iff.rfl

theorem Part.tableLaw.claims_length {p : Part} (h : p.tableLaw) (x : Arm) : (p.arm x).claims.length = 8 := by
  cases x
  · exact h.2.1
  · exact h.2.2.1

/-- A claim number holds exactly the cells of its box, while its claim is in force. -/
theorem Part.tableLaw.holds_iff {p : Part} (h : p.tableLaw) {x : Arm} {n : Nat} (hn : n < 8) (c : Nat) :
    p.table.holds x n c ↔
      (p.claim x n).inForce = true ∧ c ∈ p.table.cellsOf (some (p.claim x n).box) := h.2.2.2 x n c hn

/-- The cells of a claim in force are its arm's, and hold its number. -/
theorem Part.tableLaw.holds {p : Part} (h : p.tableLaw) {x : Arm} {n : Nat} (hn : n < 8)
    (hf : (p.claim x n).inForce = true) {c : Nat} (hc : c ∈ p.table.cellsOf (some (p.claim x n).box)) :
    p.table.holds x n c := (h.holds_iff hn c).mpr ⟨hf, hc⟩

/-- A record that is FREE holds nothing. -/
theorem Part.tableLaw.not_holds {p : Part} (h : p.tableLaw) {x : Arm} {n : Nat} (hn : n < 8)
    (hf : (p.claim x n).inForce = false) (c : Nat) : ¬ p.table.holds x n c := fun hc => by
  have := ((h.holds_iff hn c).mp hc).1
  simp [hf] at this

/-- A claim number below the length is read from the list; beyond it there is a FREE record. -/
theorem getD_set_ite (l : List Claim) (n m : Nat) (c : Claim) (hn : n < l.length) :
    (l.set n c).getD m freeClaim = if m = n then c else l.getD m freeClaim := by
  by_cases h : m = n
  · subst h; simp [List.getD_eq_getElem?_getD, hn]
  · simp [List.getD_eq_getElem?_getD, List.getElem?_set_ne (Ne.symm h), h]

/-- Every claim record after one has been set. -/
theorem Part.setClaim_claim (p : Part) (h : p.tableLaw) (x y : Arm) {n : Nat} (hn : n < 8) (c : Claim) (m : Nat) :
    (p.setClaim x n c).claim y m = if y = x ∧ m = n then c else p.claim y m := by
  unfold Part.claim Part.setClaim
  by_cases hy : y = x
  · subst hy
    rw [Part.updArm_arm, getD_set_ite _ _ _ _ (by rw [h.claims_length]; exact hn)]
    simp
  · obtain rfl := Arm.eq_other_of_ne hy
    simp

/-! ## What leaves the table, the claims and the park counts alone -/

/-- x's claims and park count are those of `s`, and so are the boxes that its pending RESERVE and its hand-offs bring. -/
def ArmPart.Claims (r s : ArmPart) : Prop :=
  r.claims = s.claims ∧ r.parkCount = s.parkCount ∧
    (∀ w, r.waiting = some w → ∃ v, s.waiting = some v ∧ w.box = v.box) ∧ ∀ b ∈ r.boxes, b ∈ s.boxes

theorem ArmPart.Claims.refl (r : ArmPart) : r.Claims r := ⟨rfl, rfl, fun w h => ⟨w, h, rfl⟩, fun _ h => h⟩

/-- Blocks that touch neither the claims nor a hand-off with a box. -/
theorem ArmPart.Claims.of_eq {r s : ArmPart} (hc : r.claims = s.claims) (hp : r.parkCount = s.parkCount)
    (hw : r.waiting = s.waiting) (hb : r.boxes = s.boxes) : r.Claims s :=
  ⟨hc, hp, fun w h => ⟨w, hw ▸ h, rfl⟩, fun _ h => hb ▸ h⟩

/-- The parts of an arm that the laws of the table read: its claims, its park count, its pending RESERVE and its
hand-offs with a box. -/
def ArmPart.tableView (r : ArmPart) :
    List Claim × Nat × Option PendingReserve × List Report × List Answer × List AdmissionHalf :=
  (r.claims, r.parkCount, r.waiting, r.reports, r.answers, r.guard.unpaired)

theorem ArmPart.Claims.of_view {r s : ArmPart} (h : r.tableView = s.tableView) : r.Claims s := by
  simp only [ArmPart.tableView, Prod.mk.injEq] at h
  obtain ⟨hc, hp, hw, hr, ha, hu⟩ := h
  exact .of_eq hc hp hw (by simp [ArmPart.boxes, hr, ha, hu])

/-- The pending RESERVE is gone, or an admission's halves. -/
theorem ArmPart.Claims.of_less {r s : ArmPart} (hc : r.claims = s.claims) (hp : r.parkCount = s.parkCount)
    (hw : r.waiting = s.waiting ∨ r.waiting = none) (hr : r.reports = s.reports) (ha : r.answers = s.answers)
    (hu : r.guard.unpaired = s.guard.unpaired ∨ r.guard.unpaired = []) : r.Claims s := by
  refine ⟨hc, hp, fun w h => ?_, fun b hb => ?_⟩
  · obtain e | e := hw
    · exact ⟨w, e ▸ h, rfl⟩
    · rw [e] at h; cases h
  · unfold ArmPart.boxes at hb ⊢
    rw [hr, ha] at hb
    obtain e | e := hu <;> rw [e] at hb
    · exact hb
    · simp only [List.filterMap_nil, List.append_nil] at hb
      exact List.mem_append_left _ hb

section
variable {k : Bool} {p q : Part} {x : Arm}

/-- With the table and the claims in place the laws follow from what the boxes that remain are. -/
theorem Part.TableOk.still (h : p.TableOk k) (ht : q.table = p.table)
    (hg : q.guarding = true → p.guarding = true ∧ q.figures = p.figures)
    (hc : ∀ y, (q.arm y).claims = (p.arm y).claims) (hp : ∀ y, (q.arm y).parkCount = (p.arm y).parkCount)
    (hw : k = true → ∀ y, ∀ w ∈ (q.arm y).waiting.toList, w.box.within p.table)
    (hb : k = true → q.guarding = true → ∀ y, ∀ b ∈ (q.arm y).boxes, b.within p.table) : q.TableOk k := by
  refine ⟨Part.sameTable.law ⟨ht, hc⟩ h.1, fun hk y => ?_⟩
  have hcl : ∀ n, q.claim y n = p.claim y n := fun n => by unfold Part.claim; rw [hc]
  obtain ⟨hcount, htags, hclaims, -, hboxes⟩ := h.2 hk y
  refine ⟨by rw [hp, ht]; exact hcount, ?_, ?_, by rw [ht]; exact hw hk y, fun hgq => ?_⟩
  · simpa only [hcl] using htags
  · simpa only [hcl, ht] using hclaims
  · obtain ⟨hgp, hf⟩ := hg hgq
    obtain ⟨hx, hy, hpx, hpy, -⟩ := hboxes hgp
    rw [ht, hf]
    exact ⟨hx, hy, hpx, hpy, hb hk hgq y⟩

/-- The boxes of pending RESERVEs lie within the table. -/
theorem Part.TableOk.waiting_within (h : p.TableOk k) (hk : k = true) (y : Arm) :
    ∀ w ∈ (p.arm y).waiting.toList, w.box.within p.table := (h.2 hk y).2.2.2.1

/-- While the blocks guard, the boxes of the hand-offs lie within the table. -/
theorem Part.TableOk.boxes_within (h : p.TableOk k) (hk : k = true) (hg : p.guarding = true) (y : Arm) :
    ∀ b ∈ (p.arm y).boxes, b.within p.table := ((h.2 hk y).2.2.2.2 hg).2.2.2.2

/-- Every arm keeps its claims, and the engine does not begin to guard. -/
theorem Part.TableOk.of_claims (h : p.TableOk k) (ht : q.table = p.table)
    (hg : q.guarding = true → p.guarding = true ∧ q.figures = p.figures)
    (hc : ∀ y, (q.arm y).Claims (p.arm y)) : q.TableOk k := by
  refine h.still ht hg (fun y => (hc y).1) (fun y => (hc y).2.1) (fun hk y w hw => ?_) fun hk hgq y b hb => ?_
  · obtain ⟨v, hv, e⟩ := (hc y).2.2.1 w (by simpa using hw)
    rw [e]; exact h.waiting_within hk y v (by simp [hv])
  · exact h.boxes_within hk (hg hgq).1 y b ((hc y).2.2.2 b hb)

/-- An update of one arm that keeps its claims. -/
theorem Part.TableOk.updArm (h : p.TableOk k) {f : ArmPart → ArmPart} (hf : (f (p.arm x)).Claims (p.arm x)) :
    (p.updArm x f).TableOk k := by
  refine h.of_claims (by simp) (fun hg => ⟨by simpa using hg, by simp⟩) fun y => ?_
  rw [Part.updArm_arm_ite]
  split
  · next e => rw [e]; exact hf
  · exact .refl _

/-- An effect on one arm that keeps its claims. -/
theorem Part.TableOk.acts (h : p.TableOk k) {r : ArmPart} (hr : r.Claims (p.arm x)) (flags : Word) (ops : List MemOp) :
    (p.acts x r flags ops).TableOk k := by
  refine h.of_claims (by simp) (fun hg => ⟨by simpa using hg, by simp⟩) fun y => ?_
  rw [Part.acts_arm_ite]
  split
  · next e => rw [e]; exact hr
  · exact .refl _

end

end Sys2Proof.Machine

/-! SUPPORT. The moves of the cell table keep its law and the park law: grants, releases, parking, the park claim's
growth, trim and release, leave evaluation and re-evaluation (R23, R24, R27, R33 to R39, R54). -/

namespace Sys2Proof.Machine

/-! ## One arm's claims and the table move together -/

/-- The cell table with x's claim records and park count, as the arbiter moves them together. -/
def Part.moveTable (p : Part) (x : Arm) (t : CellTable) (claims : List Claim) (count : Nat) : Part :=
  (p.setTable t).updArm x fun r => { r with claims := claims, parkCount := count }

theorem Part.moveTable_table (p : Part) (x : Arm) (t : CellTable) (l : List Claim) (k : Nat) :
    (p.moveTable x t l k).table = t := by cases x <;> rfl

theorem Part.moveTable_arm (p : Part) (x : Arm) (t : CellTable) (l : List Claim) (k : Nat) :
    (p.moveTable x t l k).arm x = { p.arm x with claims := l, parkCount := k } := by cases x <;> rfl

theorem Part.moveTable_moveTable (p : Part) (x : Arm) (t u : CellTable) (l m : List Claim) (k j : Nat) :
    (p.moveTable x t l k).moveTable x u m j = p.moveTable x u m j := by cases x <;> rfl

/-- No two claims in force of a list of records carry one tag (R20). -/
def tagsApart (l : List Claim) : Prop :=
  ∀ m, m < 8 → ∀ n, n < 8 → m ≠ n → (l.getD m freeClaim).inForce = true → (l.getD n freeClaim).inForce = true →
    (l.getD m freeClaim).tag ≠ (l.getD n freeClaim).tag

section
variable {k : Bool} {p : Part} {x : Arm}

/-- A move keeps the laws when the table holds what the records say, and the other arm's holdings are untouched. -/
theorem Part.TableOk.moveTable (h : p.TableOk k) {t : CellTable} {l : List Claim} {count : Nat} (ht : t.wf)
    (hx : t.nx = p.table.nx) (hy : t.ny = p.table.ny) (hl : l.length = 8)
    (hother : ∀ n c, t.holds x.other n c ↔ p.table.holds x.other n c)
    (hcl : ∀ n c, n < 8 → (t.holds x n c ↔
      (l.getD n freeClaim).inForce = true ∧ c ∈ p.table.cellsOf (some (l.getD n freeClaim).box)))
    (hcount : k = true → count = (t.parkCells x).length) (htags : k = true → tagsApart l)
    (hbox : k = true → ∀ n, n < 8 → (l.getD n freeClaim).inForce = true → (l.getD n freeClaim).box.within p.table) :
    (p.moveTable x t l count).TableOk k := by
  have hcells : ∀ b, t.cellsOf (some b) = p.table.cellsOf (some b) := fun b => by
    simp only [CellTable.cellsOf, hx, hy]
  have hclaim : ∀ n, (p.moveTable x t l count).claim x n = l.getD n freeClaim := fun n => by
    simp [Part.claim, Part.moveTable]
  have hclaim' : ∀ n, (p.moveTable x t l count).claim x.other n = p.claim x.other n := fun n => by
    simp [Part.claim, Part.moveTable]
  have htable : (p.moveTable x t l count).table = t := by simp [Part.moveTable]
  have hlen : ∀ y, ((p.moveTable x t l count).arm y).claims.length = 8 := fun y => by
    unfold Part.moveTable
    rw [Part.updArm_arm_ite]
    split
    · exact hl
    · simpa using h.1.claims_length y
  refine ⟨⟨by rw [htable]; exact ht, hlen .a, hlen .b, fun y n c hn => ?_⟩, fun hk y => ?_⟩
  · show (p.moveTable x t l count).table.holds y n c ↔ _
    rw [htable, hcells]
    by_cases hyx : y = x
    · subst hyx; rw [hclaim]; exact hcl n c hn
    · obtain rfl := Arm.eq_other_of_ne hyx
      rw [hclaim', hother]; exact h.1.2.2.2 _ n c hn
  · obtain ⟨-, -, -, hwait, hguard⟩ := h.2 hk y
    have harm : ((p.moveTable x t l count).arm y).waiting = (p.arm y).waiting ∧
        ((p.moveTable x t l count).arm y).boxes = (p.arm y).boxes := by
      unfold Part.moveTable
      rw [Part.updArm_arm_ite]
      split
      · next e => rw [e]; exact ⟨by simp, by simp [ArmPart.boxes]⟩
      · simp
    have hin : ∀ b : CellBox, b.within (p.moveTable x t l count).table ↔ b.within p.table := fun b => by
      rw [htable]; unfold CellBox.within; rw [hx, hy]
    have hfig : (p.moveTable x t l count).guarding = p.guarding ∧ (p.moveTable x t l count).figures = p.figures := by
      simp [Part.moveTable]
    have hrest : (∀ w ∈ ((p.moveTable x t l count).arm y).waiting.toList,
          w.box.within (p.moveTable x t l count).table) ∧
        ((p.moveTable x t l count).guarding = true →
          (p.moveTable x t l count).table.nx = (p.moveTable x t l count).figures.nx ∧
          (p.moveTable x t l count).table.ny = (p.moveTable x t l count).figures.ny ∧
          0 < (p.moveTable x t l count).figures.nx ∧ 0 < (p.moveTable x t l count).figures.ny ∧
          ∀ b ∈ ((p.moveTable x t l count).arm y).boxes, b.within (p.moveTable x t l count).table) := by
      simp only [hin, harm, hfig]
      refine ⟨hwait, fun hg => ?_⟩
      obtain ⟨h1, h2, h3, h4, h5⟩ := hguard hg
      exact ⟨by rw [htable, hx, h1], by rw [htable, hy, h2], h3, h4, h5⟩
    by_cases hyx : y = x
    · subst hyx
      refine ⟨?_, ?_, ?_, hrest⟩
      · rw [htable]; simpa [Part.moveTable] using hcount hk
      · simpa only [hclaim, tagsApart] using htags hk
      · simpa only [hclaim, hin] using hbox hk
    · obtain rfl := Arm.eq_other_of_ne hyx
      obtain ⟨hpark, htag, hwithin, -⟩ := h.2 hk x.other
      refine ⟨?_, ?_, ?_, hrest⟩
      · rw [htable, CellTable.parkCells_length_of_same h.1.1 ht fun c => hother _ c]
        simpa [Part.moveTable] using hpark
      · simpa only [hclaim'] using htag
      · simpa only [hclaim', hin] using hwithin

/-- A move that brings no new claim: each record in force was in force with the same tag and box. -/
theorem Part.TableOk.moveTable_old (h : p.TableOk k) {t : CellTable} {l : List Claim} {count : Nat} (ht : t.wf)
    (hx : t.nx = p.table.nx) (hy : t.ny = p.table.ny) (hl : l.length = 8)
    (hother : ∀ n c, t.holds x.other n c ↔ p.table.holds x.other n c)
    (hold : ∀ n, n < 8 → (l.getD n freeClaim).inForce = true → (p.claim x n).inForce = true ∧
      (l.getD n freeClaim).tag = (p.claim x n).tag ∧ (l.getD n freeClaim).box = (p.claim x n).box)
    (hcl : ∀ n c, n < 8 → (t.holds x n c ↔ (l.getD n freeClaim).inForce = true ∧ p.table.holds x n c))
    (hcount : k = true → count = (t.parkCells x).length) : (p.moveTable x t l count).TableOk k := by
  refine h.moveTable ht hx hy hl hother (fun n c hn => ?_) hcount (fun hk m hm n hn hne hfm hfn => ?_) fun hk n hn hf => ?_
  · rw [hcl n c hn]
    refine and_congr_right fun hf => ?_
    obtain ⟨hp, -, hb⟩ := hold n hn hf
    rw [hb, h.1.holds_iff hn]
    exact and_iff_right hp
  · obtain ⟨hpm, htm, -⟩ := hold m hm hfm
    obtain ⟨hpn, htn, -⟩ := hold n hn hfn
    rw [htm, htn]
    exact (h.2 hk x).2.1 m hm n hn hne hpm hpn
  · obtain ⟨hp, -, hb⟩ := hold n hn hf
    rw [hb]
    exact (h.2 hk x).2.2.1 n hn hp

theorem Part.TableOk.markDue (h : p.TableOk k) (y : Arm) : (p.markDue y).TableOk k := by
  rw [Part.markDue_eq]; exact h.acts (.of_view (by rfl)) _ _

theorem Part.TableOk.setCause (h : p.TableOk k) (c : Cause) : (p.setCause c).TableOk k := by
  rw [p.setCause_eq_acts .a]; exact h.acts (.refl _) _ _

theorem Part.TableOk.handResult (h : p.TableOk k) (y : Arm) (slot : Nat) (v : Verdict) (f : ResultFigures) :
    (p.handResult y slot v f).TableOk k := by
  rw [Part.handResult_eq]; exact h.acts (.of_view (by rfl)) _ _

/-! ## Claims marked by leave evaluation and RELEASE (R33, R162) -/

/-- A record in force that keeps its tag and box. -/
theorem Part.TableOk.setClaim (h : p.TableOk k) {n : Nat} (hn : n < 8) {c : Claim} (hf : (p.claim x n).inForce = true)
    (hc : c.inForce = true) (ht : c.tag = (p.claim x n).tag) (hb : c.box = (p.claim x n).box) :
    (p.setClaim x n c).TableOk k := by
  have hl : n < (p.arm x).claims.length := by rw [h.1.claims_length]; exact hn
  have e : p.setClaim x n c = p.moveTable x p.table ((p.arm x).claims.set n c) (p.arm x).parkCount := by
    cases x <;> rfl
  have hg : ∀ m, ((p.arm x).claims.set n c).getD m freeClaim = if m = n then c else p.claim x m := fun m =>
    getD_set_ite _ _ _ _ hl
  rw [e]
  refine h.moveTable_old h.1.1 rfl rfl (by simpa using h.1.claims_length x) (fun _ _ => Iff.rfl) (fun m hm => ?_)
    (fun m d hm => ?_) fun hk => (h.2 hk x).1
  · rw [hg]
    split
    · next e => rw [e]; exact fun _ => ⟨hf, ht, hb⟩
    · exact fun hfm => ⟨hfm, rfl, rfl⟩
  · rw [hg]
    refine ⟨fun hd => ⟨?_, hd⟩, fun hd => hd.2⟩
    split
    · exact hc
    · exact ((h.1.holds_iff hm d).mp hd).1

/-- Every record after the restart mark (R33). -/
theorem restartCounts_getD (l : List Claim) (n : Nat) :
    (restartCounts l).getD n freeClaim =
      if (l.getD n freeClaim).inForce then { l.getD n freeClaim with outside := 0 } else l.getD n freeClaim := by
  unfold restartCounts
  by_cases hn : n < l.length
  · simp [List.getD_eq_getElem?_getD, hn]
  · simp [List.getD_eq_getElem?_getD, List.getElem?_eq_none (Nat.not_lt.mp hn), freeClaim, Claim.inForce]

theorem Part.TableOk.restart (h : p.TableOk k) :
    (p.updArm x fun a => { a with claims := restartCounts a.claims }).TableOk k := by
  have e : (p.updArm x fun a => { a with claims := restartCounts a.claims }) =
      p.moveTable x p.table (restartCounts (p.arm x).claims) (p.arm x).parkCount := by cases x <;> rfl
  have hg : ∀ n, (restartCounts (p.arm x).claims).getD n freeClaim =
      if (p.claim x n).inForce then { p.claim x n with outside := 0 } else p.claim x n := fun n =>
    restartCounts_getD _ n
  have hforce : ∀ n, ((restartCounts (p.arm x).claims).getD n freeClaim).inForce = (p.claim x n).inForce := fun n => by
    rw [hg]; split <;> rfl
  rw [e]
  refine h.moveTable_old h.1.1 rfl rfl (by simpa [restartCounts] using h.1.claims_length x) (fun _ _ => Iff.rfl)
    (fun n _ hf => ?_) (fun n c hn => ?_) fun hk => (h.2 hk x).1
  · rw [hforce] at hf
    rw [hg, if_pos hf]
    exact ⟨hf, rfl, rfl⟩
  · rw [hforce]
    exact ⟨fun hd => ⟨((h.1.holds_iff hn c).mp hd).1, hd⟩, fun hd => hd.2⟩

/-! ## Grants (R23) -/

theorem freeRecord_spec {l : List Claim} {n : Nat} (h : freeRecord l = some n) :
    n < l.length ∧ (l.getD n freeClaim).inForce = false := by
  obtain ⟨hn, hf, -⟩ := List.findIdx?_eq_some_iff_getElem.mp h
  exact ⟨hn, by simpa [List.getD_eq_getElem?_getD, hn] using hf⟩

/-- No claim in force carries a tag that is not in force. -/
theorem tag_ne_of_not_inForce {l : List Claim} {tag : Half} (h : tagInForce l tag = false) {n : Nat}
    (hf : (l.getD n freeClaim).inForce = true) : (l.getD n freeClaim).tag ≠ tag := by
  by_cases hn : n < l.length
  · simp only [tagInForce, List.any_eq_false, Bool.and_eq_true, beq_iff_eq, not_and] at h
    simp only [List.getD_eq_getElem?_getD, hn, List.getElem?_eq_getElem, Option.getD_some] at hf ⊢
    exact h _ (List.getElem_mem hn) hf
  · simp [List.getD_eq_getElem?_getD, List.getElem?_eq_none (Nat.not_lt.mp hn), freeClaim, Claim.inForce] at hf

/-- A grant into a FREE record, of a zone without foreign cells. -/
theorem Part.TableOk.fillClaim (h : p.TableOk k) {n : Nat} {c : Claim} (hn : freeRecord (p.arm x).claims = some n)
    (hfree : p.conflictCells x c.box = []) (hc : c.inForce = true)
    (htag : tagInForce (p.arm x).claims c.tag = false) (hbox : k = true → c.box.within p.table) :
    (p.fillClaim x n c).TableOk k := by
  obtain ⟨hl, hnf⟩ := freeRecord_spec hn
  have hn8 : n < 8 := by rw [← h.1.claims_length x]; exact hl
  have e : p.fillClaim x n c = (p.moveTable x (p.table.addAll x n (p.table.cellsOf (some c.box)))
      ((p.arm x).claims.set n c) (p.arm x).parkCount).markDue x := by cases x <;> rfl
  have hg : ∀ m, ((p.arm x).claims.set n c).getD m freeClaim = if m = n then c else p.claim x m := fun m =>
    getD_set_ite _ _ _ _ hl
  obtain ⟨hw, hnx, hny, -⟩ := CellTable.addAll_spec x n (by omega) (p.table.cellsOf (some c.box)) p.table h.1.1
  have hh := CellTable.addAll_holds h.1.1 (x := x) (n := n) (by omega) (l := p.table.cellsOf (some c.box))
    fun d hd ho => by
      have : d ∈ p.conflictCells x c.box := List.mem_filter.mpr ⟨hd, by simp [ho]⟩
      rw [hfree] at this; cases this
  rw [e]
  refine (h.moveTable hw hnx hny (by simpa using h.1.claims_length x) (fun m d => ?_) (fun m d hm => ?_) (fun hk => ?_)
    (fun hk => ?_) fun hk m hm hfm => ?_).markDue x
  · simp [hh]
  · rw [hh, hg]
    by_cases hmn : m = n
    · subst hmn
      simp [h.1.not_holds hm hnf, hc]
    · rw [if_neg hmn, ← h.1.holds_iff hm]
      simp [hmn]
  · rw [(h.2 hk x).1]
    refine (CellTable.parkCells_length_of_same h.1.1 hw fun d => ?_).symm
    have : parkNumber ≠ n := by simp only [parkNumber]; omega
    simp [hh, this]
  · intro m hm m' hm' hne hfm hfm'
    rw [hg] at hfm hfm' ⊢
    rw [hg]
    by_cases h1 : m = n <;> by_cases h2 : m' = n
    · exact absurd (h1.trans h2.symm) hne
    · rw [if_pos h1, if_neg h2]; rw [if_neg h2] at hfm'
      exact (tag_ne_of_not_inForce htag hfm').symm
    · rw [if_neg h1, if_pos h2]; rw [if_neg h1] at hfm
      exact tag_ne_of_not_inForce htag hfm
    · rw [if_neg h1, if_neg h2]; rw [if_neg h1] at hfm; rw [if_neg h2] at hfm'
      exact (h.2 hk x).2.1 m hm m' hm' hne hfm hfm'
  · rw [hg] at hfm ⊢
    split
    · exact hbox hk
    · next hne => rw [if_neg hne] at hfm; exact (h.2 hk x).2.2.1 m hm hfm

/-! ## Re-evaluation (R54) -/

/-- A pending RESERVE whose zone lies within the table. -/
theorem Part.TableOk.setWaiting (h : p.TableOk k) {w : Option PendingReserve}
    (hw : k = true → ∀ v, w = some v → v.box.within p.table) : (p.setWaiting x w).TableOk k := by
  rw [Part.setWaiting_eq]
  refine h.still (by simp) (fun hg => ⟨by simpa using hg, by simp⟩) (fun y => ?_) (fun y => ?_) (fun hk y v hv => ?_)
    fun hk hg y b hb => h.boxes_within hk (by simpa using hg) y b ?_
  · rw [Part.updArm_arm_ite]; split <;> simp_all
  · rw [Part.updArm_arm_ite]; split <;> simp_all
  · rw [Part.updArm_arm_ite] at hv
    split at hv
    · exact hw hk v (by simpa using hv)
    · exact h.waiting_within hk y v hv
  · rw [Part.updArm_arm_ite] at hb
    split at hb
    · next e => rw [e] at hb ⊢; exact hb
    · exact hb

theorem Part.setWaiting_conflictCells (p : Part) (x y : Arm) (w : Option PendingReserve) (b : CellBox) :
    (p.setWaiting x w).conflictCells y b = p.conflictCells y b := by
  simp [Part.conflictCells, Part.setWaiting_eq]

theorem Part.TableOk.reevaluateArm (h : p.TableOk k) (y : Arm) : (p.reevaluateArm y).TableOk k := by
  unfold Part.reevaluateArm
  split
  · exact h
  · next w hw =>
    have hbox : k = true → w.box.within p.table := fun hk => h.waiting_within hk y w (by simp [hw])
    have again : ∀ (n : Nat) (d : Option Nat),
        (p.setWaiting y (some { w with conflicts := n, firstConflict := d })).TableOk k := fun n d =>
      h.setWaiting fun hk v hv => by obtain rfl := Option.some.inj hv; exact hbox hk
    split
    · next n hc hn =>
      split
      · exact again _ _
      · next ht =>
        have hs : (p.setWaiting y none).TableOk k := h.setWaiting fun _ v hv => by cases hv
        refine (hs.fillClaim (by simpa [Part.setWaiting_eq] using hn) ?_ rfl
          (by simpa [Part.setWaiting_eq, grantedClaim] using ht)
          (by simpa [Part.setWaiting_eq, grantedClaim] using hbox)).handResult _ _ _ _
        rw [Part.setWaiting_conflictCells]; exact hc
    · exact again _ _

theorem Part.TableOk.bothArms (h : p.TableOk k) (first : Arm) {f : Part → Arm → Part}
    (hf : ∀ {q : Part}, q.TableOk k → ∀ y, (f q y).TableOk k) : (p.bothArms first f).TableOk k :=
  hf (hf h first) first.other

theorem Part.TableOk.reevaluateIf (h : p.TableOk k) (freed : Nat) : (p.reevaluateIf freed).TableOk k := by
  unfold Part.reevaluateIf
  split
  · exact h
  · exact h.bothArms _ fun hq => hq.reevaluateArm

/-! ## Release and parking (R24, R36) -/

theorem Part.TableOk.releaseClaim (h : p.TableOk k) {n : Nat} (hn : n < 8) (hf : (p.claim x n).inForce = true) :
    (p.releaseClaim x n).TableOk k := by
  have hl : n < (p.arm x).claims.length := by rw [h.1.claims_length]; exact hn
  have e : (((p.setTable (p.table.removeAll n (p.table.cellsOf (some (p.claim x n).box)))).setClaim x n
      freeClaim)) = p.moveTable x (p.table.removeAll n (p.table.cellsOf (some (p.claim x n).box)))
        ((p.arm x).claims.set n freeClaim) (p.arm x).parkCount := by cases x <;> rfl
  have hg : ∀ m, ((p.arm x).claims.set n freeClaim).getD m freeClaim = if m = n then freeClaim else p.claim x m :=
    fun m => getD_set_ite _ _ _ _ hl
  obtain ⟨hw, hnx, hny, -⟩ := CellTable.removeAll_spec n (p.table.cellsOf (some (p.claim x n).box)) p.table h.1.1
  have hh := CellTable.removeAll_holds h.1.1 (x := x) (n := n) (l := p.table.cellsOf (some (p.claim x n).box))
    fun d hd => (h.1.holds hn hf hd).1
  unfold Part.releaseClaim
  dsimp only
  rw [e]
  refine ((h.moveTable_old hw hnx hny (by simpa using h.1.claims_length x) (fun m d => ?_) (fun m hm hfm => ?_)
    (fun m d hm => ?_) fun hk => ?_).markDue x).reevaluateIf _
  · simp [hh]
  · rw [hg] at hfm ⊢
    split at hfm
    · simp [freeClaim, Claim.inForce] at hfm
    · next hne => rw [if_neg hne]; exact ⟨hfm, rfl, rfl⟩
  · rw [hh, hg]
    by_cases hmn : m = n
    · subst hmn
      rw [h.1.holds_iff hm]
      simp [freeClaim, Claim.inForce]
    · simp only [hmn, false_and, and_false, not_false_eq_true, and_true, if_false]
      exact ⟨fun hd => ⟨((h.1.holds_iff hm d).mp hd).1, hd⟩, fun hd => hd.2⟩
  · rw [(h.2 hk x).1]
    refine (CellTable.parkCells_length_of_same h.1.1 hw fun d => ?_).symm
    have : parkNumber ≠ n := by simp only [parkNumber]; omega
    simp [hh, this]

theorem Part.TableOk.parkClaim (h : p.TableOk k) {n : Nat} (hn : n < 8) : (p.parkClaim x n).TableOk k := by
  unfold Part.parkClaim
  dsimp only
  split
  · next hf =>
    have hl : n < (p.arm x).claims.length := by rw [h.1.claims_length]; exact hn
    have e : ∀ t count, ((p.setTable t).setClaim x n freeClaim).setParkCount x count =
        p.moveTable x t ((p.arm x).claims.set n freeClaim) count := fun t count => by cases x <;> rfl
    have hg : ∀ m, ((p.arm x).claims.set n freeClaim).getD m freeClaim = if m = n then freeClaim else p.claim x m :=
      fun m => getD_set_ite _ _ _ _ hl
    generalize hcs : p.table.cellsOf (some (p.claim x n).box) = cells
    have hheld : ∀ d ∈ cells, p.table.holds x n d := fun d hd => h.1.holds hn hf (hcs ▸ hd)
    obtain ⟨hw, hnx, hny, hh⟩ := CellTable.parkAll_holds hn cells p.table h.1.1 fun d hd => (hheld d hd).1
    rw [e]
    refine h.moveTable_old hw hnx hny (by simpa using h.1.claims_length x) (fun m d => ?_) (fun m hm hfm => ?_)
      (fun m d hm => ?_) fun hk => ?_
    · simp [hh]
    · rw [hg] at hfm ⊢
      split at hfm
      · simp [freeClaim, Claim.inForce] at hfm
      · next hne => rw [if_neg hne]; exact ⟨hfm, rfl, rfl⟩
    · have hpark : m ≠ parkNumber := by simp only [parkNumber]; omega
      rw [hh, hg]
      by_cases hmn : m = n
      · subst hmn
        have : p.table.holds x m d → d ∈ cells := fun hd => by
          rw [← hcs]; exact ((h.1.holds_iff hm d).mp hd).2
        simp only [hpark, true_and, false_and, and_false, or_false, if_true]
        constructor
        · rintro ⟨hd, hno⟩; exact absurd (this hd) hno
        · rintro ⟨hf', -⟩; simp [freeClaim, Claim.inForce] at hf'
      · simp only [hmn, hpark, false_and, and_false, not_false_eq_true, and_true, or_false, if_false]
        exact ⟨fun hd => ⟨((h.1.holds_iff hm d).mp hd).1, hd⟩, fun hd => hd.2⟩
    · obtain ⟨hcount, -, hwithin, -⟩ := h.2 hk x
      obtain ⟨hbx, hby⟩ := hwithin n hn hf
      have hnd : cells.Nodup := by rw [← hcs]; exact CellBox.cells_nodup _ hbx hby
      rw [hcount]
      exact (CellTable.parkAll_count h.1.1 hn hnd hheld).symm
  · exact h

theorem Part.TableOk.parkClaims (h : p.TableOk k) : (p.parkClaims x).TableOk k := by
  have hfold : ∀ (l : List Nat) (q : Part), (∀ n ∈ l, n < 8) → q.TableOk k →
      (l.foldl (fun q n => q.parkClaim x n) q).TableOk k := fun l => by
    induction l with
    | nil => exact fun _ _ hq => hq
    | cons n rest ih =>
      exact fun q hl hq => ih _ (fun m hm => hl m (List.mem_cons_of_mem _ hm)) (hq.parkClaim (hl n List.mem_cons_self))
  exact (hfold claimNumbers p (by decide) h).markDue x

/-! ## The park claim grows and shrinks (R27, R38, R39) -/

/-- The cells of a box that lies within the table, or of outside. -/
theorem CellTable.cellsOf_nodup {t : CellTable} {b : Option CellBox} (h : ∀ c, b = some c → c.within t) :
    (t.cellsOf b).Nodup := by
  cases b with
  | none => exact List.nodup_nil
  | some c => exact CellBox.cells_nodup _ (h c rfl).1 (h c rfl).2

theorem Part.TableOk.growPark (h : p.TableOk k) {cells : List Nat} (hn : k = true → cells.Nodup) :
    (p.growPark x cells).TableOk k := by
  unfold Part.growPark
  dsimp only
  split
  · exact h
  · have e : ∀ t count, (p.setTable t).setParkCount x count = p.moveTable x t (p.arm x).claims count := fun t count => by
      cases x <;> rfl
    have hfree : ∀ d ∈ p.table.freeCells cells, p.table.owner d = none := fun d hd => by
      simpa using (List.mem_filter.mp hd).2
    obtain ⟨hw, hnx, hny, -⟩ := CellTable.addAll_spec x parkNumber (by decide) (p.table.freeCells cells) p.table h.1.1
    have hh := CellTable.addAll_holds h.1.1 (x := x) (n := parkNumber) (by decide) (l := p.table.freeCells cells)
      fun d hd => by rw [hfree d hd]; simp
    rw [e]
    refine ((h.moveTable_old hw hnx hny (h.1.claims_length x) (fun m d => ?_) (fun m hm hfm => ⟨hfm, rfl, rfl⟩)
      (fun m d hm => ?_) fun hk => ?_).setCause _).markDue x
    · simp [hh]
    · have hpark : m ≠ parkNumber := by simp only [parkNumber]; omega
      rw [hh]
      simp only [hpark, false_and, and_false, or_false]
      exact ⟨fun hd => ⟨((h.1.holds_iff hm d).mp hd).1, hd⟩, fun hd => hd.2⟩
    · rw [(h.2 hk x).1]
      refine (CellTable.parkCells_length_of_joined h.1.1 hw ((hn hk).filter _) (fun d hd hp => ?_) fun d => ?_).symm
      · have := hfree d hd; rw [hp.1] at this; cases this
      · simp only [hh, true_and]; rfl

theorem Part.TableOk.unpark (h : p.TableOk k) {gone : List Nat} (hg : gone.Sublist (p.table.parkCells x)) :
    (p.unpark x gone).TableOk k := by
  unfold Part.unpark
  split
  · exact h
  · have e : ∀ t count, (p.setTable t).setParkCount x count = p.moveTable x t (p.arm x).claims count := fun t count => by
      cases x <;> rfl
    have hpark : ∀ d ∈ gone, p.table.holds x parkNumber d := fun d hd =>
      (CellTable.mem_parkCells_iff h.1.1).mp (hg.subset hd)
    obtain ⟨hw, hnx, hny, -⟩ := CellTable.removeAll_spec parkNumber gone p.table h.1.1
    have hh := CellTable.removeAll_holds h.1.1 (x := x) (n := parkNumber) (l := gone) fun d hd => (hpark d hd).1
    rw [e]
    refine (h.moveTable_old hw hnx hny (h.1.claims_length x) (fun m d => ?_) (fun m hm hfm => ⟨hfm, rfl, rfl⟩)
      (fun m d hm => ?_) fun hk => ?_).markDue x
    · simp [hh]
    · have hne : m ≠ parkNumber := by simp only [parkNumber]; omega
      rw [hh]
      simp only [hne, false_and, and_false, not_false_eq_true, and_true]
      exact ⟨fun hd => ⟨((h.1.holds_iff hm d).mp hd).1, hd⟩, fun hd => hd.2⟩
    · rw [(h.2 hk x).1]
      refine (CellTable.parkCells_length_of_left h.1.1 hw ((p.table.parkCells_nodup h.1.1 x).sublist hg) hpark
        fun d => ?_).symm
      simp [hh]

theorem Part.parkOutside_sublist (p : Part) (x : Arm) (b : Option CellBox) :
    (p.parkOutside x b).Sublist (p.table.parkCells x) := List.filter_sublist

theorem Part.TableOk.trim (h : p.TableOk k) {b : Option CellBox} (hb : k = true → ∀ c, b = some c → c.within p.table) :
    (p.trim x b).TableOk k := by
  unfold Part.trim
  dsimp only
  exact ((h.unpark (p.parkOutside_sublist x b)).growPark fun hk =>
    CellTable.cellsOf_nodup (hb hk)).reevaluateIf _

end

end Sys2Proof.Machine

/-! SUPPORT. The commands of the arms keep the cell table law and the park law: guards, reports, admissions, monitors,
stop tests and requests. -/

namespace Sys2Proof.Machine

section
variable {k : Bool} {p q : Part} (h : p.TableOk k) (x : Arm)
include h

omit h in
theorem Part.TableOk.ite {c : Prop} [Decidable c] {a b : Part} (ha : c → a.TableOk k) (hb : ¬ c → b.TableOk k) :
    (if c then a else b).TableOk k := by
  split
  · next hc => exact ha hc
  · next hc => exact hb hc

/-- What the end of a step may move is not the table's. -/
theorem Part.TableOk.of_part_view (hv : q.view = p.view) : q.TableOk k := by
  refine h.of_claims (show q.view.table = p.view.table by rw [hv]) (fun hg => ⟨?_, ?_⟩) fun y => ?_
  · rw [← hg]; exact (show p.view.guarding = q.view.guarding by rw [hv])
  · exact (show q.view.figures = p.view.figures by rw [hv])
  · have := congrArg (fun r => r.tableView) (Part.arm_view_of_view hv y)
    exact .of_view this

/-! ## Marks, reasons and escalations -/

theorem Part.TableOk.markChanged : (p.markChanged x).TableOk k := h.of_part_view (by simp [p.markChanged_view x])

theorem Part.TableOk.guardChanged : (p.guardChanged x).TableOk k := (h.setCause _).markDue x

theorem Part.TableOk.queueOp (op : MemOp) : (p.queueOp op).TableOk k := h.of_part_view rfl

theorem Part.TableOk.waitingNotice (slot : Nat) (f : ResultFigures) : (p.waitingNotice x slot f).TableOk k := by
  obtain ⟨-, e⟩ | ⟨-, e⟩ := p.waitingNotice_cases x slot f <;> rw [e]
  · exact ((h.queueOp _).queueOp _).markDue x
  · exact h

theorem Part.TableOk.addReason (r : HoldReason) : (p.addReason x r).TableOk k := by
  cases hr : (p.arm x).guard.reasons.has r with
  | true => rw [p.addReason_present x r hr]; exact h
  | false =>
    by_cases hs : (p.arm x).guard.state = .running
    · rw [p.addReason_running x r hr hs]; exact h.acts (.of_view (by rfl)) _ _
    · rw [p.addReason_staying x r hr hs]; exact h.acts (.of_view (by rfl)) _ _

theorem Part.TableOk.removeReason (r : HoldReason) : (p.removeReason x r).TableOk k := by
  cases hr : (p.arm x).guard.reasons.has r with
  | false => rw [p.removeReason_absent x r hr]; exact h
  | true =>
    by_cases hs : (p.arm x).guard.state = .held ∧ (p.arm x).guard.reasons.put false r = noReasons
    · rw [p.removeReason_last x r hr hs.1 hs.2]; exact h.acts (.of_view (by rfl)) _ _
    · rw [p.removeReason_staying x r hr hs]; exact h.acts (.of_view (by rfl)) _ _

theorem Part.TableOk.compareParkLimit : (p.compareParkLimit x).TableOk k := by
  obtain ⟨-, e⟩ | ⟨-, -, e⟩ | ⟨-, -, e⟩ := p.compareParkLimit_moves x <;> rw [e]
  · exact h
  · exact h.addReason x _
  · exact h.removeReason x _

theorem Part.TableOk.recordTest (r : TestResult) : (p.recordTest x r).TableOk k := by
  rw [Part.recordTest_eq]; exact h.acts (.of_view (by rfl)) _ _

theorem Part.TableOk.enterStopped (c : StopCause) : (p.enterStopped x c).TableOk k := by
  rw [Part.enterStopped_eq]
  refine h.acts (.of_view ?_) _ _
  unfold ArmPart.escalated
  dsimp only
  split <;> rfl

theorem Part.TableOk.leaveAdmission (c : Option StopCause) : (p.leaveAdmission x c).TableOk k := by
  rw [Part.leaveAdmission_eq]
  exact h.acts (.of_less (by rfl) (by rfl) (.inl (by rfl)) (by rfl) (by rfl) (.inr (by rfl))) _ _

theorem Part.TableOk.failAdmission (f : AdmissionFailure) : (p.failAdmission x f).TableOk k := by
  rw [Part.failAdmission_eq]
  exact h.acts (.of_less (by rfl) (by rfl) (.inl (by rfl)) (by rfl) (by rfl) (.inr (by rfl))) _ _

theorem Part.TableOk.escalate (c : StopCause) : (p.escalate x c).TableOk k := by
  obtain ⟨-, e⟩ | ⟨-, e⟩ | ⟨-, e⟩ := p.escalate_cases x c <;> rw [e]
  · exact h.enterStopped x c
  · exact h.failAdmission x _
  · exact h

theorem Part.TableOk.endWaiting (v : Verdict) : (p.endWaiting x v).TableOk k := by
  obtain ⟨w, -, e⟩ | ⟨-, e⟩ := p.endWaiting_cases x v <;> rw [e]
  · exact (h.setWaiting fun _ _ hv => by cases hv).handResult x _ _ _
  · exact h

theorem Part.TableOk.crossingCheck : p.crossingCheck.TableOk k := by
  unfold Part.crossingCheck
  split
  · exact .ite (fun _ => h.endWaiting _ _) fun _ => h
  · exact h

theorem Part.TableOk.withdraw : (p.withdraw x).TableOk k := by
  obtain ⟨j, b, flags, -, e⟩ := p.withdraw_eq x
  rw [e]
  refine h.acts ?_ _ _
  have hw : (((p.arm x).withdrawn.due j).replied b).tableView = (p.arm x).withdrawn.tableView := rfl
  simp only [ArmPart.tableView, Prod.mk.injEq] at hw
  have hv : (p.arm x).withdrawn.claims = (p.arm x).claims ∧ (p.arm x).withdrawn.parkCount = (p.arm x).parkCount ∧
      (p.arm x).withdrawn.reports = (p.arm x).reports ∧ (p.arm x).withdrawn.answers = (p.arm x).answers ∧
      (p.arm x).withdrawn.guard.unpaired = (p.arm x).guard.unpaired := by
    unfold ArmPart.withdrawn; dsimp only; split <;> exact ⟨rfl, rfl, rfl, rfl, rfl⟩
  obtain ⟨hc, hp, hr, ha, hu⟩ := hv
  exact .of_less hc hp (.inr (p.arm x).withdrawn_waiting) hr ha (.inl hu)

/-! ## Reports and leave evaluation (R26 to R35) -/

theorem Part.TableOk.classify {cells : List Nat} (hn : k = true → cells.Nodup) : (p.classify x cells).TableOk k := by
  have hg := h.growPark (x := x) hn
  unfold Part.classify
  dsimp only
  have hb : (if p.table.foreignTouch x cells then ((p.growPark x cells).addReason x .breach).setCause .breach
      else p.growPark x cells).TableOk k := .ite (fun _ => (hg.addReason x _).setCause _) fun _ => hg
  have hc := hb.compareParkLimit x
  exact .ite (fun _ => hc) fun _ => hc.crossingCheck

theorem Part.TableOk.leaveClaim (cells : Option CellBox) {n : Nat} (hn : n < 8) : (p.leaveClaim x cells n).TableOk k := by
  unfold Part.leaveClaim
  dsimp only
  refine .ite (fun hf => .ite (fun _ => ?_) fun _ => .ite (fun _ => ?_) fun _ => h) fun _ => h
  · have hs : (p.setClaim x n { p.claim x n with entered := true, outside := 0 }).TableOk k := h.setClaim hn hf hf rfl rfl
    exact .ite (fun _ => hs) fun _ => hs.markDue x
  · have hs : (p.setClaim x n { p.claim x n with outside := (p.claim x n).outside + 1 }).TableOk k :=
      h.setClaim hn hf hf rfl rfl
    refine .ite (fun _ => hs.releaseClaim hn ?_) fun _ => hs
    rw [Part.setClaim_claim p h.1 x x hn, if_pos ⟨rfl, rfl⟩]; exact hf

omit h in
theorem Part.TableOk.leaveEvaluation (h : p.TableOk k) (r : Report) : (p.leaveEvaluation x r).TableOk k := by
  have hfold : ∀ (l : List Nat) (u : Part), (∀ n ∈ l, n < 8) → u.TableOk k →
      (l.foldl (fun u n => u.leaveClaim x r.cells n) u).TableOk k := fun l => by
    induction l with
    | nil => exact fun _ _ hu => hu
    | cons n rest ih =>
      exact fun u hl hu => ih _ (fun m hm => hl m (List.mem_cons_of_mem _ hm)) (hu.leaveClaim x _ (hl n List.mem_cons_self))
  unfold Part.leaveEvaluation
  exact hfold claimNumbers _ (by decide) (.ite (fun _ => h.restart) fun _ => h)

/-- A hand-off with a box that lies within the table joins x's. -/
theorem Part.TableOk.addBoxes {f : ArmPart → ArmPart} (hc : (f (p.arm x)).claims = (p.arm x).claims)
    (hp : (f (p.arm x)).parkCount = (p.arm x).parkCount) (hw : (f (p.arm x)).waiting = (p.arm x).waiting)
    (hb : k = true → p.guarding = true → ∀ b ∈ (f (p.arm x)).boxes, b ∈ (p.arm x).boxes ∨ b.within p.table) :
    (p.updArm x f).TableOk k := by
  refine h.still (by simp) (fun hg => ⟨by simpa using hg, by simp⟩) (fun y => ?_) (fun y => ?_) (fun hk y v hv => ?_)
    fun hk hg y b hby => ?_
  · rw [Part.updArm_arm_ite]; split <;> simp_all
  · rw [Part.updArm_arm_ite]; split <;> simp_all
  · refine h.waiting_within hk y v ?_
    rw [Part.updArm_arm_ite] at hv
    split at hv
    · next e => subst e; rw [← hw]; exact hv
    · exact hv
  · have hg' : p.guarding = true := by simpa using hg
    rw [Part.updArm_arm_ite] at hby
    split at hby
    · next e => subst e; exact (hb hk hg' b hby).elim (h.boxes_within hk hg' y b) id
    · exact h.boxes_within hk hg' y b hby

/-- A report whose box, while the blocks guard, lies within the table. -/
theorem Part.TableOk.takeReport {r : Report}
    (hr : k = true → p.guarding = true → ∀ b, r.cells = some b → b.within p.table) : (p.takeReport x r).TableOk k := by
  unfold Part.takeReport
  refine .ite (fun hg => ?_) fun _ => h
  have hreach : ((p.classify x (p.table.cellsOf r.cells)).leaveEvaluation x r).TableOk k :=
    (h.classify x fun hk => CellTable.cellsOf_nodup (hr hk hg)).leaveEvaluation x r
  split
  · exact h
  · refine h.addBoxes x rfl rfl rfl fun hk _ b hb => ?_
    simp only [ArmPart.boxes, List.filterMap_append, List.mem_append, List.filterMap_cons, List.filterMap_nil] at hb ⊢
    obtain (hb | hb | hb) | hb := hb
    · exact .inl (.inl (.inl hb))
    · exact .inl (.inl (.inr hb))
    · refine .inr (hr hk hg b ?_)
      cases hc : r.cells with
      | none => simp [hc] at hb
      | some c => simp_all
    · exact .inl (.inr hb)
  · exact hreach
  · exact hreach
  · exact hreach

theorem Part.TableOk.nextReport : (p.nextReport x).TableOk k := by
  unfold Part.nextReport
  split
  · exact h
  · next r rest hrs =>
    have hpop : (p.updArm x fun a => { a with reports := rest }).TableOk k := h.updArm
      ⟨rfl, rfl, fun w hw => ⟨w, hw, rfl⟩, fun b hb => by
        simp only [ArmPart.boxes, hrs, List.mem_append] at hb ⊢
        refine hb.imp_left (Or.imp_left fun hb => ?_)
        exact List.mem_filterMap.mpr ((List.mem_filterMap.mp hb).imp fun a ha => ⟨List.mem_cons_of_mem _ ha.1, ha.2⟩)⟩
    refine hpop.takeReport x fun hk hg b hb => ?_
    have := h.boxes_within hk (by simpa using hg) x b (by simp [ArmPart.boxes, hrs, hb])
    simpa using this

/-! ## Admissions (R102, R103) -/

theorem Part.TableOk.admissionSuccess {b : Option CellBox}
    (hb : k = true → ∀ c, b = some c → c.within p.table) : (p.admissionSuccess x b).TableOk k := by
  have hq : (p.admissionReasons x b).TableOk k := by
    have hu := (h.trim (x := x) hb).updArm (x := x) (f := fun r =>
      { r with guard := { r.guard with reasons := r.guard.reasons.afterAdmission } }) (.of_view (by rfl))
    exact hu.compareParkLimit x
  rw [Part.admissionSuccess_eq]
  refine hq.acts ?_ _ _
  unfold Part.admitsArm
  dsimp only
  split <;> exact .of_less rfl rfl (.inl rfl) rfl rfl (.inr rfl)

theorem Part.TableOk.admissionStep (d : DriveState) {r : Answer}
    (hr : k = true → ∀ c, r.cells = some c → c.within p.table) : (p.admissionStep x d r).TableOk k := by
  have hu : (p.updGuard x fun g => { g with count := countAfter (p.arm x).guard.count d r }).TableOk k :=
    h.updArm (.of_view (by rfl))
  rw [Part.admissionStep_eq]
  exact .ite (fun _ => hu.admissionSuccess x (by simpa [Part.updGuard_eq] using hr)) fun _ => hu

omit h in
/-- The boxes that the unpaired halves of an admission bring. -/
theorem mem_boxes_of_unpaired {r : ArmPart} {a : Answer} (ha : AdmissionHalf.answer a ∈ r.guard.unpaired) {c : CellBox}
    (hc : a.cells = some c) : c ∈ r.boxes := by
  unfold ArmPart.boxes
  exact List.mem_append_right _ (List.mem_filterMap.mpr ⟨_, ha, hc⟩)

/-- Fewer unpaired halves. -/
theorem Part.TableOk.dropHalves {l : List AdmissionHalf} (hl : ∀ a ∈ l, a ∈ (p.arm x).guard.unpaired) :
    (p.updGuard x fun g => { g with unpaired := l }).TableOk k :=
  h.updArm ⟨rfl, rfl, fun w hw => ⟨w, hw, rfl⟩, fun b hb => by
    simp only [ArmPart.boxes, List.mem_append] at hb ⊢
    refine hb.imp_right fun hb => ?_
    exact List.mem_filterMap.mpr ((List.mem_filterMap.mp hb).imp fun a ha => ⟨hl a ha.1, ha.2⟩)⟩

/-- A half whose box, if it has one, lies within the table; the blocks guard. -/
theorem Part.TableOk.takeHalf {a : AdmissionHalf} (hg : p.guarding = true)
    (ha : k = true → ∀ r, a = .answer r → ∀ c, r.cells = some c → c.within p.table) : (p.takeHalf x a).TableOk k := by
  unfold Part.takeHalf
  dsimp only
  split
  · refine h.addBoxes x rfl rfl rfl fun hk _ b hb => ?_
    simp only [ArmPart.boxes, List.filterMap_append, List.mem_append, List.filterMap_cons, List.filterMap_nil] at hb ⊢
    obtain hb | hb | hb := hb
    · exact .inl (.inl hb)
    · exact .inl (.inr hb)
    · cases a with
      | notice n => simp at hb
      | answer r =>
        refine .inr (ha hk r rfl b ?_)
        cases hc : r.cells with
        | none => simp [hc] at hb
        | some c => simp_all
  · next half later hdrop =>
    have hsub : ∀ b ∈ half :: later, b ∈ (p.arm x).guard.unpaired := fun b hb =>
      (List.dropWhile_suffix _).subset (hdrop ▸ hb)
    have hd := h.dropHalves x fun b hb => hsub b (List.mem_cons_of_mem _ hb)
    split
    · next d r hpair =>
      refine hd.admissionStep x d fun hk c hc => ?_
      have hin : c.within p.table := by
        unfold pairedFigures at hpair
        split at hpair
        · simp only [Option.some.injEq, Prod.mk.injEq] at hpair
          obtain ⟨-, rfl⟩ := hpair
          exact h.boxes_within hk hg x c (mem_boxes_of_unpaired (hsub _ List.mem_cons_self) hc)
        · simp only [Option.some.injEq, Prod.mk.injEq] at hpair
          obtain ⟨-, rfl⟩ := hpair
          exact ha hk _ rfl c hc
        · cases hpair
        · cases hpair
      simpa [Part.updGuard_eq] using hin
    · exact hd

theorem Part.TableOk.nextAnswer : (p.nextAnswer x).TableOk k := by
  unfold Part.nextAnswer
  split
  · exact h
  · next r rest hrs =>
    have hpop : (p.updArm x fun a => { a with answers := rest }).TableOk k := h.updArm
      ⟨rfl, rfl, fun w hw => ⟨w, hw, rfl⟩, fun b hb => by
        simp only [ArmPart.boxes, hrs, List.mem_append] at hb ⊢
        refine hb.imp_left (Or.imp_right fun hb => ?_)
        exact List.mem_filterMap.mpr ((List.mem_filterMap.mp hb).imp fun a ha => ⟨List.mem_cons_of_mem _ ha.1, ha.2⟩)⟩
    unfold Part.takeAnswer
    refine .ite (fun hg => hpop.takeHalf x hg.1 fun hk a ha c hc => ?_) fun _ => hpop
    obtain rfl := AdmissionHalf.answer.inj ha
    have := h.boxes_within hk (by simpa using hg.1) x c (by simp [ArmPart.boxes, hrs, hc])
    simpa using this

/-! ## Notices, freshness and clearance (R73 to R80, R95) -/

theorem Part.TableOk.actOnNotice (n : Notice) (hg : p.guarding = true) : (p.actOnNotice x n).TableOk k := by
  unfold Part.actOnNotice
  dsimp only
  split
  · exact h
  · exact h
  · exact h.failAdmission x _
  · exact h.takeHalf x hg fun _ r hr => by cases hr
  · exact h.escalate x _
  · exact h
  · exact h.escalate x _
  · exact .ite (fun _ => h.escalate x _) fun _ => h
  · exact .ite (fun _ => (h.updArm (.of_view (by rfl))).markDue x) fun _ => h

theorem Part.TableOk.takeNotice (n : Notice) : (p.takeNotice x n).TableOk k :=
  .ite (fun hg => (h.actOnNotice x n hg).removeReason x _) fun _ => h

theorem Part.TableOk.expireStale : (p.expireStale x).TableOk k := by
  have hm : (p.updMonitor x fun m => { m with staleTimer := none, stale := true, restart := true }).TableOk k :=
    h.updArm (.of_view (by rfl))
  unfold Part.expireStale
  dsimp only
  split
  · exact hm.addReason x _
  · exact hm.addReason x _
  · exact hm.updArm (.of_view (by rfl))
  · exact hm
  · exact hm

theorem Part.TableOk.expireLoss : (p.expireLoss x).TableOk k := by
  have hm : (p.updMonitor x fun m => { m with lossTimer := none, known := false }).TableOk k :=
    h.updArm (.of_view (by rfl))
  exact (hm.markChanged x).escalate x _

theorem Part.TableOk.expirePassed : (p.expirePassed x).TableOk k := by
  have hs : (if timerDue p.now (p.arm x).monitor.staleTimer then p.expireStale x else p).TableOk k :=
    .ite (fun _ => h.expireStale x) fun _ => h
  exact .ite (fun _ => hs.expireLoss x) fun _ => hs

theorem Part.TableOk.lowerClearance (c : Nat) : (p.lowerClearance x c).TableOk k :=
  .ite (fun _ => Part.TableOk.markChanged (h.updArm (.of_view (by rfl))) x) fun _ => h

theorem Part.TableOk.uncap : (p.uncap x).TableOk k :=
  .ite (fun _ => Part.TableOk.markDue (Part.TableOk.updArm (h.updArm (.of_view (by rfl))) (.of_view (by rfl))) x)
    fun _ => h

theorem Part.TableOk.cap : (p.cap x).TableOk k :=
  ((Part.TableOk.updArm (h.updArm (.of_view (by rfl))) (.of_view (by rfl))).setCause _).markDue x

theorem Part.TableOk.evaluateClearance : (p.evaluateClearance x).TableOk k := by
  unfold Part.evaluateClearance
  split
  · next b d _ _ =>
    have hl := (h.lowerClearance x (clearance b d)).lowerClearance x.other (clearance b d)
    exact .ite (fun _ => (hl.uncap x).uncap x.other) fun _ => .ite (fun _ => hl.cap x) fun _ => hl
  · exact h

theorem Part.TableOk.settleEvaluation : (p.settleEvaluation x).TableOk k := by
  have hm : (p.updMonitor x fun m => { m with evaluationOwed := false }).TableOk k := h.updArm (.of_view (by rfl))
  exact .ite (fun _ => (hm.expirePassed x).evaluateClearance x) fun _ => h

theorem Part.TableOk.nextNotice : (p.nextNotice x).TableOk k := by
  unfold Part.nextNotice
  split
  · exact h
  · next n rest _ =>
    have hn := Part.TableOk.takeNotice (h.updArm (x := x) (f := fun a => { a with notices := rest })
      (.of_view (by rfl))) x n
    exact .ite (fun _ => hn.settleEvaluation x) fun _ => hn

/-! ## Frames (R65 to R72) -/

theorem Part.TableOk.processFrame (f : Frame) (hg : p.guarding = true) : (p.processFrame x f).TableOk k := by
  have hr : (p.recordFrame x f).TableOk k := Part.TableOk.markChanged (h.updArm (.of_view (by rfl))) x
  have ht : (p.recordFrame x f).table = p.table ∧ (p.recordFrame x f).guarding = p.guarding ∧
      ∃ b, ((p.recordFrame x f).arm x).monitor.envelope = some ⟨b, cellBoxOf p.figures b⟩ := by
    unfold Part.recordFrame
    dsimp only
    rw [Part.markChanged_eq]
    refine ⟨by simp [Part.updMonitor_eq], by simp [Part.updMonitor_eq], ?_⟩
    rw [Part.acts_arm, Part.updMonitor_eq, Part.updArm_arm]
    exact ⟨_, rfl⟩
  obtain ⟨htable, hguard, b, he⟩ := ht
  unfold Part.processFrame Part.handFrame
  refine hr.addBoxes x rfl rfl rfl fun hk _ c hc => ?_
  simp only [ArmPart.boxes, List.filterMap_append, List.mem_append, List.filterMap_cons, List.filterMap_nil] at hc ⊢
  obtain ((hc | hc) | hc) | hc := hc
  · exact .inl (.inl (.inl hc))
  · refine .inr ?_
    rw [he] at hc
    have hbox : cellBoxOf p.figures b = some c := by
      cases hcb : cellBoxOf p.figures b with
      | none => simp [hcb] at hc
      | some d => simp_all
    obtain ⟨hnx, hny, hpx, hpy, -⟩ := (h.2 hk x).2.2.2.2 hg
    rw [htable]
    unfold CellBox.within
    rw [hnx, hny]
    exact cellBoxOf_within hpx hpy hbox
  · exact .inl (.inl (.inr hc))
  · exact .inl (.inr hc)

theorem Part.TableOk.takeFrame : (p.takeFrame x).TableOk k := by
  unfold Part.takeFrame
  split
  · exact h
  · next f rest _ =>
    refine .ite (fun hg => ?_) fun _ => h
    have hl : (p.updLink x fun l => { l with fifo := rest }).TableOk k := h.updArm (.of_view (by rfl))
    exact .ite (fun _ => hl) fun _ => hl.processFrame x f (by simpa [Part.updLink_eq] using hg.1)

/-! ## Stop tests (R110 to R117) -/

theorem Part.TableOk.startTest (slot : Nat) : (p.startTest x slot).TableOk k :=
  Part.TableOk.waitingNotice (Part.TableOk.addReason (h.updArm (.of_view (by rfl))) x _) x _ _

theorem Part.TableOk.endTest (f : Figures) : (p.endTest x f).TableOk k := by
  have hr := h.recordTest x (measuredResult (p.arm x).test (p.figures.arm x) f)
  exact .ite (fun _ => (hr.escalate x _).removeReason x _) fun _ => hr.removeReason x _

theorem Part.TableOk.overrunTest : (p.overrunTest x).TableOk k :=
  ((h.recordTest x _).escalate x _).removeReason x _

theorem Part.TableOk.takeFigures (f : Figures) : (p.takeFigures x f).TableOk k := by
  unfold Part.takeFigures
  refine .ite (fun _ => ?_) fun _ => h
  have hu : (p.updTest x fun u => { u with seen := f }).TableOk k := h.updArm (.of_view (by rfl))
  dsimp only
  generalize p.updTest x (fun u => { u with seen := f }) = q at hu
  refine .ite (fun _ => ?_) fun _ => hu
  have hslow : (q.slowFrame x f).TableOk k :=
    .ite (fun _ => hu.updArm (.of_view (by rfl))) fun _ =>
      .ite (fun _ => hu.updArm (.of_view (by rfl))) fun _ => hu.endTest x f
  unfold Part.watchStop
  split
  · exact hu.endTest x f
  · exact hu.updArm (.of_view (by rfl))
  · exact hslow
  · exact hslow

theorem Part.TableOk.nextFigures : (p.nextFigures x).TableOk k := by
  unfold Part.nextFigures
  split
  · exact h
  · exact Part.TableOk.takeFigures (h.updArm (.of_view (by rfl))) x _

/-! ## Links -/

theorem Part.TableOk.updLink (f : Link → Link) : (p.updLink x f).TableOk k := h.updArm (.of_view (by rfl))

theorem Part.TableOk.discardFrame : (p.discardFrame x).TableOk k := (h.updLink x _).setCause _

theorem Part.TableOk.rxByte (b : Byte) (framing : Bool) : (p.rxByte x b framing).TableOk k := by
  unfold Part.rxByte
  dsimp only
  split
  · exact h
  · refine .ite (fun _ => h) fun _ => ?_
    exact .ite (fun _ => h.updLink x _) fun _ => .ite (fun _ => (h.setCause _).escalate x _) fun _ => h
  · refine .ite (fun _ => h.discardFrame x) fun _ => ?_
    refine .ite (fun _ => h.discardFrame x) fun _ => .ite (fun _ => ?_) fun _ => h.updLink x _
    exact .ite (fun _ => h.updLink x _) fun _ => h.discardFrame x

theorem Part.TableOk.writeHold (v : Bool) : (p.writeHold x v).TableOk k := by
  have hv : (p.updArm x fun r => { r with hold := v }).TableOk k := h.updArm (.of_view (by rfl))
  exact .ite (fun _ => h) fun _ => .ite (fun _ => hv.addReason x _) fun _ => hv.removeReason x _

/-! ## Requests (R42 to R48, R101, R105, R157 to R167) -/

/-- The zone of a RESERVE lies within the table while the blocks guard. -/
theorem Part.TableOk.zoneOf_within (hk : k = true) (hg : p.guarding = true) {f : SlotFields} {b : CellBox}
    (hz : p.zoneOf x f = some b) : b.within p.table := by
  obtain ⟨hnx, hny, hpx, hpy, -⟩ := (h.2 hk x).2.2.2.2 hg
  unfold CellBox.within
  rw [hnx, hny]
  exact cellBoxOf_within hpx hpy hz

theorem Part.TableOk.startWaiting (slot : Nat) (f : SlotFields) (mode : ClaimMode) {b : CellBox} (l : List Nat)
    (hb : k = true → b.within p.table) : (p.startWaiting x slot f mode b l).TableOk k := by
  unfold Part.startWaiting
  dsimp only
  refine ((Part.TableOk.setWaiting (h.setWaiting fun hk v hv => ?_) fun hk v hv => ?_).waitingNotice x _ _).crossingCheck
  · obtain rfl := Option.some.inj hv; exact hb hk
  · cases ho : (p.arm x.other).waiting with
    | none => simp [ho] at hv
    | some w =>
      have := h.waiting_within hk x.other w (by simp [ho])
      simp only [ho, Option.map_some, Option.some.injEq] at hv
      subst hv
      simpa [Part.setWaiting_eq] using this

theorem Part.TableOk.reserve (hg : p.guarding = true) (slot : Nat) (f : SlotFields) : (p.reserve x slot f).TableOk k := by
  have hand : ∀ v fig, (p.handResult x slot v fig).TableOk k := fun v fig => h.handResult x slot v fig
  unfold Part.reserve
  refine .ite (fun _ => hand _ _) fun _ => .ite (fun _ => hand _ _) fun _ => ?_
  split
  · exact hand _ _
  · refine .ite (fun _ => hand _ _) fun htag => ?_
    split
    · exact hand _ _
    · next b hz =>
      have hb : k = true → b.within p.table := fun hk => h.zoneOf_within x hk hg hz
      split
      · exact hand _ _
      · next n hn =>
        unfold Part.evaluateReserve
        split
        · next hfree =>
          exact (h.fillClaim hn hfree rfl (by simpa [grantedClaim] using htag) hb).handResult x _ _ _
        · exact .ite (fun _ => hand _ _) fun _ => h.startWaiting x slot f _ _ hb

theorem Part.TableOk.release (slot : Nat) (tag : Half) : (p.release x slot tag).TableOk k := by
  unfold Part.release
  split
  · exact h.handResult x _ _ _
  · next n hn =>
    obtain ⟨hl, hf, -⟩ := List.findIdx?_eq_some_iff_getElem.mp hn
    have hn8 : n < 8 := by rw [← h.1.claims_length x]; exact hl
    have hforce : (p.claim x n).inForce = true := by
      have : p.claim x n = (p.arm x).claims[n] := by simp [Part.claim, List.getD_eq_getElem?_getD, hl]
      rw [this]; simp only [Bool.and_eq_true] at hf; exact hf.1
    have hleave : (p.setClaim x n { p.claim x n with state := .leaving, outside := 0 }).TableOk k :=
      h.setClaim hn8 hforce rfl rfl rfl
    exact .ite (fun _ => h.handResult x _ _ _) fun _ =>
      .ite (fun _ => (hleave.markDue x).handResult x _ _ _) fun _ => (h.releaseClaim hn8 hforce).handResult x _ _ _

theorem Part.TableOk.readmit (slot : Nat) : (p.readmit x slot).TableOk k :=
  .ite (fun _ => Part.TableOk.waitingNotice (Part.TableOk.guardChanged
    (h.updArm (.of_less rfl rfl (.inl rfl) rfl rfl (.inr rfl))) x) x _ _) fun _ => h.handResult x _ _ _

theorem Part.TableOk.releasePark (slot : Nat) : (p.releasePark x slot).TableOk k :=
  Part.TableOk.handResult (Part.TableOk.reevaluateIf
    (Part.TableOk.compareParkLimit (h.unpark (p.parkOutside_sublist x _)) x) _) x _ _ _

theorem Part.TableOk.ackBreach (slot : Nat) : (p.ackBreach x slot).TableOk k := by
  have hand : ∀ v fig, (p.handResult x slot v fig).TableOk k := fun v fig => h.handResult x slot v fig
  unfold Part.ackBreach
  refine .ite (fun _ => hand _ _) fun _ => ?_
  split
  · exact hand _ _
  · exact .ite (fun _ => hand _ _) fun _ => (h.removeReason x _).handResult x _ _ _

theorem Part.TableOk.clearWatermarks (slot : Nat) : (p.clearWatermarks x slot).TableOk k :=
  Part.TableOk.handResult (Part.TableOk.markChanged (h.updArm (.of_view (by rfl))) x) x _ _ _

theorem Part.TableOk.dispatch (hg : p.guarding = true) (slot : Nat) (f : SlotFields) :
    (p.dispatch x slot f).TableOk k := by
  unfold Part.dispatch
  refine .ite (fun _ => h.handResult x _ _ _) fun _ => ?_
  split
  · exact h.handResult x _ _ _
  · exact h.reserve x hg slot f
  · exact h.release x slot _
  · exact h.readmit x slot
  · exact h.releasePark x slot
  · unfold Part.stopTest
    exact .ite (fun _ => h.handResult x _ _ _) fun _ => .ite (fun _ => h.handResult x _ _ _) fun _ => h.startTest x slot
  · exact h.ackBreach x slot
  · exact h.clearWatermarks x slot

theorem Part.TableOk.takeSlot (hg : p.guarding = true) (slot : Nat) (f : SlotFields) :
    (p.takeSlot x slot f).TableOk k := by
  rw [Part.takeSlot_eq]
  have ht : (p.taken x slot).TableOk k :=
    Part.TableOk.markDue (Part.TableOk.queueOp (Part.TableOk.queueOp (h.updArm (.of_view (by rfl))) _) _) x
  exact ht.dispatch x (by simpa [Part.taken, Part.updChain_eq] using hg) slot f

end

end Sys2Proof.Machine

/-! SUPPORT. Every step keeps the cell table law and the park law: the engine, the starts and ends of serving, resets
(R22, R144, R152, R172 to R176). -/

namespace Sys2Proof.Machine

/-! ## A cleared table -/

theorem clearedTable_holds (nx ny nz : Nat) (x : Arm) (n c : Nat) : ¬ (clearedTable nx ny nz).holds x n c := by
  rintro ⟨h, -⟩; cases h

theorem freeClaims_getD (n : Nat) : (freeClaims.getD n freeClaim).inForce = false := by
  rw [show freeClaims = List.replicate 8 freeClaim from rfl, List.getD_eq_getElem?_getD, List.getElem?_replicate]
  split <;> rfl

/-- An arm with no claim, no park cell and no pending RESERVE. -/
def ArmPart.Unclaimed (r : ArmPart) : Prop := r.claims = freeClaims ∧ r.parkCount = 0 ∧ r.waiting = none

/-- A cleared table and no claim meet the laws, whatever came before (R22). -/
theorem Part.TableOk.of_cleared {k : Bool} {p : Part} {nx ny nz : Nat} (ht : p.table = clearedTable nx ny nz)
    (ha : ∀ y, (p.arm y).Unclaimed)
    (hg : p.guarding = true → nx = p.figures.nx ∧ ny = p.figures.ny ∧ 0 < p.figures.nx ∧ 0 < p.figures.ny ∧
      ∀ y, (p.arm y).boxes = []) : p.TableOk k := by
  have hclaim : ∀ y n, (p.claim y n).inForce = false := fun y n => by
    unfold Part.claim; rw [(ha y).1]; exact freeClaims_getD n
  have hlen : ∀ y, (p.arm y).claims.length = 8 := fun y => by rw [(ha y).1]; rfl
  refine ⟨⟨by rw [ht]; exact ⟨rfl, fun e he => by cases he⟩, hlen .a, hlen .b, fun x n c _ => ?_⟩, fun _ x => ?_⟩
  · rw [ht, hclaim]
    exact iff_of_false (clearedTable_holds nx ny nz x n c) (by simp)
  · obtain ⟨-, hp, hw⟩ := ha x
    refine ⟨by rw [hp, ht]; rfl, fun m _ n _ _ hm => ?_, fun n _ hn => ?_, by simp [hw], fun hguard => ?_⟩
    · simp [hclaim] at hm
    · simp [hclaim] at hn
    · obtain ⟨h1, h2, h3, h4, h5⟩ := hg hguard
      refine ⟨by rw [ht]; exact h1, by rw [ht]; exact h2, h3, h4, by simp [h5]⟩

section
variable (p : Part) (x : Arm)

/-- Clearing one arm's claims is an effect on that arm. -/
theorem Part.clearClaims_eq : ∃ j, p.clearClaims x =
    p.acts x (({ p.arm x with claims := freeClaims, parkCount := 0 } : ArmPart).due j) 0 [] := by
  obtain ⟨-, e⟩ | ⟨-, -, e⟩ := p.clearClaims_cases x <;> rw [e, Part.updArm_eq_acts]
  · exact ⟨p.marksKept, by rw [Part.markDue_eq]; simp⟩
  · exact ⟨false, by simp⟩

/-- Each arm and the table once the table has been cleared. -/
theorem Part.clearTable_arm (nx ny nz : Nat) (y : Arm) :
    (∃ j, (p.clearTable nx ny nz).arm y = ({ p.arm y with claims := freeClaims, parkCount := 0 } : ArmPart).due j) ∧
      (p.clearTable nx ny nz).table = clearedTable nx ny nz ∧ (p.clearTable nx ny nz).guarding = p.guarding ∧
      (p.clearTable nx ny nz).figures = p.figures := by
  unfold Part.clearTable
  obtain ⟨i, e⟩ := (p.setTable (clearedTable nx ny nz)).clearClaims_eq .a
  rw [e]
  obtain ⟨j, e'⟩ := ((p.setTable (clearedTable nx ny nz)).acts .a
    ((({ (p.setTable (clearedTable nx ny nz)).arm .a with claims := freeClaims, parkCount := 0 } : ArmPart)).due i)
      0 []).clearClaims_eq .b
  rw [e']
  refine ⟨?_, by simp, by simp, by simp⟩
  cases y
  · exact ⟨i, rfl⟩
  · exact ⟨j, rfl⟩

/-- The arm that starts serving keeps its claims and park count; nothing waits and no hand-off is left. -/
theorem Part.startArm_arm (f : Setup) :
    ((p.startArm f x).arm x).claims = (p.arm x).claims ∧ ((p.startArm f x).arm x).parkCount = (p.arm x).parkCount ∧
      ((p.startArm f x).arm x).waiting = none ∧ ((p.startArm f x).arm x).boxes = [] ∧
      (p.startArm f x).arm x.other = p.arm x.other ∧ (p.startArm f x).table = p.table ∧
      (p.startArm f x).figures = p.figures := by
  obtain ⟨j, hx, ho, -, hs, -⟩ := p.guardOffline_arm x (p.arm x).guard.stopCause
  have ht : (p.guardOffline x (p.arm x).guard.stopCause).table = p.table := by
    obtain ⟨q, rfl, e | e | e⟩ := p.guardOffline_cases x (p.arm x).guard.stopCause <;> rw [e]
    · simp [Part.guardChanged, Part.updGuard_eq]
    · simp [Part.updGuard_eq]
    · simp [Part.updGuard_eq]
  unfold Part.startArm
  rw [Part.updArm_arm, hx]
  refine ⟨rfl, rfl, rfl, rfl, by simp [ho], by simp [ht], ?_⟩
  rw [Part.updArm_figures]
  unfold Part.figures
  rw [hs]

theorem Part.guardOffline_claims (c : StopCause) :
    (p.guardOffline x c).table = p.table ∧ ((p.guardOffline x c).arm x).Claims (p.arm x) := by
  obtain ⟨j, hx, -⟩ := p.guardOffline_arm x c
  rw [hx]
  refine ⟨?_, .of_less rfl rfl (.inl rfl) rfl rfl (.inr rfl)⟩
  obtain ⟨q, rfl, e | e | e⟩ := p.guardOffline_cases x c <;> rw [e]
  · simp [Part.guardChanged, Part.updGuard_eq]
  · simp [Part.updGuard_eq]
  · simp [Part.updGuard_eq]

end

section
variable {k : Bool} {p q : Part} (h : p.TableOk k)
include h

/-! ## Walks and status blocks -/

/-- The arms, the table, the engine's state and the figures stay. -/
theorem Part.TableOk.of_arms (ht : q.table = p.table) (he : q.engine = p.engine) (hs : q.setup = p.setup)
    (ha : ∀ y, q.arm y = p.arm y) : q.TableOk k :=
  h.of_claims ht (fun hg => ⟨by rw [← hg]; unfold Part.guarding; rw [he], by unfold Part.figures; rw [hs]⟩) fun y => by
    rw [ha]; exact .refl _

theorem Part.TableOk.updChain (x : Arm) (f : Chain → Chain) : (p.updChain x f).TableOk k := h.updArm (.of_view (by rfl))

theorem Part.TableOk.queueStatus (x : Arm) : (p.queueStatus x).TableOk k := (h.updChain x _).queueOp _

theorem Part.TableOk.tryCandidate (x : Arm) (slot : Nat) : (p.tryCandidate x slot).1.TableOk k := by
  obtain ⟨-, e⟩ | ⟨-, e⟩ := p.tryCandidate_cases x slot <;> rw [e]
  · exact h.setCause _
  · exact (h.updChain x _).queueOp _

theorem Part.TableOk.beginWalk (x : Arm) : (p.beginWalk x).1.TableOk k := by
  obtain ⟨-, e⟩ | ⟨-, -, e⟩ | ⟨slot, -, -, e⟩ := p.beginWalk_cases x <;> rw [e]
  · exact h
  · exact h.tryCandidate x _
  · exact (h.updChain x _).queueOp _

theorem Part.TableOk.prompt (x : Arm) : (p.prompt x).TableOk k := by
  obtain ⟨-, e⟩ | ⟨-, -, e⟩ | ⟨-, -, e⟩ := p.prompt_cases x <;> rw [e]
  · exact h
  · exact h.beginWalk x
  · exact h.updChain x _

theorem Part.TableOk.promptBoth (first : Arm) : (p.promptBoth first).TableOk k :=
  h.bothArms first fun hq => hq.prompt

theorem Part.TableOk.endWalk (x : Arm) : (p.endWalk x).TableOk k :=
  .ite (fun _ => (h.updChain x _).beginWalk x) fun _ => h.updChain x _

theorem Part.TableOk.takeNext (x : Arm) (next : Byte) : (p.takeNext x next).TableOk k := by
  have hc := h.tryCandidate x next.toNat
  unfold Part.takeNext
  refine .ite (fun _ => h.endWalk x) fun _ => .ite (fun _ => ?_) fun _ => (h.setCause _).endWalk x
  split
  · next e => rw [e] at hc; exact hc
  · next e => rw [e] at hc; exact hc.endWalk x

theorem Part.TableOk.takeCandidate (hg : p.guarding = true) (x : Arm) (slot : Nat) (f : SlotFields) :
    (p.takeCandidate x slot f).TableOk k :=
  .ite (fun _ => (h.setCause _).endWalk x) fun _ => .ite (fun _ => (h.takeSlot x hg slot f).endWalk x) fun _ => h.endWalk x

/-! ## Operations, faults and the end of a step -/

theorem Part.TableOk.opDone : p.opDone.TableOk k := h.of_arms rfl rfl rfl fun y => by cases y <;> rfl

theorem Part.TableOk.dropRunning : p.dropRunning.TableOk k := by
  obtain ⟨-, e⟩ | ⟨_, -, -, e⟩ | ⟨_, -, -, e⟩ := p.dropRunning_cases <;> rw [e]
  · exact h
  · exact h.of_arms rfl rfl rfl fun y => by cases y <;> rfl
  · exact h.of_arms rfl rfl rfl fun y => by cases y <;> rfl

/-- The engine does not guard afterwards. -/
theorem Part.TableOk.unguarded (ht : q.table = p.table) (hg : q.guarding = false)
    (ha : ∀ y, (q.arm y).tableView = (p.arm y).tableView) : q.TableOk k :=
  h.of_claims ht (fun hg' => by simp [hg] at hg') fun y => .of_view (ha y)

theorem Part.TableOk.closeDone : p.closeDone.TableOk k := h.unguarded rfl rfl fun y => by cases y <;> rfl

theorem Part.TableOk.faultArm (x : Arm) : (p.faultArm x).TableOk k := by
  have hu : (p.updArm x fun r => { r with chain := r.chain.closeDone, waiting := none }).TableOk k :=
    h.updArm (.of_less (by rfl) (by rfl) (.inr (by rfl)) (by rfl) (by rfl) (.inl (by rfl)))
  exact .ite (fun _ => hu.leaveAdmission x _) fun _ => hu

theorem Part.TableOk.takeFault (kind : FaultKind) : (p.takeFault kind).TableOk k := by
  obtain ⟨-, e⟩ | ⟨he, e⟩ | ⟨-, e⟩ | ⟨-, e⟩ := p.takeFault_cases kind <;> rw [e]
  · exact h.unguarded rfl rfl fun y => by cases y <;> rfl
  · have hf : ({ p with
        engine := .faulted, faultKind := kind, opQueue := [], pollTimer := none, publishTimer := none } : Part).TableOk k :=
      h.of_claims rfl (fun _ => ⟨by simp [Part.guarding, he], rfl⟩) fun y => by cases y <;> exact .refl _
    exact ((hf.setCause _).faultArm .a).faultArm .b
  · exact h.unguarded rfl rfl fun y => by cases y <;> rfl
  · exact h

theorem Part.TableOk.failRunning (kind : MemOp → FaultKind) : (p.failRunning kind).TableOk k := by
  obtain ⟨-, e⟩ | ⟨_, -, -, e⟩ | ⟨_, -, -, e⟩ := p.failRunning_cases kind <;> rw [e]
  · exact h
  · exact h.dropRunning
  · exact h.dropRunning.takeFault _

theorem Part.TableOk.startNext : p.startNext.TableOk k := by
  obtain ⟨-, e⟩ | ⟨-, -, -, e⟩ | ⟨-, -, -, e⟩ | ⟨op, rest, -, -, -, e⟩ | ⟨op, rest, -, -, -, e⟩ :=
    p.startNext_cases <;> rw [e]
  · exact h
  · exact h.closeDone
  · exact h
  · exact h.of_part_view ((Part.beginOp_view _ op).trans rfl)
  · exact Part.TableOk.takeFault (h.of_part_view (q := { p with opQueue := rest }) rfl) _

theorem Part.TableOk.settle (b : Part) : (Part.settle b p).TableOk k := by
  have hp : ((p.publish .a).publish .b).TableOk k :=
    Part.TableOk.of_part_view (h.of_part_view (p.publish_view .a)) (Part.publish_view _ .b)
  have hd := (hp.startNext.of_part_view (Part.driveStopLine_view _ .a)).of_part_view (Part.driveStopLine_view _ .b)
  exact hd.of_part_view (Part.sendMessage_view b _)

/-! ## The starts and ends of serving -/

theorem Part.TableOk.serveSet : p.serveSet.TableOk k := by
  unfold Part.serveSet
  exact .ite (fun _ => h.unguarded rfl rfl fun y => by cases y <;> rfl) fun _ => h

theorem Part.TableOk.endLoad (o : SetupOutcome) (n : Nat) : (p.endLoad o n).TableOk k :=
  h.unguarded rfl rfl fun y => by cases y <;> rfl

omit h in
/-- A valid block has cells on every axis (R170). -/
theorem Setup.counts_of_valid {f : Setup} (h : f.valid = true) : 0 < f.nx ∧ 0 < f.ny := by
  have hc := fun c hc => List.all_eq_true.mp h c hc
  have hr : ∀ n, inRange 1 32 n = true → 0 < n := fun n hn => by
    simp only [inRange, Bool.and_eq_true, decide_eq_true_eq] at hn; exact hn.1
  exact ⟨hr _ (hc (4, inRange 1 32 f.nx) (by simp [Setup.checks])),
    hr _ (hc (5, inRange 1 32 f.ny) (by simp [Setup.checks]))⟩

omit h in
/-- The start of serving clears the table with the counts of the accepted figures (R172). -/
theorem Part.TableOk.startServing (p : Part) (f : Setup) (hf : f.valid = true) (first : Arm) :
    (p.startServing f first).TableOk k := by
  have hpos := Setup.counts_of_valid hf
  rw [Part.startServing_eq]
  generalize hc : (p.opens f).clearTable f.nx f.ny f.nz = c
  have hca : ∀ y, (c.arm y).claims = freeClaims ∧ (c.arm y).parkCount = 0 ∧ c.table = clearedTable f.nx f.ny f.nz ∧
      c.figures = f := fun y => by
    obtain ⟨⟨j, e⟩, ht, -, hfig⟩ := (p.opens f).clearTable_arm f.nx f.ny f.nz y
    rw [hc] at e ht hfig
    exact ⟨by rw [e]; rfl, by rw [e]; rfl, ht, hfig.trans rfl⟩
  obtain ⟨hac, hap, haw, hab, hao, hat, haf⟩ := c.startArm_arm .a f
  obtain ⟨hbc, hbp, hbw, hbb, hbo, hbt, hbf⟩ := (c.startArm f .a).startArm_arm .b f
  generalize hs : (c.startArm f .a).startArm f .b = s at *
  have hsa : s.arm .a = (c.startArm f .a).arm .a := hbo
  have hcb : (c.startArm f .a).arm .b = c.arm .b := hao
  have hstart : s.TableOk k := by
    refine .of_cleared (by rw [hbt, hat, (hca .a).2.2.1]) (fun y => ?_) fun _ => ?_
    · cases y
      · rw [hsa]; exact ⟨hac.trans (hca .a).1, hap.trans (hca .a).2.1, haw⟩
      · rw [hcb] at hbc hbp; exact ⟨hbc.trans (hca .b).1, hbp.trans (hca .b).2.1, hbw⟩
    · rw [hbf, haf, (hca .a).2.2.2]
      refine ⟨rfl, rfl, hpos.1, hpos.2, fun y => ?_⟩
      cases y
      · rw [hsa]; exact hab
      · exact hbb
  exact (((hstart.setCause _).queueStatus .a).queueStatus .b).promptBoth first

theorem Part.TableOk.setupReadDone (data : BitVec 1024) (first : Arm) : (p.setupReadDone data first).TableOk k := by
  unfold Part.setupReadDone
  split
  · refine .ite (fun _ => .ite (fun _ => h.opDone) fun _ => ?_) fun _ => h
    unfold Part.checkSetup
    split
    · exact (h.opDone.endLoad _ _).setCause _
    · next hacc => exact .startServing _ _ (valid_of_accepted hacc) first
  · exact h

omit h in
/-- No RESERVE is pending once both arms' open requests have been withdrawn, and a table is cleared. -/
theorem Part.TableOk.teardown (p : Part) (first : Arm) : (p.teardown first).TableOk k := by
  rw [Part.teardown_eq]
  have hw : ∀ y, ((p.stopped first).arm y).waiting = none := fun y => by
    have e : (p.stopped first).arm y = (p.stops first).arm y := by cases y <;> rfl
    obtain ⟨⟨j, b, ha⟩, -⟩ := (({ p with opQueue := p.opQueue.filter MemOp.isSlotWrite, serve := false }.updChain .a
      Chain.stopWalk).updChain .b Chain.stopWalk).withdrawBoth_arm first y
    rw [e, Part.stops, ha]
    exact ArmPart.withdrawn_waiting _
  have hcg : (p.stopped first).guarding = false := rfl
  generalize p.stopped first = c at hw hcg ⊢
  obtain ⟨⟨ja, ka, ha⟩, hao, hae, -⟩ := c.closeArm_arm .a
  obtain ⟨⟨jb, kb, hb⟩, hbo, hbe, -⟩ := (c.closeArm .a).closeArm_arm .b
  generalize hd : (c.closeArm .a).closeArm .b = d at *
  have hdg : d.guarding = false := by rw [← hcg]; unfold Part.guarding; rw [hbe, hae]
  have hdw : ∀ y, (d.arm y).waiting = none := fun y => by
    cases y
    · rw [show d.arm .a = (c.closeArm .a).arm .a from hbo, ha]; exact hw .a
    · rw [hb, show (c.closeArm .a).arm .b = c.arm .b from hao]; exact hw .b
  refine (Part.TableOk.queueStatus (.of_cleared (nx := 0) (ny := 0) (nz := 0) (d.clearTable_arm 0 0 0 .a).2.1
    (fun y => ?_) fun hg => ?_) .a).queueStatus .b
  · obtain ⟨⟨j, e⟩, -⟩ := d.clearTable_arm 0 0 0 y
    rw [e]; exact ⟨rfl, rfl, hdw y⟩
  · rw [(d.clearTable_arm 0 0 0 .a).2.2.1, hdg] at hg; cases hg

theorem Part.TableOk.endFaulted (first : Arm) : (p.endFaulted first).TableOk k := by
  have hb : (p.bothArms first Part.endFaultedArm).TableOk k := h.bothArms first fun {q} hq y => by
    have hs : (if (q.arm y).guard.state.inService then q.enterStopped y .servingEnded else q).TableOk k :=
      .ite (fun _ => hq.enterStopped y _) fun _ => hq
    exact hs.updArm (.of_view (by rfl))
  exact hb.unguarded rfl rfl fun y => by cases y <;> rfl

theorem Part.TableOk.serveClear (first : Arm) : (p.serveClear first).TableOk k := by
  unfold Part.serveClear
  refine .ite (fun _ => ?_) fun _ => h
  split
  · exact h.unguarded rfl rfl fun y => by cases y <;> rfl
  · exact .teardown p first
  · exact h.endFaulted first
  · exact h
  · exact h

/-! ## Resets -/

theorem Part.TableOk.armReset (x : Arm) : (p.armReset x).TableOk k := by
  have hp := Part.TableOk.parkClaims (h.withdraw x) (x := x)
  unfold Part.armReset
  dsimp only
  refine Part.TableOk.markDue ?_ x
  have hr : ∀ alrn, (((p.withdraw x).parkClaims x).updArm x fun r =>
      { r with
        guard := { resetGuard with reasons := { noReasons with host := (p.arm x).guard.reasons.host } }
        monitor := resetMonitor
        test := resetTest alrn
        link := resetLink r.link.state }).TableOk k := fun _ =>
    hp.updArm (.of_less (by rfl) (by rfl) (.inl (by rfl)) (by rfl) (by rfl) (.inr (by rfl)))
  exact .ite (fun _ => hr _) fun _ => (hr _).setCause _

omit h in
theorem Part.TableOk.reset (q : Part) (ht : q.table = clearedTable 0 0 0) (ha : ∀ y, q.arm y = resetArm)
    (hg : q.guarding = false) : q.TableOk k :=
  .of_cleared ht (fun y => by rw [ha]; exact ⟨rfl, rfl, rfl⟩) fun hg' => by simp [hg] at hg'

omit h in
theorem Part.TableOk.partReset (p : Part) : p.partReset.TableOk k := .reset _ rfl (fun y => by cases y <;> rfl) rfl

omit h in
theorem Part.TableOk.pinReset (p : Part) : p.pinReset.TableOk k := .reset _ rfl (fun y => by cases y <;> rfl) rfl

theorem Part.TableOk.assertReset : p.assertReset.TableOk k :=
  h.dropRunning.of_claims rfl (fun hg => ⟨hg, rfl⟩) fun y => by cases y <;> exact .of_view rfl

/-! ## Commands and steps -/

theorem Part.TableOk.writeControl (v : Word) : (p.writeControl v).TableOk k := by
  have hh := (h.writeHold .a (v.getLsbD 1)).writeHold .b (v.getLsbD 2)
  have ha : (if v.getLsbD 9 then ((p.writeHold .a (v.getLsbD 1)).writeHold .b (v.getLsbD 2)).armReset .a
      else (p.writeHold .a (v.getLsbD 1)).writeHold .b (v.getLsbD 2)).TableOk k :=
    .ite (fun _ => hh.armReset .a) fun _ => hh
  have hc : (p.controlArms v).TableOk k := .ite (fun _ => ha.armReset .b) fun _ => ha
  rw [Part.writeControl_eq]
  exact .ite (fun _ => .partReset p) fun _ => .ite (fun _ => hc.serveSet) fun _ => hc.serveClear .a

theorem Part.TableOk.writeBase (which : BaseRegister) (v : Word) : (p.writeBase which v).TableOk k := by
  unfold Part.writeBase
  refine .ite (fun _ => ?_) fun _ => h
  split <;> exact h.of_arms rfl rfl rfl fun y => by cases y <;> rfl

theorem Part.TableOk.writeWindow (offset : BitVec 6) (size : Nat) (v : Word) :
    (p.writeWindow offset size v).TableOk k := by
  unfold Part.writeWindow
  refine .ite (fun _ => ?_) fun _ => h
  split
  · exact h.writeControl v
  · exact h.of_arms rfl rfl rfl fun y => by cases y <;> rfl
  · exact h.of_arms rfl rfl rfl fun y => by cases y <;> rfl
  · exact h.promptBoth .a
  · exact h.writeBase .lo v
  · exact h.writeBase .hi v
  · exact h

theorem Part.TableOk.landed (r : RunningOp) : (p.landWrite r).opDone.TableOk k :=
  h.of_arms rfl rfl rfl fun y => by cases y <;> rfl

theorem Part.TableOk.slotDone (x : Arm) : (p.slotDone x).TableOk k :=
  ((((h.setCause _).updChain x _).markDue x)).prompt x

theorem Part.TableOk.writeDone : p.writeDone.TableOk k := by
  unfold Part.writeDone
  split
  · refine .ite (fun _ => h) fun _ => ?_
    split
    · exact (h.landed _).slotDone _
    · exact h.landed _
  · exact h

theorem Part.TableOk.losePcie (c : PcieCondition) : (p.losePcie c).TableOk k := by
  unfold Part.losePcie
  refine Part.TableOk.failRunning ?_ _
  cases c <;> exact h.of_arms rfl rfl rfl fun y => by cases y <;> rfl

theorem Part.TableOk.memoryFails (f : MemoryFailure) : (p.memoryFails f).TableOk k := by
  unfold Part.memoryFails
  split
  · exact h
  · cases f
    · exact .ite (fun _ => h.failRunning _) fun _ => h
    · exact .ite (fun _ => h.failRunning _) fun _ => h
    · exact h.losePcie _
    · exact h.losePcie _

theorem Part.TableOk.publishChanged (x : Arm) : (p.publishChanged x).TableOk k :=
  .ite (fun _ => h.markDue x) fun _ => h

/-- Every command's effect keeps the laws. -/
theorem Part.TableOk.effect {f : Part → Part} (hf : Part.Effect f) : (f p).TableOk k := by
  have still : ∀ q : Part, q.table = p.table → q.engine = p.engine → q.setup = p.setup → q.armA = p.armA →
      q.armB = p.armB → q.TableOk k := fun q ht he hs ha hb => h.of_arms ht he hs fun y => by
    cases y
    · exact ha
    · exact hb
  have serving : p.engine = .serving → p.opDone.guarding = true := fun he => by
    show p.guarding = true
    simp [Part.guarding, he]
  cases hf with
  | serveSet => exact h.serveSet
  | serveClear first => exact h.serveClear first
  | writeHold x v => exact h.writeHold x v
  | partReset => exact .partReset p
  | armReset x => exact h.armReset x
  | writeCause v => exact still _ rfl rfl rfl rfl rfl
  | writeCauseMask v => exact still _ rfl rfl rfl rfl rfl
  | promptBoth first => exact h.promptBoth first
  | writeBase which v => exact h.writeBase which v
  | writeWindow offset size v => exact h.writeWindow offset size v
  | setupReadDone data first => exact h.setupReadDone data first
  | nextReadDone next =>
    show (p.nextReadDone next).TableOk k
    unfold Part.nextReadDone
    split
    · exact .ite (fun _ => h.opDone.takeNext _ _) fun _ => h.opDone
    · exact h
  | slotReadDone data =>
    show (p.slotReadDone data).TableOk k
    unfold Part.slotReadDone
    split
    · exact .ite (fun he => h.opDone.takeCandidate (serving he) _ _ _) fun _ => h.opDone
    · exact h
  | writeDone => exact h.writeDone
  | readTimedOut =>
    show p.readTimedOut.TableOk k
    unfold Part.readTimedOut
    split
    · exact .ite (fun _ => h.failRunning _) fun _ => h
    · exact h
  | memoryFails failure => exact h.memoryFails failure
  | losePcie c => exact h.losePcie c
  | pollExpires first => 
    refine .ite (fun _ => Part.TableOk.promptBoth ?_ first) fun _ => h
    exact still _ rfl rfl rfl rfl rfl
  | publishExpires =>
    refine .ite (fun _ => Part.TableOk.publishChanged (Part.TableOk.publishChanged ?_ .a) .b) fun _ => h
    exact still _ rfl rfl rfl rfl rfl
  | rxByte x b framing => exact h.rxByte x b framing
  | byteGapExpires x => exact .ite (fun _ => h.discardFrame x) fun _ => h
  | lineFree x => exact h.updLink x _
  | holdRepeats x => exact .ite (fun _ => h.updLink x _) fun _ => h
  | takeFrame x => exact h.takeFrame x
  | staleExpires x => exact .ite (fun _ => h.expireStale x) fun _ => h
  | lossExpires x => exact .ite (fun _ => h.expireLoss x) fun _ => h
  | nextReport x => exact h.nextReport x
  | nextNotice x => exact h.nextNotice x
  | nextAnswer x => exact h.nextAnswer x
  | holdAckExpires x => exact .ite (fun _ => h.escalate x _) fun _ => h
  | admitWindowExpires x => exact .ite (fun _ => h.failAdmission x _) fun _ => h
  | assertCellstop first =>
    refine .ite (fun _ => Part.TableOk.bothArms ?_ first fun hq y =>
      .ite (fun _ => hq.escalate y _) fun _ => hq) fun _ => still _ rfl rfl rfl rfl rfl
    exact still _ rfl rfl rfl rfl rfl
  | releaseCellstop => exact .ite (fun _ => still _ rfl rfl rfl rfl rfl) fun _ => still _ rfl rfl rfl rfl rfl
  | nextFigures x => exact h.nextFigures x
  | testWindowExpires x => exact .ite (fun _ => h.overrunTest x) fun _ => h
  | waitExpires x =>
    show (p.waitExpires x).TableOk k
    unfold Part.waitExpires
    split
    · exact .ite (fun _ => h.endWaiting x _) fun _ => h
    · exact h
  | writeConfiguration bm msg =>
    refine .ite (fun _ => still _ rfl rfl rfl rfl rfl) fun _ => Part.TableOk.failRunning ?_ _
    exact still _ rfl rfl rfl rfl rfl
  | pcieLink up => exact .ite (fun _ => still _ rfl rfl rfl rfl rfl) fun _ => h.losePcie _

theorem Part.TableOk.steps (hs : p.Steps q) : q.TableOk k := by
  have still : ∀ q : Part, q.table = p.table → q.engine = p.engine → q.setup = p.setup → q.armA = p.armA →
      q.armB = p.armB → q.TableOk k := fun q ht he hs ha hb => h.of_arms ht he hs fun y => by
    cases y
    · exact ha
    · exact hb
  cases hs with
  | tick =>
    unfold Part.tick
    split <;> exact still _ rfl rfl rfl rfl rfl
  | pinReset => exact .pinReset p
  | assertReset => exact h.assertReset
  | inReset _ => exact h
  | cellstopInput _ level => exact still _ rfl rfl rfl rfl rfl
  | linkInput _ up => exact still _ rfl rfl rfl rfl rfl
  | command _ hf => exact (h.effect hf).settle p

end

/-- Settles O60: the moves of the table, taken one by one, keep the table's law and with it the park law. -/
theorem stepKeepsTheTableLaw : Obligations.StepKeepsTheTableLaw := by
  unfold Obligations.StepKeepsTheTableLaw
  intro s t ht hst
  have hs := step_steps hst
  refine ⟨(Part.TableOk.steps (k := false) ⟨ht, fun h => by cases h⟩ hs).1, fun hp => ?_⟩
  exact (Part.TableOk.steps (k := true) ⟨ht, fun _ => hp⟩ hs).2 rfl

end Sys2Proof.Machine

/-! PROOFS. The step and its queue, the resets and what a part satisfies right after one (O1 to O5, O56). -/

namespace Sys2Proof.Machine

/-! ## The step (O1, O2) -/

/-- Settles O1. -/
theorem stepRunsTheFrontCommand : Obligations.StepRunsTheFrontCommand := by
  unfold Obligations.StepRunsTheFrontCommand
  intro s c rest h
  simp only [step, h]

/-- A command of a part out of reset answers the state that its effect and the end of the step leave. -/
theorem onPart_step (s : State) (f : Part → Part) (h : s.part.inReset = false) :
    onPart s (fun p => p.step f) = .next { s with part := Part.settle s.part (f s.part) } := by
  simp only [onPart, Part.step_of_out _ _ h]

theorem exec_answers (c : Instr) (s : State) : ∃ t, exec c s = .next t ∧ t.pending = s.pending := by
  cases c <;> exact ⟨_, rfl, rfl⟩

theorem mem_owe {b : Bool} {c d : Instr} : c ∈ owe b d ↔ b = true ∧ c = d := by
  unfold owe; cases b <;> simp

/-- A list of each arm's commands. -/
theorem mem_bothArms {f : Arm → List Instr} {c : Instr} : c ∈ f .a ++ f .b ↔ ∃ x, c ∈ f x := by
  rw [List.mem_append]
  exact ⟨fun h => h.elim (fun h => ⟨_, h⟩) fun h => ⟨_, h⟩, fun ⟨x, h⟩ => by cases x <;> simp [h]⟩

theorem Part.mem_idleEvents (p : Part) (c : Instr) : c ∈ p.idleEvents ↔
    (∃ x, c ∈ p.owedHandOffs x) ∨ (∃ x, c ∈ p.owedExpiries x) ∨ (∃ x, c ∈ p.owedFrame x) ∨
      c ∈ p.owedCellstop ∨ c ∈ p.owedEngine := by
  unfold Part.idleEvents
  rw [← mem_bothArms, ← mem_bothArms, ← mem_bothArms]
  simp only [List.mem_append, or_assoc]

theorem Part.frameOpen_iff (p : Part) (x : Arm) :
    p.frameOpen x = false ↔ (p.arm x).monitor.evaluationOwed = false ∧ (p.arm x).figures = [] := by
  unfold Part.frameOpen
  cases (p.arm x).figures <;> simp

/-- The commands that join the queue are those of the steps that the part owes itself. -/
theorem Part.mem_idleEvents_iff_owes (p : Part) (c : Instr) : c ∈ p.idleEvents ↔ p.owes c := by
  rw [Part.mem_idleEvents]
  simp only [Part.owedHandOffs, Part.owedExpiries, Part.owedFrame, Part.owedCellstop, Part.owedEngine, mem_owe,
    List.mem_append]
  cases c with
  | waitTimerExpiry x => cases hw : (p.arm x).waiting <;> cases p.cellstopPin <;> simp [Part.owes, hw]
  | readTimeout => cases hr : p.inProgress <;> cases p.cellstopPin <;> simp [Part.owes, hr]
  | monitorTakeFrame x =>
    cases p.cellstopPin <;> simp [Part.owes, Part.frameOpen_iff, and_assoc, and_comm]
  | _ => cases hp : p.cellstopPin <;> simp [Part.owes, hp, and_comm]

/-- Settles O2. -/
theorem everyStepAnswersANextState : Obligations.EveryStepAnswersANextState := by
  unfold Obligations.EveryStepAnswersANextState
  refine ⟨exec_answers, fun s hs => ⟨s.idle, by simp only [step, hs], ?_, ?_, fun c => Part.mem_idleEvents_iff_owes _ c⟩⟩
  · rfl
  · show (if s.part.inReset then s.pending else s.pending ++ s.part.tick.idleEvents) = _
    rw [hs, List.nil_append]; rfl

/-! ## Resets (O3 to O5) -/

/-- What giving up the operation in progress leaves of the part. -/
theorem Part.dropRunning_inputs (p : Part) :
    p.dropRunning.now = p.now ∧ p.dropRunning.busMaster = p.busMaster ∧ p.dropRunning.msgEnable = p.msgEnable ∧
      p.dropRunning.pcieUp = p.pcieUp ∧ p.dropRunning.cellstopPin = p.cellstopPin ∧
      p.dropRunning.cellstop = p.cellstop ∧ p.dropRunning.cellstopFilter = p.cellstopFilter ∧
      p.dropRunning.causeMask = p.causeMask ∧ p.dropRunning.baseLo = p.baseLo ∧ p.dropRunning.baseHi = p.baseHi ∧
      p.dropRunning.messages = p.messages ∧ p.dropRunning.inProgress = none := by
  obtain ⟨hn, e⟩ | ⟨_, _, _, e⟩ | ⟨_, _, _, e⟩ := p.dropRunning_cases <;> rw [e]
  · exact ⟨rfl, rfl, rfl, rfl, rfl, rfl, rfl, rfl, rfl, rfl, rfl, hn⟩
  · exact ⟨rfl, rfl, rfl, rfl, rfl, rfl, rfl, rfl, rfl, rfl, rfl, rfl⟩
  · exact ⟨rfl, rfl, rfl, rfl, rfl, rfl, rfl, rfl, rfl, rfl, rfl, rfl⟩

/-- Settles O3. -/
theorem pinResetReturnsEveryBlockToReset : Obligations.PinResetReturnsEveryBlockToReset := by
  unfold Obligations.PinResetReturnsEveryBlockToReset
  intro s
  obtain ⟨-, -, -, hup, hpin, -, -, -, -, -, hmsg, -⟩ := s.part.dropRunning_inputs
  refine ⟨{ s with part := s.part.pinReset }, rfl, rfl, ?_, s.part.dropRunning_cutOff⟩
  simp only [Part.pinReset, hup, hpin, hmsg, Part.dropRunning_freeUsed]

/-- The reset state owes nothing at the end of its step, whatever its inputs and memory. -/
theorem Part.settle_partReset (b p : Part) : Part.settle b p.partReset = p.partReset := by
  refine Part.settle_of_settled _ _ rfl ⟨fun _ => ⟨rfl, by simp [Part.partReset, resetPart]⟩, fun h => by
    simp [Part.partReset, resetPart] at h⟩ ⟨rfl, rfl⟩ fun _ hi => ?_
  simp [Part.interruptCondition, Part.partReset, resetPart] at hi

/-- Settles O4. -/
theorem partResetKeepsBaseMaskAndCounter : Obligations.PartResetKeepsBaseMaskAndCounter := by
  unfold Obligations.PartResetKeepsBaseMaskAndCounter
  intro s hs
  obtain ⟨hnow, hbm, hme, hup, hpin, hcs, hcf, hmask, hlo, hhi, hmsg, -⟩ := s.part.dropRunning_inputs
  refine ⟨{ s with part := s.part.partReset }, ?_, rfl, ?_, s.part.dropRunning_cutOff⟩
  · rw [show exec .partReset s = onPart s (fun p => p.step Part.partReset) from rfl, onPart_step _ _ hs,
      Part.settle_partReset]
  · simp only [Part.partReset, hnow, hbm, hme, hup, hpin, hcs, hcf, hmask, hlo, hhi, hmsg, Part.dropRunning_freeUsed]

/-- While the reset pin is asserted a command that ends a step has no effect. -/
theorem onPart_inReset (s : State) (f : Part → Part) (h : s.part.inReset = true) :
    onPart s (fun p => p.step f) = .next s := by
  simp [onPart, Part.step, h]

/-- Settles O5. -/
theorem assertedResetPinHoldsThePart : Obligations.AssertedResetPinHoldsThePart := by
  unfold Obligations.AssertedResetPinHoldsThePart
  have hnone : ∀ p : Part, p.dropRunning.inProgress = none := fun p => by
    obtain ⟨-, -, -, -, -, -, -, -, -, -, -, h⟩ := p.dropRunning_inputs; exact h
  refine ⟨fun s => ⟨{ s with part := s.part.assertReset }, rfl, rfl, rfl, hnone s.part, rfl,
    s.part.dropRunning_cutOff, fun x => ?_⟩, fun c s h hpin hres hrel hcs hup => ?_, fun s first h => ?_,
    fun s h => ?_, fun s up h => ?_⟩
  · show (s.part.assertReset.arm x).guard.stopAsserted = true ∧ (s.part.assertReset.arm x).link.onLine = none
    rw [Part.assertReset_arm]; exact ⟨rfl, rfl⟩
  · cases c with
    | pinReset => exact absurd rfl hpin
    | resetPinAsserted => exact absurd rfl hres
    | cellstopReleased => exact absurd rfl hrel
    | cellstopAsserted x => exact absurd rfl (hcs x)
    | pcieLinkUp up => exact absurd rfl (hup up)
    | _ => exact onPart_inReset s _ h
  · simp [exec, execCellstopAsserted, onPart, h]
  · simp [exec, execCellstopReleased, onPart, h]
  · simp [exec, execPcieLinkUp, onPart, h]

/-! ## The laws at reset (O56) -/

/-- Settles O56. -/
theorem lawsHoldAtReset : Obligations.LawsHoldAtReset := by
  unfold Obligations.LawsHoldAtReset
  have htable : resetPart.TableOk true := .reset _ rfl (fun y => by cases y <;> rfl) rfl
  have harm : ∀ x, State.reset.part.arm x = resetArm := fun x => by cases x <;> rfl
  refine ⟨fun x => ?_, ?_, ?_, ?_, ?_, ?_, ?_, htable.1, htable.2 rfl, rfl⟩
  · simp only [Part.guardLaw, Part.testLaw, Part.linkLaw, Part.stopLineLaw, Part.lineReleased, harm]
    simp [resetArm, resetGuard, resetTest, resetLink, resetMonitor, resetChain, GuardState.inService, noReasons,
      Part.guarding, State.reset, resetPart]
  · exact ⟨by decide, by decide, by decide, by decide, by decide, by decide, fun _ => rfl, fun r hr => by cases hr⟩
  all_goals decide

end Sys2Proof.Machine

/-! PROOFS. The register window and the inputs of the interface (O6 to O9). -/

namespace Sys2Proof.Machine

/-! ## Registers (O6) -/

theorem bitAt_getLsbD (n : Nat) (b : Bool) (i : Nat) (hn : n < 32) : (bitAt n b).getLsbD i = (i == n && b) := by
  unfold bitAt
  cases b
  · simp
  · by_cases h : i = n
    · subst h; simp [hn]
    · simp [BitVec.getLsbD_twoPow, h, Ne.symm h]

/-- A field put above what is there adds its value at its place. -/
theorem or_fieldAt_toNat {a : Word} {n v : Nat} (ha : a.toNat < 2 ^ n) (hv : 2 ^ n * v < 2 ^ 32) :
    (a ||| fieldAt n v).toNat = a.toNat + 2 ^ n * v := by
  have hpos : 0 < 2 ^ n := Nat.two_pow_pos n
  have hv' : v < 2 ^ 32 := Nat.lt_of_le_of_lt (Nat.le_mul_of_pos_left v hpos) hv
  have hfield : (fieldAt n v).toNat = 2 ^ n * v := by
    rw [fieldAt, BitVec.toNat_shiftLeft, BitVec.toNat_ofNat, Nat.mod_eq_of_lt hv', Nat.shiftLeft_eq, Nat.mul_comm,
      Nat.mod_eq_of_lt hv]
  rw [BitVec.toNat_or, hfield, Nat.or_comm, ← Nat.two_pow_add_eq_or_of_lt ha, Nat.add_comm]

theorem bitAt_eq_fieldAt (n : Nat) (b : Bool) : bitAt n b = fieldAt n b.toNat := by
  unfold bitAt fieldAt
  cases b
  · simp
  · rw [if_pos rfl, BitVec.twoPow]; rfl

theorem EngineState.code_le (e : EngineState) : e.code ≤ 4 := by cases e <;> decide
theorem GuardState.code_le (g : GuardState) : g.code ≤ 4 := by cases g <;> decide
theorem SetupOutcome.code_le (o : SetupOutcome) : o.code ≤ 3 := by cases o <;> decide
theorem FaultKind.code_le (f : FaultKind) : f.code ≤ 3 := by cases f <;> decide

/-- STATE holds its nine fields side by side (R179). -/
theorem Part.stateRegister_toNat (p : Part) (hf : p.fieldNumber < 256) : p.stateRegister.toNat =
    p.engine.code + 2 ^ 4 * p.armA.guard.state.code + 2 ^ 8 * p.armB.guard.state.code + 2 ^ 12 * p.outcome.code +
      2 ^ 16 * p.fieldNumber + 2 ^ 24 * p.faultKind.code + 2 ^ 28 * p.cellstopPin.toNat +
      2 ^ 29 * (!p.armA.guard.stopAsserted).toNat + 2 ^ 30 * (!p.armB.guard.stopAsserted).toNat := by
  have he := p.engine.code_le
  have hga := p.armA.guard.state.code_le
  have hgb := p.armB.guard.state.code_le
  have ho := p.outcome.code_le
  have hk := p.faultKind.code_le
  have hc := p.cellstopPin.toNat_le
  have hsa := (!p.armA.guard.stopAsserted).toNat_le
  have hsb := (!p.armB.guard.stopAsserted).toNat_le
  have h0 : (fieldAt 0 p.engine.code).toNat = p.engine.code := by
    simp only [fieldAt, BitVec.shiftLeft_zero, BitVec.toNat_ofNat]; omega
  unfold Part.stateRegister
  simp only [bitAt_eq_fieldAt]
  generalize p.engine.code = e at *
  generalize p.armA.guard.state.code = ga at *
  generalize p.armB.guard.state.code = gb at *
  generalize p.outcome.code = o at *
  generalize p.fieldNumber = f at *
  generalize p.faultKind.code = k at *
  generalize p.cellstopPin.toNat = c at *
  generalize (!p.armA.guard.stopAsserted).toNat = sa at *
  generalize (!p.armB.guard.stopAsserted).toNat = sb at *
  have h1 := or_fieldAt_toNat (a := fieldAt 0 e) (n := 4) (v := ga) (by omega) (by omega)
  have h2 := or_fieldAt_toNat (a := fieldAt 0 e ||| fieldAt 4 ga) (n := 8) (v := gb) (by omega) (by omega)
  have h3 := or_fieldAt_toNat (n := 12) (v := o) (by rw [h2]; omega) (by omega)
  have h4 := or_fieldAt_toNat (n := 16) (v := f) (by rw [h3]; omega) (by omega)
  have h5 := or_fieldAt_toNat (n := 24) (v := k) (by rw [h4]; omega) (by omega)
  have h6 := or_fieldAt_toNat (n := 28) (v := c) (by rw [h5]; omega) (by omega)
  have h7 := or_fieldAt_toNat (n := 29) (v := sa) (by rw [h6]; omega) (by omega)
  have h8 := or_fieldAt_toNat (n := 30) (v := sb) (by rw [h7]; omega) (by omega)
  rw [h8]
  omega

/-- Settles O6. -/
theorem registersReadTheirFields : Obligations.RegistersReadTheirFields := by
  unfold Obligations.RegistersReadTheirFields
  refine ⟨⟨by decide, by decide, by decide, by decide, by decide, by decide, by decide⟩, fun p => ?_⟩
  refine ⟨fun i => ?_, p.stateRegister_toNat, rfl, rfl, rfl, rfl⟩
  show p.controlRegister.getLsbD i = _
  unfold Part.controlRegister
  simp only [BitVec.getLsbD_or, bitAt_getLsbD _ _ _ (show 0 < 32 by decide),
    bitAt_getLsbD _ _ _ (show 1 < 32 by decide), bitAt_getLsbD _ _ _ (show 2 < 32 by decide)]

/-! ## Window writes (O7) -/

/-- With nothing owed the end of a step at most sends a message. -/
theorem Part.settle_eq_sendMessage (b p : Part) (hr : p.inReset = false) (hs : p.settledLaw) (hl : p.linesLaw) :
    Part.settle b p = Part.sendMessage b p := by
  have h := Part.settle_of_settled p p hr hs hl fun _ h => h
  unfold Part.settle at h ⊢
  generalize ((((p.publish .a).publish .b).startNext.driveStopLine .a).driveStopLine .b) = q at h ⊢
  have hq : q = p := by
    unfold Part.sendMessage at h
    split at h
    · next hsent =>
      have hi : ({ q with messages := q.messages + 1 } : Part).interruptCondition = p.interruptCondition :=
        congrArg Part.interruptCondition h
      have hi' : q.interruptCondition = p.interruptCondition := hi
      rw [hi'] at hsent
      cases hp : p.interruptCondition <;> simp [hp] at hsent
    · exact h
  rw [hq]

/-- The interrupt condition has not risen. -/
theorem Part.sendMessage_quiet (b p : Part) (h : p.interruptCondition = true → b.interruptCondition = true) :
    Part.sendMessage b p = p := by
  unfold Part.sendMessage
  split
  · next hc =>
    simp only [Bool.and_eq_true, Bool.not_eq_true'] at hc
    rw [h hc.1.2] at hc
    simp at hc
  · rfl

/-- A command that moves registers and inputs alone leaves nothing owed: at most a message is sent. -/
theorem onPart_register (s : State) {f : Part → Part} {q : Part} (h : s.part.steady) (hf : f s.part = q)
    (hs : q.settledLaw) (hl : q.linesLaw) (hr : q.inReset = s.part.inReset) :
    onPart s (fun p => p.step f) = .next { s with part := Part.sendMessage s.part q } := by
  rw [onPart_step s f h.1, hf, Part.settle_eq_sendMessage _ _ (hr.trans h.1) hs hl]

/-- Without a rise of the interrupt condition no message is sent either. -/
theorem onPart_quiet (s : State) {f : Part → Part} {q : Part} (h : s.part.steady) (hf : f s.part = q)
    (hs : q.settledLaw) (hl : q.linesLaw) (hr : q.inReset = s.part.inReset)
    (hi : q.interruptCondition = true → s.part.interruptCondition = true) :
    onPart s (fun p => p.step f) = .next { s with part := q } := by
  rw [onPart_register s h hf hs hl hr, Part.sendMessage_quiet _ _ hi]

theorem Part.interruptCondition_of_cleared (p : Part) (v : Word)
    (h : ({ p with cause := p.cause &&& ~~~v } : Part).interruptCondition = true) : p.interruptCondition = true := by
  simp only [Part.interruptCondition, bne_iff_ne, ne_eq] at h ⊢
  intro h0
  refine h ?_
  rw [BitVec.and_assoc, BitVec.and_comm (~~~v), ← BitVec.and_assoc, h0]
  exact BitVec.zero_and

/-- A write that has a well-formed REGISTER_WRITE reaches no register. -/
theorem Part.writeWindow_plain (p : Part) {offset : BitVec 6} {size : Nat} {v : Word}
    (h : (Instr.registerWrite offset size v).wellFormed = true) : p.writeWindow offset size v = p := by
  simp only [Instr.wellFormed, Bool.and_eq_true, plainWindowWrite, Bool.not_eq_true', Bool.and_eq_false_iff,
    beq_eq_false_iff_ne] at h
  unfold Part.writeWindow
  split
  · next h4 =>
    have hno := h.2.resolve_left (fun hne => hne h4)
    split <;> simp_all [registerHasWriteRow]
  · rfl

/-- Settles O7. -/
theorem windowWritesTakeTheirBits : Obligations.WindowWritesTakeTheirBits := by
  unfold Obligations.WindowWritesTakeTheirBits
  refine ⟨fun s v h => ⟨?_, ?_, fun he => ⟨?_, ?_⟩, fun he which => ?_, fun offset size hw => ?_⟩,
    fun p offset size h => ?_⟩
  · exact onPart_quiet s h rfl h.2.1 h.2.2 rfl fun hi => s.part.interruptCondition_of_cleared v hi
  · rw [show exec (.causeMaskWrite v) s = onPart s (fun p => p.step fun q => q.writeCauseMask v) from rfl,
      onPart_register s h rfl h.2.1 h.2.2 rfl]
    unfold Part.sendMessage Part.writeCauseMask Part.interruptCondition
    by_cases hm : s.part.msgEnable = true <;> by_cases h1 : s.part.cause &&& (v &&& 0x7FF) = 0 <;>
      by_cases h2 : s.part.cause &&& s.part.causeMask = 0 <;> simp_all [causeBits]
  · exact onPart_quiet s h (if_pos he) h.2.1 h.2.2 rfl id
  · exact onPart_quiet s h (if_pos he) h.2.1 h.2.2 rfl id
  · exact onPart_unchanged s _ h (by simp [Part.writeBase, he])
  · exact onPart_unchanged s _ h (s.part.writeWindow_plain hw)
  · unfold Part.readWindow
    split
    · next h4 =>
      split <;> simp_all
    · rfl

end Sys2Proof.Machine

/-! PROOFS. The inputs of the interface, the hold bits, the start of a load and the checks of a setup block (O8 to O11,
O13). -/

namespace Sys2Proof.Machine

/-! ## Inputs of the interface (O8) -/

theorem Part.failRunning_none (p : Part) (kind : MemOp → FaultKind) (h : p.inProgress = none) :
    p.failRunning kind = p := by
  simp [Part.failRunning, h]

/-- Settles O8. -/
theorem pcieInputsFollow : Obligations.PcieInputsFollow := by
  unfold Obligations.PcieInputsFollow
  refine ⟨fun s bm msg h hop => ?_, fun s up h hop => ?_⟩
  · refine onPart_quiet s h ?_ h.2.1 h.2.2 rfl id
    unfold Part.writeConfiguration
    cases bm with
    | true => rfl
    | false =>
      have hnone : s.part.inProgress = none := hop.resolve_left (by simp)
      exact Part.failRunning_none _ _ hnone
  · have hout : exec (.pcieLinkUp up) s = onPart s (fun p => p.step fun q => q.pcieLink up) := by
      simp [exec, execPcieLinkUp, onPart, h.1]
    rw [hout]
    refine onPart_quiet s h ?_ h.2.1 h.2.2 rfl id
    unfold Part.pcieLink
    cases up with
    | true => rfl
    | false =>
      have hnone : s.part.inProgress = none := hop.resolve_left (by simp)
      exact Part.failRunning_none _ _ hnone

/-! ## The end of a step after one arm's effect -/

/-- While CLOSING an operation is in progress between two steps. -/
theorem Part.settledLaw.closing {p : Part} (h : p.settledLaw) (he : p.engine = .closing) : p.inProgress.isSome = true := by
  cases hi : p.inProgress with
  | none => exact absurd he (h.1 hi).2
  | some r => rfl

/-- A due status block of a settled part waits already. -/
theorem Part.settledLaw.dueOps {p : Part} (h : p.settledLaw) (x : Arm) : p.dueOps x = [] := by
  unfold Part.dueOps
  refine if_neg fun ⟨he, hd, hq⟩ => ?_
  obtain ⟨ha, hb⟩ := h.2 he
  cases x
  · rw [Part.arm_a] at hd hq; simp [ha hd] at hq
  · rw [Part.arm_b] at hd hq; simp [hb hd] at hq

theorem append_arms_of_nil {α : Type} {f : Arm → List α} {x : Arm} (h : f x.other = []) : f .a ++ f .b = f x := by
  cases x
  · rw [show f .b = [] from h, List.append_nil]
  · rw [show f .a = [] from h, List.nil_append]

section
variable {p : Part} {x : Arm} {r : ArmPart} {flags : Word} {ops : List MemOp}

/-- Where the interface carries operations, the end of a step adds the due status block of the arm that has acted. -/
theorem Part.settle_acts (hs : p.steady) (hc : p.carries) (b : Part) :
    (Part.settle b (p.acts x r flags ops)).view = (p.withArm x r flags).view ∧
      (Part.settle b (p.acts x r flags ops)).ops = p.ops ++ ops ++
        if p.engine = .serving ∧ r.chain.publishDue = true ∧ r.chain.blockQueued = false then [.statusWrite x] else [] := by
  obtain ⟨hv, ho⟩ := Part.settle_carries b (p.acts x r flags ops) (by unfold Part.carries at hc ⊢; simpa using hc)
    fun he => .inl (by simpa using hs.2.1.closing (by simpa using he))
  have hother : (p.acts x r flags ops).dueOps x.other = [] := by
    have := hs.2.1.dueOps x.other
    unfold Part.dueOps at this ⊢
    simpa using this
  refine ⟨hv.trans (p.acts_view x r flags ops), ?_⟩
  rw [ho, List.append_assoc, append_arms_of_nil (f := (p.acts x r flags ops).dueOps) hother]
  have : (p.acts x r flags ops).ops = p.ops ++ ops := by simp [Part.ops]
  rw [this]
  unfold Part.dueOps
  simp

end

/-- A command that one arm's blocks take: the state it answers. -/
theorem onPart_acts (s : State) {f : Part → Part} {x : Arm} {r : ArmPart} {flags : Word} {ops : List MemOp}
    (hs : s.part.steady) (hc : s.part.carries) (hf : f s.part = s.part.acts x r flags ops) :
    ∃ t, onPart s (fun p => p.step f) = .next t ∧ t.pending = s.pending ∧
      t.part.view = (s.part.withArm x r flags).view ∧
      t.part.ops = s.part.ops ++ ops ++
        if s.part.engine = .serving ∧ r.chain.publishDue = true ∧ r.chain.blockQueued = false
          then [.statusWrite x] else [] := by
  obtain ⟨hv, ho⟩ := Part.settle_acts (x := x) (r := r) (flags := flags) (ops := ops) hs hc s.part
  exact ⟨_, onPart_step s f hs.1, rfl, by rw [hf]; exact hv, by rw [hf]; exact ho⟩

/-- Views of the part with an arm replaced are equal when the arm's views are. -/
theorem Part.withArm_view_congr (p : Part) (x : Arm) {r r' : ArmPart} (flags : Word) (h : r.view = r'.view) :
    (p.withArm x r flags).view = (p.withArm x r' flags).view := by
  cases x <;> simp [Part.withArm, Part.updArm, Part.view, h]

/-- The view that a command of one arm's blocks leaves, where the queue does not matter. -/
theorem onPart_acts_view (s : State) {f : Part → Part} {x : Arm} {r r' : ArmPart} {flags : Word} {ops : List MemOp}
    (hs : s.part.steady) (hc : s.part.carries) (hf : f s.part = s.part.acts x r flags ops) (hr : r.view = r'.view) :
    ∃ t, onPart s (fun p => p.step f) = .next t ∧ t.pending = s.pending ∧
      t.part.view = (s.part.withArm x r' flags).view := by
  obtain ⟨t, ht, hp, hv, -⟩ := onPart_acts s hs hc hf
  exact ⟨t, ht, hp, hv.trans (s.part.withArm_view_congr x flags hr)⟩

/-! ## The hold bits (O9) -/

section
variable (p : Part) (x : Arm)

theorem Part.writeHold_changed {v : Bool} (h : (p.arm x).hold = !v) :
    p.writeHold x v = if v = true then (p.acts x { p.arm x with hold := v } 0 []).addReason x .host
      else (p.acts x { p.arm x with hold := v } 0 []).removeReason x .host := by
  unfold Part.writeHold
  rw [if_neg (by rw [h]; cases v <;> simp), Part.updArm_eq_acts]

end

/-- Settles O9. -/
theorem holdBitAddsAndRemovesHost : Obligations.HoldBitAddsAndRemovesHost := by
  unfold Obligations.HoldBitAddsAndRemovesHost
  intro s x v hs hc
  refine ⟨fun hv => onPart_unchanged s _ hs (if_pos hv), fun hh hv hno hrun => ?_, fun hh hv hheld hre => ?_,
    fun hh hno hst => ?_⟩
  · subst hv
    refine onPart_acts_view s hs hc (r := (s.part.holdsArm { s.part.arm x with hold := true } .host).due
      s.part.marksKept) (ops := []) ?_ rfl
    rw [Part.writeHold_changed _ x (v := true) hh, if_pos rfl, Part.addReason_running _ x .host (by simpa [Reasons.has] using hno)
      (by simpa using hrun)]
    simp [Part.holdsArm]
  · subst hv
    refine onPart_acts_view s hs hc (r := (({ s.part.arm x with hold := false } : ArmPart).resumed .host).due
      s.part.marksKept) (ops := []) ?_ rfl
    rw [Part.writeHold_changed _ x (v := false) hh, if_neg (by simp), Part.removeReason_last _ x .host
      (by simp [hre, Reasons.has]) (by simpa using hheld) (by simp [hre, Reasons.put, noReasons])]
    simp
  · refine onPart_acts_view s hs hc (r := (({ s.part.arm x with hold := v } : ArmPart).withReason v .host).due
      s.part.marksKept) (ops := []) ?_ rfl
    rw [Part.writeHold_changed _ x hh]
    cases v with
    | true =>
      have hrun : (s.part.arm x).guard.state ≠ .running := by simpa using hst
      rw [if_pos rfl, Part.addReason_staying _ x .host (by simpa [Reasons.has] using hno) (by simpa using hrun)]
      simp
    | false =>
      have hst' : ¬ ((s.part.arm x).guard.state = .held ∧
          { (s.part.arm x).guard.reasons with host := false } = noReasons) := by
        simp only [Bool.false_eq_true, false_and, true_and, false_or] at hst
        exact fun h => hst.elim (fun h' => h' h.1) fun h' => h' h.2
      rw [if_neg (by simp), Part.removeReason_staying _ x .host (by simpa [Reasons.has] using hno) (by simpa [Reasons.put] using hst')]
      simp

/-! ## The start of a load (O10) -/

theorem Part.publish_of_ne_serving (p : Part) (x : Arm) (he : p.engine ≠ .serving) : p.publish x = p := by
  unfold Part.publish; simp [he]

/-- Outside SERVING the end of a step starts the next operation, drives the stop lines and may send a message. -/
theorem Part.settle_of_ne_serving (b p : Part) (he : p.engine ≠ .serving) :
    Part.settle b p = Part.sendMessage b ((p.startNext.driveStopLine .a).driveStopLine .b) := by
  unfold Part.settle
  rw [p.publish_of_ne_serving .a he, p.publish_of_ne_serving .b he]

/-- What the end of a step outside SERVING shows is what the start of the next operation shows. -/
theorem Part.settle_view_of_ne_serving (b p : Part) (he : p.engine ≠ .serving) :
    (Part.settle b p).view = p.startNext.view ∧ (Part.settle b p).ops = p.startNext.ops := by
  rw [Part.settle_of_ne_serving b p he]
  constructor
  · rw [Part.sendMessage_view, Part.driveStopLine_view, Part.driveStopLine_view]
  · rw [Part.sendMessage_ops, Part.driveStopLine_ops, Part.driveStopLine_ops]

/-- The part of a load that has just started, before its setup read starts (R169, R170). -/
def Part.loads (p : Part) : Part :=
  { p with engine := .loading, serve := true, outcome := .none, fieldNumber := 0, faultKind := .none }

theorem Part.serveSet_idle (p : Part) (he : p.engine = .idle) (hs : p.serve = false) :
    p.serveSet = p.loads.queueOp .setupRead := if_pos ⟨hs, he⟩

/-- The stop lines stay asserted where the blocks do not guard. -/
theorem Part.linesLaw_of_unguarded {p q : Part} (h : p.steady) (he : p.guarding = false) (hq : q.guarding = false)
    (ha : q.armA = p.armA) (hb : q.armB = p.armB) (hr : q.inReset = p.inReset) : q.linesLaw := by
  obtain ⟨hout, -, hla, hlb⟩ := h
  unfold Part.linesLaw Part.stopLineLaw at *
  simp only [Part.lineReleased, he, hout, hq, hr, ha, hb, Part.arm_a, Part.arm_b] at hla hlb ⊢
  exact ⟨hla, hlb⟩

theorem Part.guarding_of_engine {p : Part} {e : EngineState} (h : p.engine = e) (he : e.guards = false) :
    p.guarding = false := by
  subst h
  unfold Part.guarding
  cases hp : p.engine <;> simp_all [EngineState.guards]

/-- Settles O10. -/
theorem serveSetStartsTheLoad : Obligations.ServeSetStartsTheLoad := by
  unfold Obligations.ServeSetStartsTheLoad
  intro s h
  refine ⟨fun he hs hn hup => ?_, fun he hs hi => ?_, fun he hs hn hup => ?_, fun hno => ?_⟩
  · have hq : s.part.opQueue = [] := (h.2.1.1 hn).1
    rw [show exec .serveSet s = onPart s (fun p => p.step Part.serveSet) from rfl, onPart_step s _ h.1,
      Part.serveSet_idle _ he hs, Part.settle_of_ne_serving _ _ (by simp [Part.loads])]
    have hstart : (s.part.loads.queueOp .setupRead).startNext = { s.part.loads with
        inProgress := some ⟨.setupRead, s.part.base, [], some (s.part.now + 50000), false⟩ } := by
      have hb : s.part.busMaster = true ∧ s.part.pcieUp = true := hup
      simp [Part.startNext, Part.queueOp, Part.loads, hn, hq, hb, Part.beginOp, Part.raiseEdition, Part.areaAddr,
        MemOp.offset, Part.base, Part.opBytes, MemOp.isRead, Part.afterMs, timerAt, readLimitMs]
    rw [hstart]
    have hlines : ∀ o, ({ s.part.loads with inProgress := o } : Part).linesLaw := fun o =>
      Part.linesLaw_of_unguarded h (Part.guarding_of_engine he rfl) rfl rfl rfl rfl
    have hline : ∀ o y, ({ s.part.loads with inProgress := o } : Part).driveStopLine y =
        { s.part.loads with inProgress := o } := fun o y => by
      have hy := hlines o
      refine Part.driveStopLine_of_law _ y ?_
      cases y
      · simpa [Part.stopLineLaw, Part.loads, h.1] using hy.1
      · simpa [Part.stopLineLaw, Part.loads, h.1] using hy.2
    rw [hline, hline, Part.sendMessage_quiet]
    · rfl
    · exact id
  · refine onPart_quiet s h (Part.serveSet_idle _ he hs) ⟨fun hn => ?_, fun hse => by cases hse⟩
      (Part.linesLaw_of_unguarded h (Part.guarding_of_engine he rfl) rfl rfl rfl rfl) rfl id
    have hn' : s.part.inProgress = none := hn
    simp [hn'] at hi
  · have hq : s.part.opQueue = [] := (h.2.1.1 hn).1
    have hstart : (s.part.loads.queueOp .setupRead).startNext = s.part.loads.takeFault .readError := by
      have hb : ¬ (s.part.busMaster && s.part.pcieUp) = true := by simpa [Part.busUp] using hup
      rw [Part.startNext]
      simp only [Part.queueOp, Part.loads, hn, hq, hb, List.nil_append]
      rfl
    obtain ⟨hv, ho⟩ := Part.settle_view_of_ne_serving s.part (s.part.loads.queueOp .setupRead) (by simp [Part.loads])
    have hops : (s.part.loads.takeFault .readError).ops = [] := by
      simp [Part.ops, Part.takeFault, Part.loads, Part.endLoad, Part.setCause, hn]
    refine ⟨_, onPart_step s Part.serveSet h.1, rfl, ?_, ?_⟩
    · rw [Part.serveSet_idle _ he hs, ho, hstart]; exact hops
    · rw [Part.serveSet_idle _ he hs, hv, hstart]
      simp [Part.view, Part.takeFault, Part.loads, Part.endLoad, Part.setCause, he, hs, causeBit]
  · refine onPart_unchanged s _ h ?_
    unfold Part.serveSet
    refine if_neg fun ⟨hs, he⟩ => ?_
    rcases hno with hno | hno
    · exact hno he
    · rw [hs] at hno; cases hno

/-! ## The checks of a setup block (O11) -/

theorem inRange_iff (lo hi v : Nat) : inRange lo hi v = true ↔ lo ≤ v ∧ v ≤ hi := by
  simp [inRange]

theorem halfAt_toNat_lt {w : Nat} (d : BitVec w) (o : Nat) : (halfAt d o).toNat < 65536 := (halfAt d o).isLt

theorem byteAt_toNat_lt {w : Nat} (d : BitVec w) (o : Nat) : (byteAt d o).toNat < 256 := (byteAt d o).isLt

theorem halfAt_toInt {w : Nat} (d : BitVec w) (o : Nat) :
    -32768 ≤ (halfAt d o).toInt ∧ (halfAt d o).toInt ≤ 32767 := by
  have h := (halfAt d o).isLt
  rw [BitVec.toInt]
  constructor <;> split <;> omega

/-- The figures whose range is that of their field pass whatever the block says. -/
theorem readSetup_fields (data : BitVec 1024) :
    let f := readSetup data
    (-32768 ≤ f.ox ∧ f.ox ≤ 32767 ∧ -32768 ≤ f.oy ∧ f.oy ≤ 32767 ∧ -32768 ≤ f.oz ∧ f.oz ≤ 32767) ∧
      f.parkLimit ≤ 255 ∧ f.armA.pad ≤ 255 ∧ f.armB.pad ≤ 255 := by
  obtain ⟨hx, hx'⟩ := halfAt_toInt data 0x02
  obtain ⟨hy, hy'⟩ := halfAt_toInt data 0x04
  obtain ⟨hz, hz'⟩ := halfAt_toInt data 0x06
  exact ⟨⟨hx, hx', hy, hy', hz, hz'⟩, Nat.le_of_lt_succ (byteAt_toNat_lt data _),
    Nat.le_of_lt_succ (byteAt_toNat_lt data _), Nat.le_of_lt_succ (byteAt_toNat_lt data _)⟩

theorem firstFailing_eq_none_iff (l : List (Nat × Bool)) : firstFailing l = none ↔ ∀ c ∈ l, c.2 = true := by
  simp [firstFailing]

/-- A refusing field is a check that fails, and every check before it passes. -/
theorem firstFailing_eq_some {l : List (Nat × Bool)} {k : Nat} (h : firstFailing l = some k) :
    ∃ l₁ l₂, l = l₁ ++ (k, false) :: l₂ ∧ ∀ c ∈ l₁, c.2 = true := by
  unfold firstFailing at h
  obtain ⟨⟨i, b⟩, hf, rfl⟩ := Option.map_eq_some_iff.mp h
  obtain ⟨hb, l₁, l₂, e, hall⟩ := List.find?_eq_some_iff_append.mp hf
  obtain rfl : b = false := by simpa using hb
  exact ⟨l₁, l₂, e, by simpa using hall⟩

/-- The checks stand in field order, from 2 to 34. -/
theorem Setup.checks_numbers (f : Setup) : f.checks.map Prod.fst = List.range' 2 33 := rfl

/-- Settles O11. -/
theorem setupChecksInFieldOrder : Obligations.SetupChecksInFieldOrder := by
  unfold Obligations.SetupChecksInFieldOrder
  intro data
  obtain ⟨horigin, hpark, hpa, hpb⟩ := readSetup_fields data
  dsimp only at horigin hpark hpa hpb ⊢
  refine ⟨?_, ?_, fun k hk hsome => ?_⟩
  · unfold setupRefusal
    rw [firstFailing_eq_none_iff]
    generalize readSetup data = f at *
    simp only [List.mem_cons, beq_iff_eq, Setup.checks, armChecks, List.mem_append, or_imp, forall_and,
      List.not_mem_nil, false_imp_iff, forall_eq, and_true, Bool.and_eq_true, decide_eq_true_eq, inRange_iff]
    exact and_congr_right fun _ => by omega
  · unfold setupRefusal
    constructor
    · intro hsome hok
      obtain ⟨l₁, l₂, e, hall⟩ := firstFailing_eq_some hsome
      have hone : (1, false) ∈ (readSetup data).checks := by
        cases l₁ with
        | nil => simp [hok] at e
        | cons d rest =>
          simp only [List.cons_append, List.cons.injEq] at e
          rw [e.2]; simp
      have h1 : 1 ∈ (readSetup data).checks.map Prod.fst := List.mem_map_of_mem hone
      rw [Setup.checks_numbers] at h1
      simp at h1
    · intro hbad
      have hb : (halfAt data 0 == 0x5A31) = false := by simpa using hbad
      simp only [firstFailing, List.find?_cons, hb, Bool.not_false, Option.map_some]
  · unfold setupRefusal at hsome
    obtain ⟨l₁, l₂, e, hall⟩ := firstFailing_eq_some hsome
    cases l₁ with
    | nil =>
      simp only [List.nil_append, List.cons.injEq, Prod.mk.injEq] at e
      exact absurd e.1.1.symm hk
    | cons d rest =>
      simp only [List.cons_append, List.cons.injEq] at e
      obtain ⟨-, e⟩ := e
      refine ⟨by rw [e]; simp, fun c hc hlt => ?_⟩
      rw [e] at hc
      rcases List.mem_append.mp hc with hc | hc
      · exact hall c (List.mem_cons_of_mem _ hc)
      · have hsorted : ((readSetup data).checks.map Prod.fst).Pairwise (· < ·) := by
          rw [Setup.checks_numbers]; exact List.pairwise_lt_range'
        rw [e, List.map_append, List.map_cons, List.pairwise_append, List.pairwise_cons] at hsorted
        obtain ⟨-, ⟨hafter, -⟩, -⟩ := hsorted
        rcases List.mem_cons.mp hc with rfl | hc
        · exact absurd hlt (Nat.lt_irrefl _)
        · exact absurd (hafter c.1 (List.mem_map_of_mem hc)) (by omega)

/-! ## The end of a load without a start (O13) -/

/-- Settles O13. -/
theorem serveClearAbandonsALoad : Obligations.ServeClearAbandonsALoad := by
  unfold Obligations.ServeClearAbandonsALoad
  refine ⟨fun s first h hs => ?_, fun s first h he hs => ?_, fun s data first addr bytes limit h he hq hi => ?_⟩
  · exact onPart_unchanged s _ h (by simp [Part.serveClear, hs])
  · refine onPart_quiet s h (q := s.part.abandonLoad) ?_ ⟨fun _ => ⟨rfl, fun hcl => by cases hcl⟩, fun hse => by cases hse⟩
      (Part.linesLaw_of_unguarded h (Part.guarding_of_engine he rfl) rfl rfl rfl rfl) rfl id
    simp only [Part.serveClear, hs, he, if_true]
  · refine onPart_quiet s h (q := s.part.opDone) ?_ ⟨fun _ => ⟨hq, ?_⟩, fun hse => ?_⟩
      (Part.linesLaw_of_unguarded h (Part.guarding_of_engine he rfl) (Part.guarding_of_engine he rfl) rfl rfl rfl) rfl id
    · simp [Part.setupReadDone, hi]
    · show s.part.engine ≠ .closing
      rw [he]; decide
    · rw [show s.part.opDone.engine = .idle from he] at hse; cases hse

end Sys2Proof.Machine

/-! PROOFS. Walks, the publish timer and completed operations (O16, O18 to O20, O22, O23). -/

namespace Sys2Proof.Machine

/-! ## The end of a step after any effect -/

/-- The end of a step after an effect on one arm, where no status block was owed before. -/
theorem Part.settle_acts_of_due {p : Part} {x : Arm} {r : ArmPart} {flags : Word} {ops : List MemOp}
    (hd : ∀ y, p.dueOps y = []) (hc : p.carries) (he : p.engine = .closing → p.inProgress.isSome = true) (b : Part) :
    (Part.settle b (p.acts x r flags ops)).view = (p.withArm x r flags).view ∧
      (Part.settle b (p.acts x r flags ops)).ops = p.ops ++ ops ++
        if p.engine = .serving ∧ r.chain.publishDue = true ∧ r.chain.blockQueued = false then [.statusWrite x] else [] := by
  obtain ⟨hv, ho⟩ := Part.settle_carries b (p.acts x r flags ops) (by unfold Part.carries at hc ⊢; simpa using hc)
    fun h => .inl (by simpa using he (by simpa using h))
  have hother : (p.acts x r flags ops).dueOps x.other = [] := by
    have := hd x.other
    unfold Part.dueOps at this ⊢
    simpa using this
  refine ⟨hv.trans (p.acts_view x r flags ops), ?_⟩
  rw [ho, List.append_assoc, append_arms_of_nil (f := (p.acts x r flags ops).dueOps) hother]
  have : (p.acts x r flags ops).ops = p.ops ++ ops := by simp [Part.ops]
  rw [this]
  unfold Part.dueOps
  simp

/-- A part whose operation in progress has completed: what waits is what will be carried next. -/
theorem Part.opDone_ops (p : Part) : p.opDone.ops = p.opQueue := by simp [Part.ops, Part.opDone]

theorem Part.opDone_dueOps {p : Part} (h : p.settledLaw) (x : Arm) : p.opDone.dueOps x = [] := by
  have : p.opDone.dueOps x = p.dueOps x := by cases x <;> rfl
  rw [this, h.dueOps]

theorem Part.opDone_arm (p : Part) (x : Arm) : p.opDone.arm x = p.arm x := by cases x <;> rfl

theorem Part.opDone_withArm_view (p : Part) (x : Arm) (r : ArmPart) (flags : Word) :
    (p.opDone.withArm x r flags).view = (p.withArm x r flags).view := by cases x <;> rfl

/-- A read or write that completes while the interface carries operations, with an effect on one arm. -/
theorem Part.settle_done_acts {p : Part} {x : Arm} {r : ArmPart} {flags : Word} {ops : List MemOp} (hs : p.settledLaw)
    (hb : p.busUp) (he : p.engine ≠ .closing) :
    (Part.settle p (p.opDone.acts x r flags ops)).view = (p.withArm x r flags).view ∧
      (Part.settle p (p.opDone.acts x r flags ops)).ops = p.opQueue ++ ops ++
        if p.engine = .serving ∧ r.chain.publishDue = true ∧ r.chain.blockQueued = false then [.statusWrite x] else [] := by
  obtain ⟨hv, ho⟩ := Part.settle_acts_of_due (x := x) (r := r) (flags := flags) (ops := ops)
    (Part.opDone_dueOps hs) (.inr hb) (fun h => absurd h he) p
  rw [Part.opDone_ops] at ho
  exact ⟨hv.trans (p.opDone_withArm_view x r flags), ho⟩

/-! ## Prompts and walks (R143, R144) -/

/-- x's chain once a walk has begun, when it has no open slot. -/
def Part.walking (p : Part) (x : Arm) : Chain :=
  let c := (p.arm x).chain
  if c.openSlot.isSome = true then c
  else
    match c.cursor with
    | some _ => { c with walk := .readingNext }
    | none => if p.isCursor (p.figures.entry x) = true then c else { c with walk := .readingSlot }

/-- CHAIN is set when a walk begins at an entry slot that is a cursor (R144). -/
def Part.walkFlags (p : Part) (x : Arm) : Word :=
  let c := (p.arm x).chain
  if c.openSlot = none ∧ c.cursor = none ∧ p.isCursor (p.figures.entry x) = true then causeBit .chain else 0

/-- x's chain after a prompt (R143). -/
def Part.promptedChain (p : Part) (x : Arm) : Chain :=
  if (p.arm x).chain.walk = .none then p.walking x else { (p.arm x).chain with walkAgain := true }

/-- The flags that a prompt sets. -/
def Part.promptFlags (p : Part) (x : Arm) : Word := if (p.arm x).chain.walk = .none then p.walkFlags x else 0

section
variable (p : Part) (x : Arm)

theorem Part.tryCandidate_eq (slot : Nat) (h : p.isCursor slot = false) : (p.tryCandidate x slot).1 =
    p.acts x { p.arm x with chain := { (p.arm x).chain with walk := .readingSlot } } 0 [.slotRead x slot] := by
  obtain ⟨h', -⟩ | ⟨-, e⟩ := p.tryCandidate_cases x slot
  · rw [h] at h'; cases h'
  · rw [e, Part.updChain_eq, Part.updArm_eq_acts, Part.acts_queueOp]; rfl

/-- The beginning of a walk that is not in progress is an effect on x's chain, with the read that a prompt queues. -/
theorem Part.beginWalk_eq (hw : (p.arm x).chain.walk = .none) : (p.beginWalk x).1 =
    p.acts x { p.arm x with chain := p.walking x } (p.walkFlags x) (p.promptReads x) := by
  obtain ⟨ho, e⟩ | ⟨ho, hc, e⟩ | ⟨slot, ho, hc, e⟩ := p.beginWalk_cases x <;> rw [e]
  · have hne : (p.arm x).chain.openSlot ≠ none := fun h => by simp [h] at ho
    simp only [Part.walking, Part.walkFlags, Part.promptReads, ho, hne, if_true, false_and, if_false, or_true]
    exact (p.acts_self x).symm
  · cases hcur : p.isCursor (p.figures.entry x) with
    | true =>
      obtain ⟨-, e'⟩ | ⟨h', -⟩ := p.tryCandidate_cases x (p.figures.entry x)
      · rw [e', p.setCause_eq_acts x]; simp [Part.walking, Part.walkFlags, Part.promptReads, ho, hc, hw, hcur]
      · rw [hcur] at h'; cases h'
    | false =>
      rw [p.tryCandidate_eq x _ hcur]
      simp [Part.walking, Part.walkFlags, Part.promptReads, ho, hc, hw, hcur]
  · rw [Part.updChain_eq, Part.updArm_eq_acts, Part.acts_queueOp]
    simp [Part.walking, Part.walkFlags, Part.promptReads, ho, hc, hw]

theorem Part.prompt_eq (he : p.engine = .serving) : p.prompt x =
    p.acts x { p.arm x with chain := p.promptedChain x } (p.promptFlags x) (p.promptReads x) := by
  obtain ⟨h, -⟩ | ⟨-, hw, e⟩ | ⟨-, hw, e⟩ := p.prompt_cases x
  · exact absurd he h
  · rw [e, p.beginWalk_eq x hw]; simp [Part.promptedChain, Part.promptFlags, hw]
  · rw [e, Part.updChain_eq, Part.updArm_eq_acts]; simp [Part.promptedChain, Part.promptFlags, Part.promptReads, hw]

/-- The cursor and the open slot stay. -/
theorem Part.promptedChain_places : (p.promptedChain x).cursor = (p.arm x).chain.cursor ∧
    (p.promptedChain x).openSlot = (p.arm x).chain.openSlot ∧
    (p.promptedChain x).publishDue = (p.arm x).chain.publishDue ∧
    (p.promptedChain x).blockQueued = (p.arm x).chain.blockQueued := by
  unfold Part.promptedChain Part.walking
  dsimp only
  split
  · split
    · exact ⟨rfl, rfl, rfl, rfl⟩
    · split
      · exact ⟨rfl, rfl, rfl, rfl⟩
      · split <;> exact ⟨rfl, rfl, rfl, rfl⟩
  · exact ⟨rfl, rfl, rfl, rfl⟩

/-- An effect that leaves the arm's cursor leaves what is a cursor. -/
theorem Part.acts_isCursor {r : ArmPart} {flags : Word} {ops : List MemOp}
    (h : r.chain.cursor = (p.arm x).chain.cursor) : (p.acts x r flags ops).isCursor = p.isCursor := by
  funext slot
  cases x
  · show (r.chain.cursor == some slot || p.armB.chain.cursor == some slot) = _
    rw [h]; rfl
  · show (p.armA.chain.cursor == some slot || r.chain.cursor == some slot) = _
    rw [h]; rfl

/-- Both arms' prompts, the first arm's read before the other's. -/
theorem Part.promptBoth_eq (he : p.engine = .serving) : p.promptBoth x =
    (p.acts x { p.arm x with chain := p.promptedChain x } (p.promptFlags x) (p.promptReads x)).acts x.other
      { p.arm x.other with chain := p.promptedChain x.other } (p.promptFlags x.other) (p.promptReads x.other) := by
  obtain ⟨hc, -⟩ := p.promptedChain_places x
  have hcur := p.acts_isCursor x (r := { p.arm x with chain := p.promptedChain x }) (flags := p.promptFlags x)
    (ops := p.promptReads x) hc
  show (p.prompt x).prompt x.other = _
  rw [p.prompt_eq x he, Part.prompt_eq _ x.other (by simpa using he)]
  simp only [Part.promptedChain, Part.walking, Part.promptFlags, Part.walkFlags, Part.promptReads, Part.acts_arm_other,
    Part.acts_figures] at hcur ⊢
  rw [hcur]

end

/-! ## NUDGE, the poll timer and the publish timer (O18, O19) -/

theorem Part.promptBoth_of_ne_serving (p : Part) (x : Arm) (he : p.engine ≠ .serving) : p.promptBoth x = p := by
  have h : ∀ y, p.prompt y = p := fun y => if_neg he
  show (p.prompt x).prompt x.other = p
  rw [h, h]

/-- What the end of a step makes of a part depends on what was before only through the interrupt condition. -/
theorem Part.settle_before {b b' : Part} (p : Part) (h : b.interruptCondition = b'.interruptCondition) :
    Part.settle b p = Part.settle b' p := by
  unfold Part.settle Part.sendMessage
  rw [h]

theorem Part.acts_carries {p : Part} (x : Arm) (r : ArmPart) (flags : Word) (ops : List MemOp) (h : p.carries) :
    (p.acts x r flags ops).carries := by
  unfold Part.carries at h ⊢; simpa using h

/-- A part shows its cause flags. -/
theorem Part.causeSet_of_view {p q : Part} (h : q.view = p.view) (c : Cause) : q.causeSet c = p.causeSet c :=
  show q.view.causeSet c = p.view.causeSet c by rw [h]

theorem Part.causeSet_of_or (p : Part) (c : Cause) (w : Word) (h : p.cause = w ||| causeBit c) : p.causeSet c = true := by
  unfold Part.causeSet causeBit at *
  rw [h]
  cases c <;> simp [Cause.bit]

section
variable (p : Part) (first x : Arm)

theorem Part.promptBoth_arm (he : p.engine = .serving) :
    (p.promptBoth first).arm x = { p.arm x with chain := p.promptedChain x } := by
  rw [p.promptBoth_eq first he, Part.acts_arm_ite]
  by_cases h : x = first.other
  · subst h; simp
  · obtain rfl : x = first := by
      exact Classical.byContradiction fun hne => h (Arm.eq_other_of_ne hne)
    rw [if_neg (Arm.ne_other x), Part.acts_arm]

theorem Part.promptBoth_cause (he : p.engine = .serving) :
    (p.promptBoth first).cause = p.cause ||| p.promptFlags first ||| p.promptFlags first.other := by
  rw [p.promptBoth_eq first he]; simp

theorem Part.promptBoth_opQueue (he : p.engine = .serving) :
    (p.promptBoth first).opQueue = p.opQueue ++ p.promptReads first ++ p.promptReads first.other := by
  rw [p.promptBoth_eq first he]; simp

/-- A prompt of both arms queues the reads alone, and marks no status block. -/
theorem Part.settle_promptBoth (hs : ∀ y, p.dueOps y = []) (hc : p.carries) (he : p.engine = .serving) (b : Part) :
    (Part.settle b (p.promptBoth first)).view = (p.promptBoth first).view ∧
      (Part.settle b (p.promptBoth first)).ops = p.ops ++ p.promptReads first ++ p.promptReads first.other := by
  have hfields : (p.promptBoth first).engine = p.engine ∧ (p.promptBoth first).inProgress = p.inProgress ∧
      (p.promptBoth first).carries := by
    rw [p.promptBoth_eq first he]
    exact ⟨by simp, by simp, Part.acts_carries _ _ _ _ (Part.acts_carries _ _ _ _ hc)⟩
  obtain ⟨hen, hi, hca⟩ := hfields
  obtain ⟨hv, ho⟩ := Part.settle_carries b (p.promptBoth first) hca fun h => by rw [hen, he] at h; cases h
  have hdue : ∀ y, (p.promptBoth first).dueOps y = [] := fun y => by
    have hy := hs y
    unfold Part.dueOps at hy ⊢
    obtain ⟨-, -, hp, hq⟩ := p.promptedChain_places y
    rw [p.promptBoth_arm first y he, hen, hp, hq]
    exact hy
  refine ⟨hv, ?_⟩
  rw [ho, hdue, hdue, List.append_nil, List.append_nil, Part.ops, hi, p.promptBoth_opQueue first he]
  simp [Part.ops]

end

/-- Settles O18. -/
theorem nudgeAndPollPromptBothArms : Obligations.NudgeAndPollPromptBothArms := by
  unfold Obligations.NudgeAndPollPromptBothArms
  intro s v first h
  refine ⟨fun he => onPart_unchanged s _ h (s.part.promptBoth_of_ne_serving first he), fun he hc => ?_, fun he ht hc => ?_,
    fun hno => ?_⟩
  · refine ⟨_, onPart_step s (fun q => q.promptBoth first) h.1, rfl, ?_, fun x => ?_⟩
    · rw [(s.part.settle_promptBoth first h.2.1.dueOps hc he s.part).2]
    · obtain ⟨hv, -⟩ := s.part.settle_promptBoth first h.2.1.dueOps hc he s.part
      have hchain : ∀ {A : Type} (g : Chain → A), (∀ r : ArmPart, g r.view.chain = g r.chain) →
          g ((Part.settle s.part (s.part.promptBoth first)).arm x).chain = g (s.part.promptedChain x) := fun g hg => by
        rw [← hg, Part.arm_view_of_view hv x, hg, s.part.promptBoth_arm first x he]
      have hcause : (Part.settle s.part (s.part.promptBoth first)).cause =
          s.part.cause ||| s.part.promptFlags first ||| s.part.promptFlags first.other :=
        (congrArg (fun q : Part => q.cause) hv : _ = (s.part.promptBoth first).view.cause).trans (s.part.promptBoth_cause first he)
      obtain ⟨hcur, hopen, -⟩ := s.part.promptedChain_places x
      refine ⟨(hchain Chain.cursor fun _ => rfl).trans hcur, (hchain Chain.openSlot fun _ => rfl).trans hopen, ?_⟩
      simp only [hchain Chain.walk fun _ => rfl, hchain Chain.walkAgain fun _ => rfl]
      refine ⟨fun hw => ?_, fun hw => ?_, fun hw ho => ?_, fun hw ho hcs => ?_, fun hw ho hcn => ⟨fun hcu => ⟨?_, ?_⟩, fun hcu => ?_⟩⟩
      · simp [Part.promptedChain, hw]
      · simp only [Part.promptedChain, Part.walking, hw, if_true]
        split
        · rfl
        · split
          · rfl
          · split <;> rfl
      · simp [Part.promptedChain, Part.walking, hw, ho]
      · obtain ⟨d, hd⟩ := Option.isSome_iff_exists.mp hcs
        simp [Part.promptedChain, Part.walking, hw, ho, hd]
      · simp [Part.promptedChain, Part.walking, hw, ho, hcn, hcu]
      · have hflag : s.part.promptFlags x = causeBit .chain := by
          simp [Part.promptFlags, Part.walkFlags, hw, ho, hcn, hcu]
        by_cases hx : x = first
        · subst hx
          refine Part.causeSet_of_or _ _ (s.part.cause ||| s.part.promptFlags x.other) ?_
          rw [hcause, hflag, BitVec.or_assoc, BitVec.or_assoc, BitVec.or_comm (causeBit _)]
        · obtain rfl := Arm.eq_other_of_ne hx
          exact Part.causeSet_of_or _ _ _ (by rw [hcause, hflag])
      · simp [Part.promptedChain, Part.walking, hw, ho, hcn, hcu]
  · have hp : s.part.pollExpires first = ({ s.part with
        pollTimer := some (s.part.now + BitVec.ofNat 32 (s.part.figures.pollInterval * 1000)) } : Part).promptBoth first :=
      if_pos ⟨he, ht⟩
    refine ⟨_, onPart_step s (fun q => q.pollExpires first) h.1, ?_⟩
    rw [hp]
    generalize hq : ({ s.part with pollTimer := some (s.part.now + BitVec.ofNat 32 (s.part.figures.pollInterval * 1000)) } :
      Part) = q
    have hr : q.inReset = false := by rw [← hq]; exact h.1
    have hi : s.part.interruptCondition = q.interruptCondition := by rw [← hq]; rfl
    rw [Part.settle_before _ hi]
    exact onPart_step { s with part := q } (fun u => u.promptBoth first) hr
  · refine onPart_unchanged s _ h (if_neg fun ⟨he, ht⟩ => ?_)
    rcases hno with hno | hno
    · exact hno he
    · rw [ht] at hno; cases hno

/-- Settles O19. -/
theorem publishExpiryQueuesChangedBlocks : Obligations.PublishExpiryQueuesChangedBlocks := by
  unfold Obligations.PublishExpiryQueuesChangedBlocks
  intro s h
  refine ⟨fun he ht hc => ?_, fun hno => ?_⟩
  · generalize hp : ({ s.part with
      publishTimer := some (s.part.now + BitVec.ofNat 32 (s.part.figures.publishInterval * 1000)) } : Part) = p
    have hf : s.part.publishExpires = (p.publishChanged .a).publishChanged .b := by rw [← hp]; exact if_pos ⟨he, ht⟩
    have hpe : p.engine = .serving ∧ p.carries ∧ p.ops = s.part.ops ∧ p.marksKept = true ∧
        ∀ y, p.arm y = s.part.arm y := by
      rw [← hp]
      exact ⟨he, hc, rfl, by simp [Part.marksKept, he], fun y => by cases y <;> rfl⟩
    obtain ⟨hpe, hpc, hpo, hpk, hpa⟩ := hpe
    have hpub : ∀ (q : Part) (y : Arm), q.marksKept = true →
        q.publishChanged y = q.acts y ((q.arm y).due (q.arm y).chain.changed) 0 [] := fun q y hk => by
      unfold Part.publishChanged
      split
      · next hch => rw [Part.markDue_eq, hk, hch]
      · next hch => simp [hch]
    have hq : (p.publishChanged .a).publishChanged .b =
        (p.acts .a ((p.arm .a).due (p.arm .a).chain.changed) 0 []).acts .b
          ((p.arm .b).due (p.arm .b).chain.changed) 0 [] := by
      rw [hpub p .a hpk, hpub _ .b (by simpa using hpk)]
      rfl
    have hdue : ∀ y, ((p.publishChanged .a).publishChanged .b).dueOps y =
        if (s.part.arm y).chain.changed = true then s.part.statusOps y else [] := fun y => by
      have hsettled := h.2.1.dueOps y
      rw [hq]
      unfold Part.dueOps at hsettled ⊢
      rw [Part.acts_arm_ite, Part.acts_arm_ite]
      have hy : (if y = Arm.b then (p.arm .b).due (p.arm .b).chain.changed else if y = Arm.a then
          (p.arm .a).due (p.arm .a).chain.changed else p.arm y) = (s.part.arm y).due (s.part.arm y).chain.changed := by
        cases y <;> simp [hpa]
      rw [hy]
      unfold Part.statusOps
      cases hb : (s.part.arm y).chain.blockQueued <;> cases hch : (s.part.arm y).chain.changed <;>
        simp_all [ArmPart.due]
    obtain ⟨hv, ho⟩ := Part.settle_carries s.part ((p.publishChanged .a).publishChanged .b)
      (by rw [hq]; exact Part.acts_carries _ _ _ _ (Part.acts_carries _ _ _ _ hpc))
      (fun hcl => by rw [hq] at hcl; simp [hpe] at hcl)
    refine ⟨_, onPart_step s _ h.1, rfl, ?_, ?_⟩
    · rw [hf, ho, hdue, hdue, ← hpo, hq]
      simp [Part.ops]
    · rw [hf, hv]
      unfold Part.publishChanged
      split <;> split <;> simp [Part.markDue_view]
  · refine onPart_unchanged s _ h (if_neg fun ⟨he, ht⟩ => ?_)
    rcases hno with hno | hno
    · exact hno he
    · rw [ht] at hno; cases hno

end Sys2Proof.Machine

/-! PROOFS. The end of a walk, completed operations and status blocks (O16, O20, O22, O23). -/

namespace Sys2Proof.Machine

section
variable (p : Part) (x : Arm)

/-! ## Ends of walks (R143, R144) -/

/-- A walk ends, and its walk-again mark is not set. -/
theorem Part.endWalk_last (h : (p.arm x).chain.walkAgain = false) : p.endWalk x =
    p.acts x { p.arm x with chain := { (p.arm x).chain with walk := .none } } 0 [] := by
  unfold Part.endWalk
  rw [if_neg (by simp [h]), Part.updChain_eq, Part.updArm_eq_acts]

/-- A walk of an arm whose slot is open ends, the mark with it. -/
theorem Part.endWalk_open (h : (p.arm x).chain.openSlot.isSome = true) : p.endWalk x =
    p.acts x { p.arm x with chain := { (p.arm x).chain with walk := .none, walkAgain := false } } 0 [] := by
  cases hw : (p.arm x).chain.walkAgain with
  | false => rw [p.endWalk_last x hw, ← hw]
  | true =>
    unfold Part.endWalk
    rw [if_pos hw, Part.updChain_eq, Part.updArm_eq_acts, Part.beginWalk_eq _ x (by simp)]
    have hne : (p.arm x).chain.openSlot ≠ none := fun hn => by simp [hn] at h
    simp [Part.walking, Part.walkFlags, Part.promptReads, h, hne]

/-- A walk ends with its mark set and a cursor to go on from: its next field is read again. -/
theorem Part.endWalk_again {d : Nat} (h : (p.arm x).chain.walkAgain = true) (ho : (p.arm x).chain.openSlot = none)
    (hc : (p.arm x).chain.cursor = some d) : p.endWalk x =
      p.acts x { p.arm x with chain := { (p.arm x).chain with walk := .readingNext, walkAgain := false } } 0
        [.nextRead x d] := by
  unfold Part.endWalk
  rw [if_pos h, Part.updChain_eq, Part.updArm_eq_acts, Part.beginWalk_eq _ x (by simp)]
  simp [Part.walking, Part.walkFlags, Part.promptReads, ho, hc]

/-- A read of a next field that ends a walk with CHAIN, its mark not set. -/
theorem Part.endWalk_chain (h : (p.arm x).chain.walkAgain = false) : (p.setCause .chain).endWalk x =
    p.acts x { p.arm x with chain := { (p.arm x).chain with walk := .none } } (causeBit .chain) [] := by
  rw [p.setCause_eq_acts x, Part.endWalk_last _ x (by simpa using h)]
  simp

theorem Part.takeNext_cursor {next : Byte} (hn : next.toNat < 128) (hc : p.isCursor next.toNat = true) :
    p.takeNext x next = (p.setCause .chain).endWalk x := by
  unfold Part.takeNext
  rw [if_neg (fun h => by rw [h] at hn; simp at hn), if_pos hn]
  obtain ⟨-, e⟩ | ⟨h, -⟩ := p.tryCandidate_cases x next.toNat
  · rw [e]
  · rw [hc] at h; cases h

theorem Part.takeNext_candidate {next : Byte} (hn : next.toNat < 128) (hc : p.isCursor next.toNat = false) :
    p.takeNext x next =
      p.acts x { p.arm x with chain := { (p.arm x).chain with walk := .readingSlot } } 0 [.slotRead x next.toNat] := by
  rw [← p.tryCandidate_eq x _ hc]
  unfold Part.takeNext
  rw [if_neg (fun h => by rw [h] at hn; simp at hn), if_pos hn]
  obtain ⟨h, -⟩ | ⟨-, e⟩ := p.tryCandidate_cases x next.toNat
  · rw [hc] at h; cases h
  · rw [e]

end

/-- Settles O20. -/
theorem nextFieldEndsOrContinuesTheWalk : Obligations.NextFieldEndsOrContinuesTheWalk := by
  unfold Obligations.NextFieldEndsOrContinuesTheWalk
  intro s x slot next addr bytes limit ab h
  dsimp only
  intro he hb hi
  have hf : s.part.nextReadDone next = s.part.opDone.takeNext x next := by
    simp only [Part.nextReadDone, hi, he, if_true]
  have harm := s.part.opDone_arm x
  have hcur : ∀ n, s.part.opDone.isCursor n = s.part.isCursor n := fun _ => rfl
  have hnot : ¬ (s.part.engine = .serving ∧ (s.part.arm x).chain.publishDue = true ∧
      (s.part.arm x).chain.blockQueued = false) := fun hd => by
    have := h.2.1.dueOps x
    unfold Part.dueOps at this
    rw [if_pos hd] at this; cases this
  have settled : ∀ (c : Chain) (flags : Word) (ops : List MemOp), c.publishDue = (s.part.arm x).chain.publishDue →
      c.blockQueued = (s.part.arm x).chain.blockQueued →
      s.part.opDone.takeNext x next = s.part.opDone.acts x { s.part.opDone.arm x with chain := c } flags ops →
      (Part.settle s.part (s.part.nextReadDone next)).ops = s.part.opQueue ++ ops ∧
        (Part.settle s.part (s.part.nextReadDone next)).view =
          (s.part.withArm x { s.part.arm x with chain := c } flags).view := fun c flags ops hp hq e => by
    obtain ⟨hv, ho⟩ := Part.settle_done_acts (x := x) (r := { s.part.arm x with chain := c }) (flags := flags)
      (ops := ops) h.2.1 hb (by rw [he]; decide)
    rw [hf, e, harm]
    refine ⟨?_, hv⟩
    rw [ho, if_neg (by rw [hp, hq]; exact hnot), List.append_nil]
  have walks : ∀ (c : Chain) (flags : Word), c.publishDue = (s.part.arm x).chain.publishDue →
      c.blockQueued = (s.part.arm x).chain.blockQueued →
      s.part.opDone.takeNext x next = s.part.opDone.acts x { s.part.opDone.arm x with chain := c } flags [] →
      (Part.settle s.part (s.part.nextReadDone next)).ops = s.part.opQueue ∧
        (Part.settle s.part (s.part.nextReadDone next)).view =
          (s.part.withArm x { s.part.arm x with chain := c } flags).view := fun c flags hp hq e => by
    simpa using settled c flags [] hp hq e
  refine ⟨_, onPart_step s (fun q => q.nextReadDone next) h.1, rfl, fun hwa => ⟨fun hn => ?_, fun hn hne => ?_,
    fun hn hc => ?_⟩, fun hn hc => ?_, fun hwa hn ho d hd => ?_⟩
  · refine walks _ 0 ?_ ?_ ((if_pos hn).trans (s.part.opDone.endWalk_last x (by rw [harm]; exact hwa))) <;> rfl
  · refine walks _ (causeBit .chain) ?_ ?_ (((if_neg hne).trans (if_neg (by omega))).trans
      (s.part.opDone.endWalk_chain x (by rw [harm]; exact hwa))) <;> rfl
  · refine walks _ (causeBit .chain) ?_ ?_ ((s.part.opDone.takeNext_cursor x hn hc).trans
      (s.part.opDone.endWalk_chain x (by rw [harm]; exact hwa))) <;> rfl
  · refine settled _ 0 _ ?_ ?_ (s.part.opDone.takeNext_candidate x hn hc) <;> rfl
  · refine settled _ 0 _ ?_ ?_ ((if_pos hn).trans (s.part.opDone.endWalk_again x (by rw [harm]; exact hwa)
      (by rw [harm]; exact ho) (by rw [harm]; exact hd))) <;> rfl

/-! ## Operations that complete (O22) -/

theorem Part.writeDone_plain (p : Part) {r : RunningOp} (hi : p.inProgress = some r) (hr : r.op.isRead = false)
    (hd : ∀ x slot, r.op ≠ .stageWrite x slot .done) : p.writeDone = (p.landWrite r).opDone := by
  unfold Part.writeDone
  rw [hi]
  simp only [hr, Bool.false_eq_true, if_false]

/-- Settles O22. -/
theorem completedWriteReachesHostMemory : Obligations.CompletedWriteReachesHostMemory := by
  unfold Obligations.CompletedWriteReachesHostMemory
  refine ⟨fun p op => ?_, fun s op addr bytes limit ab h => ?_, fun s x slot c addr bytes limit ab h => ?_⟩
  · refine ⟨_, rfl, rfl, rfl, ?_⟩
    cases op with
    | statusWrite x => cases x <;> rfl
    | _ => rfl
  · dsimp only
    intro hi hr hl hd hcl hb
    have hf := s.part.writeDone_plain hi hr hd
    obtain ⟨hv, ho⟩ := Part.settle_carries s.part (s.part.landWrite ⟨op, addr, bytes, limit, ab⟩).opDone (.inr hb)
      fun hc => .inr fun hq => hcl hq hc
    have hmem : (Part.settle s.part s.part.writeDone).hostMem = memWrite s.part.hostMem addr bytes := by
      rw [hf]; exact congrArg (fun q : Part => q.hostMem) hv
    have hdue : ∀ y, (s.part.landWrite ⟨op, addr, bytes, limit, ab⟩).opDone.dueOps y = [] := fun y => by
      rw [← h.2.1.dueOps y]; cases y <;> rfl
    refine ⟨_, onPart_step s Part.writeDone h.1, rfl, ?_, ?_, fun i hlt => ?_, fun a ha => ?_⟩
    · rw [hf, ho, hdue, hdue, Part.opDone_ops]
      simp [Part.landWrite]
    · rw [hmem, hf, hv]; rfl
    · rw [hmem]
      exact memRead_memWrite_inside bytes addr _ (by omega) i hlt
    · rw [hmem]
      exact memRead_memWrite_outside bytes addr a _ ha
  · dsimp only
    intro he hb hi hw hc
    have hf : s.part.writeDone =
        (s.part.landWrite ⟨.stageWrite x slot .done, addr, bytes, limit, ab⟩).opDone.slotDone x := by
      simp only [Part.writeDone, hi, MemOp.isRead]; rfl
    generalize hm : ({ s.part with hostMem := memWrite s.part.hostMem addr bytes } : Part) = m at *
    have hmf : s.part.writeDone = m.opDone.slotDone x := by rw [hf, ← hm]; rfl
    have hme : m.engine = .serving ∧ m.settledLaw ∧ m.busUp ∧ m.opQueue = s.part.opQueue ∧ m.arm x = s.part.arm x ∧
        m.statusOps x = s.part.statusOps x ∧ m.hostMem = memWrite s.part.hostMem addr bytes := by
      rw [← hm]
      refine ⟨he, h.2.1, hb, rfl, ?_, ?_, rfl⟩ <;> cases x <;> rfl
    obtain ⟨hme, hms, hmb, hmq, hma, hmo, hmm⟩ := hme
    have hdone : m.opDone.slotDone x = m.opDone.acts x
        { m.arm x with chain := { (m.arm x).chain with openSlot := none, walk := .readingNext, publishDue := true } }
        (causeBit .verdict) [.nextRead x c] := by
      have hk : m.opDone.marksKept = true := by simp [Part.marksKept, Part.opDone, hme]
      unfold Part.slotDone
      rw [Part.setCause_eq_acts _ x, Part.updChain_eq, Part.updArm_eq_acts, Part.markDue_eq,
        Part.prompt_eq _ x (by simpa [Part.opDone] using hme)]
      simp [hk, ArmPart.due, Part.promptedChain, Part.promptFlags, Part.promptReads, Part.walking, Part.walkFlags,
        Part.opDone_arm, hma, hw, hc]
    obtain ⟨hv, ho⟩ := Part.settle_done_acts (x := x) (r := { m.arm x with
      chain := { (m.arm x).chain with openSlot := none, walk := .readingNext, publishDue := true } })
      (flags := causeBit .verdict) (ops := [.nextRead x c]) hms hmb (by rw [hme]; decide)
    have hbefore : Part.settle s.part (m.opDone.slotDone x) = Part.settle m (m.opDone.slotDone x) :=
      Part.settle_before _ (by rw [← hm]; rfl)
    have hmem : (Part.settle s.part s.part.writeDone).hostMem = memWrite s.part.hostMem addr bytes := by
      rw [hmf, hbefore, hdone, ← hmm]
      refine (congrArg (fun q : Part => q.hostMem) hv).trans ?_
      cases x <;> rfl
    refine ⟨_, onPart_step s Part.writeDone h.1, rfl, ?_, hmem, ?_⟩
    · rw [hmf, hbefore, hdone, ho, hmq, ← hmo]
      cases hq : (m.arm x).chain.blockQueued <;> simp [hme, hq, Part.statusOps]
    · rw [hmem, hmf, hbefore, hdone, hv, ← hm]
      cases x <;> rfl

/-! ## The end of a step outside SERVING (O16) -/

/-- Outside SERVING the end of a step starts the next operation, drives the stop lines and leaves the rest. -/
theorem Part.settle_arm_of_ne_serving (b p : Part) (he : p.engine ≠ .serving) (y : Arm) :
    (Part.settle b p).arm y = { p.startNext.arm y with
      guard := { (p.startNext.arm y).guard with stopAsserted := !p.startNext.lineReleased y } } := by
  rw [Part.settle_of_ne_serving b p he]
  have hsend : ∀ q : Part, (Part.sendMessage b q).arm y = q.arm y := fun q => by
    unfold Part.sendMessage
    split <;> cases y <;> rfl
  rw [hsend]
  cases y <;> rfl

/-- Settles O16. -/
theorem closingEndsWithItsLastWrite : Obligations.ClosingEndsWithItsLastWrite := by
  unfold Obligations.ClosingEndsWithItsLastWrite
  intro s x addr bytes limit ab h
  dsimp only
  intro he hq hi
  have hf := s.part.writeDone_plain hi rfl fun y slot hop => by cases hop
  have hend : s.part.writeDone.startNext = s.part.writeDone.closeDone := by
    rw [hf]
    simp [Part.startNext, Part.opDone, Part.landWrite, hq, he]
  have hne : s.part.writeDone.engine ≠ .serving := by
    rw [hf]
    show s.part.engine ≠ .serving
    rw [he]; decide
  obtain ⟨hv, ho⟩ := Part.settle_view_of_ne_serving s.part s.part.writeDone hne
  rw [hend] at hv ho
  have hview : ∀ {A : Type} (g : Part → A), (∀ q : Part, g q.view = g q) →
      g (Part.settle s.part s.part.writeDone) = g s.part.writeDone.closeDone := fun g hg => by
    rw [← hg, hv, hg]
  refine ⟨_, onPart_step s Part.writeDone h.1, rfl, hview (fun q => q.engine) fun _ => rfl,
    hview (fun q => q.setup) fun _ => rfl, ?_, ?_, ?_, fun y => ?_⟩
  · rw [hview (fun q => q.outcome) fun _ => rfl, hf]; rfl
  · rw [ho, hf]
    show s.part.opQueue = []
    exact hq
  · rw [hview (fun q => q.hostMem) fun _ => rfl, hf]; rfl
  · rw [Part.settle_arm_of_ne_serving _ _ hne, hend, hf]
    cases y <;> exact ⟨rfl, rfl, rfl, rfl, rfl⟩

/-! ## Status blocks (O23) -/

theorem padTo_length (n : Nat) (l : List Byte) : (padTo n l).length = n := by
  unfold padTo
  rw [List.length_take, List.length_append, List.length_replicate]
  omega

theorem testResultBytes_length (r : Option TestResult) : (testResultBytes r).length = 24 := by
  cases r <;> rfl

theorem cellBoxBytes_length (b : Option CellBox) : (cellBoxBytes b).length = 6 := by
  cases b <;> rfl

theorem byteOrFF_length (n : Option Nat) : (byteOrFF n).length = 1 := by
  cases n <;> rfl

theorem le16_length (n : Nat) : (le16 n).length = 2 := rfl
theorem le32_length (n : Nat) : (le32 n).length = 4 := rfl
theorem byte1_length (n : Nat) : (byte1 n).length = 1 := rfl

theorem statusBytes_length (r : ArmPart) (e : Half) : (statusBytes r e).length = 256 := by
  unfold statusBytes
  simp [padTo_length, testResultBytes_length, cellBoxBytes_length, byteOrFF_length, le16_length, le32_length,
    byte1_length]

/-- The edition stands at both ends. -/
theorem statusBytes_ends (r : ArmPart) (e : Half) :
    (statusBytes r e).take 2 = le16 e.toNat ∧ (statusBytes r e).drop 254 = le16 e.toNat := by
  constructor
  · unfold statusBytes
    simp only [List.append_assoc]
    exact List.take_left' rfl
  · unfold statusBytes
    exact List.drop_left' (by
      simp [padTo_length, testResultBytes_length, cellBoxBytes_length, byteOrFF_length, le16_length, le32_length,
        byte1_length])

/-- Settles O23. -/
theorem statusBlockCarriesItsEditionTwice : Obligations.StatusBlockCarriesItsEditionTwice := by
  unfold Obligations.StatusBlockCarriesItsEditionTwice
  refine ⟨fun r e => ⟨statusBytes_length r e, statusBytes_ends r e⟩, fun p x => ?_⟩
  · have harm : (p.beginOp (.statusWrite x)).arm x = { p.arm x with chain := { (p.arm x).chain with
        blockQueued := false, publishDue := false, changed := false, edition := (p.arm x).chain.edition + 1 } } := by
      cases x <;> rfl
    dsimp only
    rw [harm]
    refine ⟨rfl, rfl, rfl, rfl, ?_⟩
    rw [← harm]
    cases x <;> rfl

end Sys2Proof.Machine

/-! PROOFS. The start and the end of serving (O12, O14, O15). -/

namespace Sys2Proof.Machine

/-! ## What a view says of a part -/

/-- Parts of one view agree in everything that the view shows. -/
theorem Part.shown {A : Type} {p q : Part} (h : p.view = q.view) (g : Part → A) (hg : ∀ u : Part, g u.view = g u) :
    g p = g q := by rw [← hg p, h, hg q]

/-- Parts of one view agree in everything that the view shows of an arm. -/
theorem Part.arm_shown {A : Type} {p q : Part} (h : p.view = q.view) (x : Arm) (g : ArmPart → A)
    (hg : ∀ r : ArmPart, g r.view = g r) : g (p.arm x) = g (q.arm x) := by
  rw [← hg (p.arm x), Part.arm_view_of_view h x, hg (q.arm x)]

/-- The part without its arms, its cause flags and its operations: what no effect on an arm changes. -/
def Part.unit (p : Part) : Part :=
  { p with armA := resetArm, armB := resetArm, cause := 0, opQueue := [], inProgress := none, messages := 0 }

@[simp] theorem Part.acts_unit (p : Part) (x : Arm) (r : ArmPart) (flags : Word) (ops : List MemOp) :
    (p.acts x r flags ops).unit = p.unit := by cases x <;> rfl

/-- Parts of one view are one unit. -/
theorem Part.unit_of_view {p q : Part} (h : p.view = q.view) : p.unit = q.unit := Part.shown h Part.unit fun _ => rfl

/-- Whether a stop line is released follows from the view. -/
theorem Part.lineReleased_shown {p q : Part} (h : p.view = q.view) (x : Arm) : p.lineReleased x = q.lineReleased x := by
  unfold Part.lineReleased
  rw [Part.shown h (fun u => u.guarding) fun _ => rfl, Part.arm_shown h x (fun r => r.guard.state) fun _ => rfl]

/-- The stop lines of a part follow its guards. -/
def Part.linesDriven (p : Part) : Prop := ∀ y, (p.arm y).guard.stopAsserted = !p.lineReleased y

/-- A guard whose stop line is driven is known from the view. -/
theorem Part.linesDriven.guard {p q : Part} (hs : p.linesDriven) (h : p.view = q.view) (x : Arm) :
    (p.arm x).guard = { (q.arm x).guard with stopAsserted := !q.lineReleased x } := by
  have hv : { (p.arm x).guard with stopAsserted := true } = { (q.arm x).guard with stopAsserted := true } :=
    congrArg ArmPart.guard (Part.arm_view_of_view h x)
  have hx := hs x
  rw [Part.lineReleased_shown h x] at hx
  generalize (p.arm x).guard = g at hx hv
  rw [← hx]
  exact congrArg (fun u : Guard => { u with stopAsserted := g.stopAsserted }) hv

/-- A guard that stays, between two steps. -/
theorem Part.linesDriven.guard_same {p q : Part} (hp : p.linesDriven) (hq : q.linesDriven) {x : Arm}
    (he : p.guarding = q.guarding) (h : { (p.arm x).guard with stopAsserted := true } =
      { (q.arm x).guard with stopAsserted := true }) : (p.arm x).guard = (q.arm x).guard := by
  have hst : (p.arm x).guard.state = (q.arm x).guard.state := (congrArg Guard.state h :)
  have hpx := hp x
  have hqx := hq x
  rw [Part.lineReleased, he, hst, ← Part.lineReleased, ← hqx] at hpx
  generalize (p.arm x).guard = g at *
  generalize (q.arm x).guard = g' at *
  have : g = { ({ g with stopAsserted := true } : Guard) with stopAsserted := g.stopAsserted } := rfl
  rw [this, h, hpx]

theorem Part.settle_linesDriven (b p : Part) : (Part.settle b p).linesDriven := Part.settle_stopLines b p

/-- A guard at the end of a step: as the effect has left it, with the stop line driven. -/
theorem Part.settle_guard {b p q : Part} (h : (Part.settle b p).view = q.view) (x : Arm) :
    ((Part.settle b p).arm x).guard = { (q.arm x).guard with stopAsserted := !q.lineReleased x } :=
  (Part.settle_linesDriven b p).guard h x

/-! ## The blocks' resets as effects -/

section
variable (p : Part) (x : Arm)

theorem Part.guardOffline_eq (c : StopCause) : ∃ k flags, p.guardOffline x c =
    p.acts x (({ p.arm x with guard := { resetGuard with
      reasons := { noReasons with host := (p.arm x).hold }, stopCause := c } } : ArmPart).due k) flags [] := by
  obtain ⟨q, rfl, e | e | e⟩ := p.guardOffline_cases x c <;> rw [e, Part.updGuard_eq, Part.updArm_eq_acts]
  · exact ⟨p.marksKept, causeBit (armCause x), by rw [Part.guardChanged_eq]; simp⟩
  · exact ⟨p.marksKept, 0, by rw [Part.markDue_eq]; simp⟩
  · exact ⟨false, 0, by simp⟩

/-- x's share when serving starts: all blocks anew, HOST and the stop cause apart (R172). -/
def ArmPart.opened (r : ArmPart) (acfg : Nat) : ArmPart :=
  { resetArm with
    hold := r.hold
    claims := r.claims
    parkCount := r.parkCount
    guard := { resetGuard with reasons := { noReasons with host := r.hold }, stopCause := r.guard.stopCause }
    test := resetTest acfg
    link := resetLink .active }

theorem Part.startArm_eq (f : Setup) : ∃ flags, p.startArm f x =
    p.acts x ((p.arm x).opened (f.arm x).acfg) flags [] := by
  obtain ⟨k, flags, e⟩ := p.guardOffline_eq x (p.arm x).guard.stopCause
  refine ⟨flags, ?_⟩
  unfold Part.startArm
  rw [e, Part.updArm_eq_acts]
  simp [ArmPart.opened, resetArm, ArmPart.due]

theorem Part.closeArm_eq : ∃ j k flags, p.closeArm x = p.acts x (((p.arm x).closed.due j).noted k) flags [] := by
  obtain ⟨j, flags, e⟩ := p.guardOffline_eq x .none
  unfold Part.closeArm
  dsimp only
  rw [e, Part.updArm_eq_acts]
  split
  · exact ⟨j, false, flags, by simp [ArmPart.closed, ArmPart.due]⟩
  · exact ⟨j, _, flags, by rw [Part.markChanged_eq]; simp [ArmPart.closed, ArmPart.due, ArmPart.noted]; rfl⟩

theorem Part.queueStatus_eq : p.queueStatus x =
    p.acts x { p.arm x with chain := { (p.arm x).chain with blockQueued := true } } 0 [.statusWrite x] := by
  unfold Part.queueStatus
  rw [Part.updChain_eq, Part.updArm_eq_acts, Part.acts_queueOp]
  simp

/-- x's share with no claim and no park cell. -/
def ArmPart.unclaimed (r : ArmPart) : ArmPart := { r with claims := freeClaims, parkCount := 0 }

theorem Part.clearTable_eq (nx ny nz : Nat) : ∃ i j, p.clearTable nx ny nz =
    ((p.setTable (clearedTable nx ny nz)).acts .a ((p.arm .a).unclaimed.due i) 0 []).acts .b
      ((p.arm .b).unclaimed.due j) 0 [] := by
  unfold Part.clearTable
  obtain ⟨i, e⟩ := (p.setTable (clearedTable nx ny nz)).clearClaims_eq .a
  rw [e]
  obtain ⟨j, e'⟩ := ((p.setTable (clearedTable nx ny nz)).acts .a
    ((({ (p.setTable (clearedTable nx ny nz)).arm .a with claims := freeClaims, parkCount := 0 } : ArmPart)).due i)
      0 []).clearClaims_eq .b
  exact ⟨i, j, e'⟩

end

/-- Effects on both arms, one after the other. -/
theorem Part.acts_acts_arm (p : Part) (r r' : ArmPart) (flags flags' : Word) (ops ops' : List MemOp) (x : Arm) :
    ((p.acts .a r flags ops).acts .b r' flags' ops').arm x = if x = .a then r else r' := by
  cases x <;> rfl

/-! ## The start of serving (O12) -/

/-- The part as serving starts, both status blocks queued and no walk begun (R172). -/
def Part.served (p : Part) (f : Setup) : Part :=
  (((((p.opens f).clearTable f.nx f.ny f.nz).startArm f .a).startArm f .b).setCause .setup).queueStatus .a
    |>.queueStatus .b

/-- x's share then. -/
def ArmPart.served (r : ArmPart) (acfg : Nat) : ArmPart :=
  { r.unclaimed.opened acfg with chain := { resetChain with blockQueued := true } }

/-- Everything about the part as serving starts. -/
theorem Part.served_eq (p : Part) (f : Setup) : ∃ flags, p.served f =
    (((p.opens f).setTable (clearedTable f.nx f.ny f.nz)).acts .a ((p.arm .a).served (f.arm .a).acfg)
      (flags ||| causeBit .setup) [.statusWrite .a]).acts .b ((p.arm .b).served (f.arm .b).acfg) 0 [.statusWrite .b] := by
  obtain ⟨i, j, e⟩ := (p.opens f).clearTable_eq f.nx f.ny f.nz
  unfold Part.served
  rw [e]
  obtain ⟨fa, e⟩ := (((p.opens f).setTable (clearedTable f.nx f.ny f.nz)).acts .a
    (((p.opens f).arm .a).unclaimed.due i) 0 [] |>.acts .b (((p.opens f).arm .b).unclaimed.due j) 0 []).startArm_eq .a f
  rw [e]
  generalize hq : (((p.opens f).setTable (clearedTable f.nx f.ny f.nz)).acts .a
    (((p.opens f).arm .a).unclaimed.due i) 0 [] |>.acts .b (((p.opens f).arm .b).unclaimed.due j) 0 []) = q
  obtain ⟨fb, e⟩ := (q.acts .a ((q.arm .a).opened (f.arm .a).acfg) fa []).startArm_eq .b f
  rw [e, Part.setCause_eq_acts _ .a, Part.queueStatus_eq, Part.queueStatus_eq]
  refine ⟨fa ||| fb, ?_⟩
  subst hq
  simp [Part.acts, Part.withArm, Part.updArm, Part.opens, ArmPart.served, ArmPart.opened, ArmPart.unclaimed, ArmPart.due, resetArm,
    resetChain, BitVec.or_assoc]

section
variable (p : Part) (f : Setup) (x : Arm)

theorem Part.served_arm : (p.served f).arm x = (p.arm x).served (f.arm x).acfg := by
  obtain ⟨flags, e⟩ := p.served_eq f
  rw [e]
  cases x <;> rfl

theorem Part.served_ops : (p.served f).inProgress = p.inProgress ∧
    (p.served f).opQueue = p.opQueue ++ [.statusWrite .a, .statusWrite .b] ∧ ((p.served f).carries ↔ p.carries) := by
  obtain ⟨flags, e⟩ := p.served_eq f
  rw [e]
  simp [Part.opens, Part.carries]

/-- The unit's figures and registers as serving starts. -/
theorem Part.served_unit : (p.served f).unit = ((p.opens f).setTable (clearedTable f.nx f.ny f.nz)).unit ∧
    (p.served f).causeSet .setup = true := by
  obtain ⟨flags, e⟩ := p.served_eq f
  rw [e]
  refine ⟨by rw [Part.acts_unit, Part.acts_unit], Part.causeSet_of_or _ _ (p.cause ||| flags) ?_⟩
  simp [Part.opens, BitVec.or_assoc]

theorem Part.served_figures : (p.served f).engine = .serving ∧ (p.served f).figures = f := by
  obtain ⟨h, -⟩ := p.served_unit f
  have hs : ∀ u v : Part, u.unit = v.unit → u.engine = v.engine ∧ u.figures = v.figures := fun u v h =>
    ⟨(congrArg (fun q : Part => q.engine) h :), (congrArg (fun q : Part => q.figures) h :)⟩
  exact hs _ _ h

theorem Part.served_dueOps : (p.served f).dueOps x = [] := by
  unfold Part.dueOps
  rw [Part.served_arm]
  simp [ArmPart.served, resetChain]

/-- No slot is a cursor as serving starts, so each walk reads its arm's entry slot. -/
theorem Part.served_walks : (p.served f).promptReads x = [.slotRead x (f.entry x)] ∧
    (p.served f).promptFlags x = 0 ∧
    (p.served f).promptedChain x = { resetChain with blockQueued := true, walk := .readingSlot } := by
  obtain ⟨-, hfig⟩ := p.served_figures f
  have hcur : (p.served f).isCursor (f.entry x) = false := by
    have hn : ∀ y, ((p.served f).arm y).chain.cursor = none := fun y => by rw [Part.served_arm]; rfl
    show (((p.served f).arm .a).chain.cursor == _ || ((p.served f).arm .b).chain.cursor == _) = false
    rw [hn, hn]; rfl
  unfold Part.promptReads Part.promptFlags Part.walkFlags Part.promptedChain Part.walking
  rw [hfig, hcur, Part.served_arm]
  simp [ArmPart.served, resetChain]

end

/-- Settles O12. -/
theorem setupReadDecidesTheLoad : Obligations.SetupReadDecidesTheLoad := by
  unfold Obligations.SetupReadDecidesTheLoad
  intro s data first addr bytes limit h
  dsimp only
  intro he hi
  have hf : s.part.setupReadDone data first = s.part.opDone.checkSetup data first := by
    simp [Part.setupReadDone, hi, he]
  refine ⟨fun k hk => ?_, fun hq hb hk => ?_⟩
  · have hc : s.part.setupReadDone data first = (s.part.opDone.endLoad .refused k).setCause .setup := by
      rw [hf]
      simp only [Part.checkSetup, hk]
    obtain ⟨hv, ho⟩ := Part.settle_view_of_ne_serving s.part (s.part.setupReadDone data first)
      (by rw [hc]; exact fun hn => by cases hn)
    have hstart : (s.part.setupReadDone data first).startNext = s.part.setupReadDone data first := by
      rw [hc]; rfl
    rw [hstart, hc] at hv ho
    refine ⟨_, onPart_step s (fun q => q.setupReadDone data first) h.1, rfl, ?_, ?_⟩
    · rw [hc, ho]; rfl
    · rw [hc, hv]; rfl
  · have hc : s.part.setupReadDone data first = (s.part.opDone.served (readSetup data)).promptBoth first := by
      rw [hf]
      simp only [Part.checkSetup, hk]
      rfl
    generalize readSetup data = f at *
    obtain ⟨hip, hops, hcar⟩ := s.part.opDone.served_ops f
    obtain ⟨hunit, hcause⟩ := s.part.opDone.served_unit f
    obtain ⟨hue, -⟩ := s.part.opDone.served_figures f
    obtain ⟨hv, ho⟩ := (s.part.opDone.served f).settle_promptBoth first (s.part.opDone.served_dueOps f)
      (hcar.mpr (.inr hb)) hue s.part
    have harm := fun x => (s.part.opDone.served f).promptBoth_arm first x hue
    have hpart := (s.part.opDone.served f).promptBoth_eq first hue
    simp only [s.part.opDone.served_walks f, Part.served_arm, Part.opDone_arm] at harm hpart ho
    generalize s.part.opDone.served f = u at *
    have hu : (Part.settle s.part (u.promptBoth first)).unit = { s.part.unit with
        engine := .serving, outcome := .accepted, fieldNumber := 0, setup := some f
        pollTimer := if f.pollInterval = 0 then none else s.part.afterMs f.pollInterval
        publishTimer := s.part.afterMs f.publishInterval, table := clearedTable f.nx f.ny f.nz } := by
      rw [Part.unit_of_view hv, hpart, Part.acts_unit, Part.acts_unit, hunit]
      simp [Part.unit, Part.opens, Part.opDone, Part.setTable, Part.afterMs]
    have hg := fun x => Part.settle_guard hv x
    refine ⟨_, onPart_step s (fun q => q.setupReadDone data first) h.1, rfl, ?_⟩
    rw [hc]
    generalize Part.settle s.part (u.promptBoth first) = t at *
    refine ⟨(congrArg (fun q : Part => q.engine) hu :), (congrArg (fun q : Part => q.outcome) hu :),
      (congrArg (fun q : Part => q.fieldNumber) hu :), (congrArg (fun q : Part => q.setup) hu :),
      (congrArg (fun q : Part => q.serve) hu :), ?_, (congrArg (fun q : Part => q.table) hu :),
      (congrArg (fun q : Part => q.hostMem) hu :), (congrArg (fun q : Part => q.publishTimer) hu :),
      (congrArg (fun q : Part => q.pollTimer) hu :), ?_, fun x => ?_⟩
    · rw [Part.causeSet_of_view hv, ← hcause]
      unfold Part.causeSet
      rw [hpart]; simp
    · rw [ho, Part.ops, hip, hops]
      simp [Part.opDone, hq]
    · have arm : ∀ {A : Type} (g : ArmPart → A), (∀ r : ArmPart, g r.view = g r) →
          g (t.arm x) = g { (s.part.arm x).served (f.arm x).acfg with
            chain := { resetChain with blockQueued := true, walk := .readingSlot } } := fun g hg => by
        rw [Part.arm_shown hv x g hg, harm]
      refine ⟨arm _ fun _ => rfl, arm _ fun _ => rfl, arm _ fun _ => rfl, arm _ fun _ => rfl, ?_, arm _ fun _ => rfl,
        arm _ fun _ => rfl, arm _ fun _ => rfl, arm (fun r => r.chain.cursor) fun _ => rfl,
        arm (fun r => r.chain.openSlot) fun _ => rfl, arm (fun r => r.chain.walk) fun _ => rfl, arm _ fun _ => rfl,
        arm _ fun _ => rfl, arm _ fun _ => rfl, arm _ fun _ => rfl⟩
      rw [hg x, Part.lineReleased, harm]
      simp [ArmPart.served, ArmPart.opened, ArmPart.unclaimed, resetGuard, GuardState.inService]

/-! ## Effects on both arms -/

/-- Both arms' shares replaced, flags set and operations queued. -/
def Part.both (p : Part) (ra rb : ArmPart) (flags : Word) (ops : List MemOp) : Part :=
  { p with armA := ra, armB := rb, cause := p.cause ||| flags, opQueue := p.opQueue ++ ops }

section
variable (p : Part) (ra rb : ArmPart) (flags : Word) (ops : List MemOp)

/-- An effect on one arm after effects on both. -/
theorem Part.both_acts (x : Arm) (r : ArmPart) (f : Word) (o : List MemOp) : (p.both ra rb flags ops).acts x r f o =
    p.both (if x = .a then r else ra) (if x = .a then rb else r) (flags ||| f) (ops ++ o) := by
  cases x <;> simp [Part.both, Part.acts, Part.withArm, Part.updArm, BitVec.or_assoc]

theorem Part.both_self : p.both (p.arm .a) (p.arm .b) 0 [] = p := by simp [Part.both]

theorem Part.both_arm (x : Arm) : (p.both ra rb flags ops).arm x = if x = .a then ra else rb := by cases x <;> rfl

theorem Part.both_unit : (p.both ra rb flags ops).unit = p.unit := rfl

end

/-- The same arm but for the marks of its chain. -/
def ArmPart.Marked (r u : ArmPart) : Prop :=
  r = { u with chain := r.chain } ∧ r.chain.cursor = u.chain.cursor ∧ r.chain.openSlot = u.chain.openSlot

section
variable {r u : ArmPart} (h : r.Marked u)
include h

theorem ArmPart.Marked.due (k : Bool) : (r.due k).Marked u := by
  obtain ⟨e, hc, ho⟩ := h
  exact ⟨by rw [e]; rfl, hc, ho⟩

theorem ArmPart.Marked.noted (k : Bool) : (r.noted k).Marked u := by
  obtain ⟨e, hc, ho⟩ := h
  exact ⟨by rw [e]; rfl, hc, ho⟩

theorem ArmPart.Marked.replied (k : Bool) : (r.replied k).Marked u := by
  obtain ⟨e, hc, ho⟩ := h
  exact ⟨by rw [e]; rfl, hc, ho⟩

theorem ArmPart.Marked.trans {v : ArmPart} (h' : u.Marked v) : r.Marked v := by
  obtain ⟨e, hc, ho⟩ := h
  obtain ⟨e', hc', ho'⟩ := h'
  refine ⟨?_, hc.trans hc', ho.trans ho'⟩
  rw [e, e']

/-- Whatever an arm's blocks become without a look at the chain, the marks may differ before. -/
theorem ArmPart.Marked.map {f : ArmPart → ArmPart} (hf : ∀ (v : ArmPart) (c : Chain),
    f { v with chain := c } = { f v with chain := c }) : (f r).Marked (f u) := by
  obtain ⟨e, hc, ho⟩ := h
  have hr : f r = { f u with chain := r.chain } := (congrArg f e).trans (hf u r.chain)
  have hu : f u = { f u with chain := u.chain } := hf u u.chain
  have hrc : (f r).chain = r.chain := by rw [hr]
  have huc : (f u).chain = u.chain := by rw [hu]
  rw [ArmPart.Marked, hrc, huc]
  exact ⟨hr, hc, ho⟩

end

/-! ## Teardown (O14) -/

/-- The part as its teardown begins: SERVE 0, and of the queue the slot writes alone (R173). -/
def Part.tearing (p : Part) : Part := { p with opQueue := p.opQueue.filter MemOp.isSlotWrite, serve := false }

/-- What the withdrawal of an arm's open request makes of parts of both arms. -/
theorem Part.both_withdraw (p : Part) (ra rb : ArmPart) (flags : Word) (ops : List MemOp) (x : Arm) :
    ∃ r f, (p.both ra rb flags ops).withdraw x = p.both (if x = .a then r else ra) (if x = .a then rb else r) (flags ||| f)
        (ops ++ (p.both ra rb flags ops).withdrawalOps x) ∧ r.Marked (if x = .a then ra else rb).withdrawn := by
  obtain ⟨k, b, f, -, e⟩ := (p.both ra rb flags ops).withdraw_eq x
  rw [Part.both_arm] at e
  refine ⟨_, f, e.trans (Part.both_acts ..), ?_⟩
  exact ((ArmPart.Marked.due ⟨rfl, rfl, rfl⟩ k).replied b)

/-- The withdrawal answers see of the part only the engine's state, the counter and the arm's requests. -/
theorem Part.withdrawalOps_congr {p q : Part} {x : Arm} (he : p.engine = q.engine) (hn : p.now = q.now)
    (hr : { p.arm x with chain := resetChain } = ({ q.arm x with chain := resetChain } : ArmPart))
    (ho : (p.arm x).chain.openSlot = (q.arm x).chain.openSlot) : p.withdrawalOps x = q.withdrawalOps x := by
  simp only [ArmPart.mk.injEq] at hr
  obtain ⟨-, -, -, -, hw, -, hg, ht, -⟩ := hr
  unfold Part.withdrawalOps
  simp only [he, hn, ho, hw, hg, ht]

theorem Part.stops_both (p : Part) (first : Arm) : ∃ ra rb flags, p.stops first =
    p.tearing.both ra rb flags (p.withdrawalOps first ++ p.withdrawalOps first.other) ∧
    ra.Marked (p.arm .a).withdrawn ∧ rb.Marked (p.arm .b).withdrawn := by
  have e : ((p.tearing.updChain .a Chain.stopWalk).updChain .b Chain.stopWalk) = p.tearing.both
      { p.armA with chain := p.armA.chain.stopWalk } { p.armB with chain := p.armB.chain.stopWalk } 0 [] := by
    simp [Part.both, Part.updChain, Part.updArm, Part.tearing]
  have hs : p.stops first = Part.bothArms ((p.tearing.updChain .a Chain.stopWalk).updChain .b Chain.stopWalk) first
    Part.withdraw := rfl
  rw [hs, e, Part.bothArms]
  have hm : ∀ r : ArmPart, ArmPart.Marked { r with chain := r.chain.stopWalk } r := fun r => ⟨rfl, rfl, rfl⟩
  have hw : ∀ {r u v : ArmPart}, r.Marked u.withdrawn → u.Marked v → r.Marked v.withdrawn := fun h h' =>
    h.trans (h'.map fun v c => by
      unfold ArmPart.withdrawn
      dsimp only
      split <;> rfl)
  cases first
  · obtain ⟨r, f, e₁, m₁⟩ := Part.both_withdraw p.tearing { p.armA with chain := p.armA.chain.stopWalk }
      { p.armB with chain := p.armB.chain.stopWalk } 0 [] .a
    rw [e₁]
    obtain ⟨r', f', e₂, m₂⟩ := Part.both_withdraw p.tearing r { p.armB with chain := p.armB.chain.stopWalk } (0 ||| f)
      ([] ++ (p.tearing.both { p.armA with chain := p.armA.chain.stopWalk }
        { p.armB with chain := p.armB.chain.stopWalk } 0 []).withdrawalOps .a) .b
    exact ⟨r, r', _, e₂, hw m₁ (hm _), hw m₂ (hm _)⟩
  · obtain ⟨r, f, e₁, m₁⟩ := Part.both_withdraw p.tearing { p.armA with chain := p.armA.chain.stopWalk }
      { p.armB with chain := p.armB.chain.stopWalk } 0 [] .b
    rw [e₁]
    obtain ⟨r', f', e₂, m₂⟩ := Part.both_withdraw p.tearing { p.armA with chain := p.armA.chain.stopWalk } r (0 ||| f)
      ([] ++ (p.tearing.both { p.armA with chain := p.armA.chain.stopWalk }
        { p.armB with chain := p.armB.chain.stopWalk } 0 []).withdrawalOps .b) .a
    exact ⟨r', r, _, e₂, hw m₂ (hm _), hw m₁ (hm _)⟩

/-- The part in CLOSING, its table cleared (R173). -/
def Part.closing (p : Part) : Part :=
  { p.tearing with engine := .closing, pollTimer := none, publishTimer := none, table := clearedTable 0 0 0 }

/-- Everything about the part as its teardown ends: the blocks reset, the last status blocks queued. -/
theorem Part.teardown_both (p : Part) (first : Arm) : ∃ ra rb flags, p.teardown first = p.closing.both ra rb flags
      (p.withdrawalOps first ++ p.withdrawalOps first.other ++ [.statusWrite .a, .statusWrite .b]) ∧
    ra.Marked (p.arm .a).withdrawn.closed.unclaimed ∧ rb.Marked (p.arm .b).withdrawn.closed.unclaimed := by
  obtain ⟨ra, rb, flags, e, ma, mb⟩ := p.stops_both first
  have hs : p.stopped first = ({ p.tearing with engine := .closing, pollTimer := none, publishTimer := none } : Part).both
      ra rb flags (p.withdrawalOps first ++ p.withdrawalOps first.other) := by
    unfold Part.stopped
    rw [e]; rfl
  generalize hq : ({ p.tearing with engine := .closing, pollTimer := none, publishTimer := none } : Part) = q at hs
  have hc : p.closing = q.setTable (clearedTable 0 0 0) := by rw [← hq]; rfl
  obtain ⟨ja, ka, fa, ea⟩ := (p.stopped first).closeArm_eq .a
  obtain ⟨jb, kb, fb, eb⟩ := ((p.stopped first).closeArm .a).closeArm_eq .b
  obtain ⟨i, j, ec⟩ := (((p.stopped first).closeArm .a).closeArm .b).clearTable_eq 0 0 0
  have ht : ∀ ra rb f o, (q.both ra rb f o).setTable (clearedTable 0 0 0) = p.closing.both ra rb f o := fun ra rb f o => by
    rw [hc]; rfl
  have closed : ∀ r u : ArmPart, r.Marked u → ∀ j k i : Bool, ArmPart.Marked
      { ((r.closed.due j).noted k).unclaimed.due i with
        chain := { (((r.closed.due j).noted k).unclaimed.due i).chain with blockQueued := true } } u.closed.unclaimed :=
    fun r u h j k i => by
      have hm : ArmPart.Marked { ((r.closed.due j).noted k).unclaimed.due i with
          chain := { (((r.closed.due j).noted k).unclaimed.due i).chain with blockQueued := true } }
          r.closed.unclaimed := ⟨rfl, rfl, rfl⟩
      exact hm.trans (ArmPart.Marked.map (f := fun r => r.closed.unclaimed) h fun v c => rfl)
  have e := p.teardown_eq first
  rw [Part.queueStatus_eq, Part.queueStatus_eq, ec, eb, ea, hs] at e
  simp only [Part.both_acts, Part.both_arm, ht, if_true, reduceCtorEq, if_false, List.append_nil, List.append_assoc,
    List.cons_append, List.nil_append] at e
  refine ⟨_, _, _, by rw [List.append_assoc]; exact e, ?_, ?_⟩
  · exact closed _ _ ma ja ka i
  · exact closed _ _ mb jb kb j

/-- What a withdrawn request leaves of the arm: no pending RESERVE and no running test, whose result is kept. -/
theorem ArmPart.withdrawn_rest (r : ArmPart) : r.withdrawn.hold = r.hold ∧ r.withdrawn.link = r.link ∧
    r.withdrawn.chain = r.chain ∧ r.withdrawn.waiting = none ∧ r.withdrawn.test.phase = .idle ∧
    r.withdrawn.test.alrn = r.test.alrn ∧ r.withdrawn.test.last =
      if r.test.phase = .braking then some r.test.withdrawnResult else r.test.last := by
  unfold ArmPart.withdrawn
  dsimp only
  split
  · exact ⟨rfl, rfl, rfl, rfl, rfl, rfl, rfl⟩
  · next hb =>
    refine ⟨rfl, rfl, rfl, rfl, ?_, rfl, rfl⟩
    cases hp : r.test.phase with
    | idle => rfl
    | braking => exact absurd hp hb

/-- Settles O14. -/
theorem teardownEntersClosing : Obligations.TeardownEntersClosing := by
  unfold Obligations.TeardownEntersClosing
  intro s first h hc
  dsimp only
  intro he hs
  have hf : s.part.serveClear first = s.part.teardown first := by
    simp only [Part.serveClear, hs, he, if_true]
  obtain ⟨ra, rb, flags, e, ma, mb⟩ := s.part.teardown_both first
  rw [← hf] at e
  have hstep := onPart_step s (fun q => q.serveClear first) h.1
  generalize s.part.serveClear first = d at *
  obtain ⟨hv, ho⟩ := Part.settle_carries s.part d (by rw [e]; exact hc) fun _ => .inr (by rw [e]; simp [Part.both])
  have hu : (Part.settle s.part d).unit = s.part.closing.unit := by rw [Part.unit_of_view hv, e, Part.both_unit]
  have hdue : ∀ y, d.dueOps y = [] := fun y => by
    unfold Part.dueOps
    rw [e]
    exact if_neg fun hn => by cases hn.1
  rw [hdue, hdue, List.append_nil, List.append_nil] at ho
  have hg := fun x => Part.settle_guard hv x
  have harm : ∀ x, (d.arm x).Marked (s.part.arm x).withdrawn.closed.unclaimed := fun x => by
    rw [e, Part.both_arm]
    cases x
    · exact ma
    · exact mb
  have shown : ∀ {A : Type} (x : Arm) (g : ArmPart → A), (∀ r : ArmPart, g r.view = g r) →
      g ((Part.settle s.part d).arm x) = g (d.arm x) := fun x g hg => Part.arm_shown hv x g hg
  refine ⟨_, hstep, rfl, ?_⟩
  generalize Part.settle s.part d = t at *
  refine ⟨(congrArg (fun q : Part => q.engine) hu :), (congrArg (fun q : Part => q.serve) hu :),
    (congrArg (fun q : Part => q.setup) hu :), (congrArg (fun q : Part => q.outcome) hu :),
    (congrArg (fun q : Part => q.pollTimer) hu :), (congrArg (fun q : Part => q.publishTimer) hu :),
    (congrArg (fun q : Part => q.table) hu :), (congrArg (fun q : Part => q.hostMem) hu :), ?_, fun x => ?_⟩
  · rw [ho, e]
    simp [Part.ops, Part.both, Part.closing, Part.tearing]
  · obtain ⟨er, hcur, hopen⟩ := harm x
    have hline : d.lineReleased x = false := by rw [e]; rfl
    obtain ⟨hhold, hlink, hchain, hwait, hphase, halrn, hlast⟩ := (s.part.arm x).withdrawn_rest
    refine ⟨?_, ?_, ?_, ?_, ?_, ?_, ?_, ?_, ?_, ?_, ?_⟩
    · rw [hg, hline, er]
      simp [ArmPart.closed, ArmPart.unclaimed, resetGuard, hhold]
    · exact (shown x (fun r => r.monitor) fun _ => rfl).trans (by rw [er]; rfl)
    · refine (shown x (fun r => r.link) fun _ => rfl).trans ?_
      rw [er]
      simp only [ArmPart.closed, ArmPart.unclaimed, hlink]
      rfl
    · exact (shown x (fun r => r.claims) fun _ => rfl).trans (by rw [er]; rfl)
    · exact (shown x (fun r => r.parkCount) fun _ => rfl).trans (by rw [er]; rfl)
    · exact (shown x (fun r => r.waiting) fun _ => rfl).trans (by rw [er]; exact hwait)
    · exact (shown x (fun r => r.test.phase) fun _ => rfl).trans (by rw [er]; exact hphase)
    · exact (shown x (fun r => r.test.alrn) fun _ => rfl).trans (by rw [er]; exact halrn)
    · exact (shown x (fun r => r.test.last) fun _ => rfl).trans (by rw [er]; exact hlast)
    · refine (shown x (fun r => r.chain.cursor) fun _ => rfl).trans (hcur.trans ?_)
      exact congrArg Chain.cursor hchain
    · refine (shown x (fun r => r.chain.openSlot) fun _ => rfl).trans (hopen.trans ?_)
      exact congrArg Chain.openSlot hchain

/-! ## SERVE 0 while FAULTED (O15) -/

/-- An arm whose serving has ended (R176). -/
def ArmPart.retired (r : ArmPart) : ArmPart :=
  let r := if r.guard.state.inService = true then r.escalated .servingEnded else r
  { r with
    guard := { r.guard with ackTimer := none, windowTimer := none }
    monitor := { r.monitor with staleTimer := none, lossTimer := none, evaluationOwed := false }
    link := r.link.becomeQuiet }

theorem ArmPart.retired_rest (r : ArmPart) : r.retired.claims = r.claims ∧ r.retired.parkCount = r.parkCount ∧
    r.retired.link = { resetLink .quiet with onLine := r.link.onLine } := by
  unfold ArmPart.retired ArmPart.escalated
  dsimp only
  split
  · split <;> exact ⟨rfl, rfl, rfl⟩
  · exact ⟨rfl, rfl, rfl⟩

theorem Part.endFaultedArm_eq (p : Part) (x : Arm) (he : p.engine ≠ .serving) : ∃ j k flags,
    p.endFaultedArm x = p.acts x (((p.arm x).retired.due j).replied k) flags [] := by
  have hops : p.abortOps x .servingEnded = [] := by
    have hn : ∀ slot v f, p.resultOps x slot v f = [] := fun slot v f => by
      unfold Part.resultOps
      rw [if_neg (by rw [Part.answerable_iff]; exact fun h => he h.1)]
    unfold Part.abortOps Part.testOps
    split
    · split
      · exact hn _ _ _
      · rfl
    · rfl
  unfold Part.endFaultedArm ArmPart.retired
  by_cases hs : (p.arm x).guard.state.inService = true
  · refine ⟨p.marksKept, p.abortReplies x, p.stopFlags x, ?_⟩
    rw [if_pos hs, if_pos hs, Part.enterStopped_eq, hops, Part.updArm_eq_acts]
    simp [ArmPart.due, ArmPart.replied]
  · refine ⟨false, false, 0, ?_⟩
    rw [if_neg hs, if_neg hs, Part.updArm_eq_acts]
    simp [ArmPart.due, ArmPart.replied]

/-- The part in IDLE after SERVE 0 while FAULTED. -/
def Part.idled (p : Part) : Part := { p with engine := .idle, serve := false, setup := none }

theorem Part.endFaulted_both (p : Part) (first : Arm) (he : p.engine ≠ .serving) : ∃ ra rb flags,
    p.endFaulted first = p.idled.both ra rb flags [] ∧ ra.Marked (p.arm .a).retired ∧ rb.Marked (p.arm .b).retired := by
  obtain ⟨j, k, f, e⟩ := p.endFaultedArm_eq first he
  obtain ⟨j', k', f', e'⟩ := (p.endFaultedArm first).endFaultedArm_eq first.other (by rw [e]; simpa using he)
  rw [e, Part.acts_arm_other] at e'
  have hm : ∀ (r : ArmPart) (j k : Bool), ((r.due j).replied k).Marked r := fun r j k => ⟨rfl, rfl, rfl⟩
  have hend : p.endFaulted first = ((p.endFaultedArm first).endFaultedArm first.other).idled := rfl
  rw [e, e'] at hend
  rw [hend]
  cases first
  · exact ⟨_, _, f ||| f', by simp [Part.both, Part.acts, Part.withArm, Part.updArm, Part.idled, Arm.other, BitVec.or_assoc],
      hm _ j k, hm _ j' k'⟩
  · exact ⟨_, _, f ||| f', by simp [Part.both, Part.acts, Part.withArm, Part.updArm, Part.idled, Arm.other, BitVec.or_assoc],
      hm _ j' k', hm _ j k⟩

/-- Settles O15. -/
theorem faultedServingEndsInIdle : Obligations.FaultedServingEndsInIdle := by
  unfold Obligations.FaultedServingEndsInIdle
  intro s first h
  dsimp only
  intro he hs
  have hf : s.part.serveClear first = s.part.endFaulted first := by
    simp only [Part.serveClear, hs, he, if_true]
  obtain ⟨ra, rb, flags, e, ma, mb⟩ := s.part.endFaulted_both first (by rw [he]; decide)
  rw [← hf] at e
  have hstep := onPart_step s (fun q => q.serveClear first) h.1
  generalize s.part.serveClear first = d at *
  obtain ⟨hv, ho⟩ := Part.settle_view_of_ne_serving s.part d (by rw [e]; exact fun hn => by cases hn)
  have hstart : d.startNext = d := by
    cases hi : s.part.inProgress with
    | none =>
      have hq := (h.2.1.1 hi).1
      rw [e]
      simp [Part.startNext, Part.both, Part.idled, hi, hq]
    | some r =>
      rw [e]
      simp [Part.startNext, Part.both, Part.idled, hi]
  rw [hstart] at hv ho
  have hu : (Part.settle s.part d).unit = s.part.idled.unit := by rw [Part.unit_of_view hv, e, Part.both_unit]
  have hg := fun x => Part.settle_guard hv x
  have harm : ∀ x, (d.arm x).Marked (s.part.arm x).retired := fun x => by
    rw [e, Part.both_arm]
    cases x
    · exact ma
    · exact mb
  have shown : ∀ {A : Type} (x : Arm) (g : ArmPart → A), (∀ r : ArmPart, g r.view = g r) →
      g ((Part.settle s.part d).arm x) = g (d.arm x) := fun x g hg => Part.arm_shown hv x g hg
  refine ⟨_, hstep, rfl, ?_⟩
  generalize Part.settle s.part d = t at *
  refine ⟨(congrArg (fun q : Part => q.engine) hu :), (congrArg (fun q : Part => q.serve) hu :),
    (congrArg (fun q : Part => q.setup) hu :), (congrArg (fun q : Part => q.faultKind) hu :),
    (congrArg (fun q : Part => q.outcome) hu :), (congrArg (fun q : Part => q.table) hu :),
    (congrArg (fun q : Part => q.hostMem) hu :), ?_, fun x => ?_⟩
  · rw [ho, e]
    simp [Part.ops, Part.both, Part.idled]
  · obtain ⟨er, -, -⟩ := harm x
    have hline : d.lineReleased x = false := by rw [e]; rfl
    obtain ⟨hclaims, hpark, hlink⟩ := (s.part.arm x).retired_rest
    refine ⟨(shown x (fun r => r.claims) fun _ => rfl).trans ?_, (shown x (fun r => r.parkCount) fun _ => rfl).trans ?_,
      ?_, (shown x (fun r => r.monitor) fun _ => rfl).trans ?_, (shown x (fun r => r.test) fun _ => rfl).trans ?_,
      (shown x (fun r => r.link) fun _ => rfl).trans ?_⟩
    · rw [er]; exact hclaims
    · rw [er]; exact hpark
    · rw [hg, hline, er]; rfl
    · rw [er]; rfl
    · rw [er]; rfl
    · rw [er]; exact hlink

end Sys2Proof.Machine

/-! PROOFS. Memory faults (O24, O25). -/

namespace Sys2Proof.Machine

/-! ## What giving up the operation in progress leaves (R151) -/

theorem Part.dropRunning_eq (p : Part) : ∃ m k, p.dropRunning =
    { p with inProgress := none, hostMem := m, freeUsed := k } ∧ p.cutOff m := by
  refine ⟨p.dropRunning.hostMem, p.dropRunning.freeUsed, ?_, p.dropRunning_cutOff⟩
  obtain ⟨hn, e⟩ | ⟨r, -, -, e⟩ | ⟨r, -, -, e⟩ := p.dropRunning_cases <;> rw [e]
  rw [← hn]

/-- The part as a fault finds it: nothing in progress, and the inputs of the interface as the command has left them. -/
def Part.cut (p : Part) (bm msg up : Bool) (m : List Host.Cell) (k : Nat) : Part :=
  { p with busMaster := bm, msgEnable := msg, pcieUp := up, inProgress := none, hostMem := m, freeUsed := k }

/-- The kind of fault that a failing command reports (R151). -/
def failureKind (op : MemOp) (c : Instr) : FaultKind :=
  if c = .readTimeout then .readTimeout else if op.isRead then .readError else .writeError

/-- Every command that makes the operation in progress fail gives it up and takes the fault. -/
theorem failing_step {s : State} {c : Instr} {op : MemOp} {addr : Addr} {bytes : List Byte} {limit : Timer}
    (h : s.part.inReset = false) (hi : s.part.inProgress = some ⟨op, addr, bytes, limit, false⟩)
    (hc : failingCommand op c ∨ (c = .readTimeout ∧ timerDue s.part.now limit = true)) :
    ∃ bm msg up m k, s.part.cutOff m ∧ exec c s =
      .next { s with part := Part.settle s.part ((s.part.cut bm msg up m k).takeFault (failureKind op c)) } := by
  have fails : ∀ (bm msg up : Bool) (kind : MemOp → FaultKind), ∃ m k, s.part.cutOff m ∧
      ({ s.part with busMaster := bm, msgEnable := msg, pcieUp := up } : Part).failRunning kind =
        (s.part.cut bm msg up m k).takeFault (kind op) := fun bm msg up kind => by
    obtain ⟨m, k, e, hm⟩ := Part.dropRunning_eq { s.part with busMaster := bm, msgEnable := msg, pcieUp := up }
    refine ⟨m, k, hm, ?_⟩
    have hr : ({ s.part with busMaster := bm, msgEnable := msg, pcieUp := up } : Part).failRunning kind =
        ({ s.part with busMaster := bm, msgEnable := msg, pcieUp := up } : Part).dropRunning.takeFault (kind op) := by
      simp [Part.failRunning, hi]
    rw [hr, e]
    rfl
  have done : ∀ (bm msg up : Bool) (kind : MemOp → FaultKind) (f : Part → Part), kind op = failureKind op c →
      exec c s = onPart s (fun q => q.step f) →
      f s.part = ({ s.part with busMaster := bm, msgEnable := msg, pcieUp := up } : Part).failRunning kind →
      ∃ bm msg up m k, s.part.cutOff m ∧ exec c s =
        .next { s with part := Part.settle s.part ((s.part.cut bm msg up m k).takeFault (failureKind op c)) } :=
    fun bm msg up kind f hk he hf => by
      obtain ⟨m, k, hm, e⟩ := fails bm msg up kind
      exact ⟨bm, msg, up, m, k, hm, by rw [he, onPart_step s f h, hf, e, hk]⟩
  obtain (⟨hread, hf⟩ | hf | hf | hf | hf | ⟨msg, hf⟩ | hf) | ⟨hf, hdue⟩ := hc
  · have hk : MemOp.faultKind op = failureKind op c := by
      rcases hf with rfl | rfl <;> simp [failureKind, MemOp.faultKind]
    rcases hf with rfl | rfl
    · refine done s.part.busMaster s.part.msgEnable s.part.pcieUp MemOp.faultKind (fun q => q.memoryFails .errorStatus)
        hk rfl ?_
      show s.part.memoryFails .errorStatus = s.part.failRunning _
      simp only [Part.memoryFails, hi, hread, if_true]
    · refine done s.part.busMaster s.part.msgEnable s.part.pcieUp MemOp.faultKind (fun q => q.memoryFails .poisonedData)
        hk rfl ?_
      show s.part.memoryFails .poisonedData = s.part.failRunning _
      simp only [Part.memoryFails, hi, hread, if_true]
  · subst hf
    refine done false s.part.msgEnable s.part.pcieUp MemOp.faultKind (fun q => q.memoryFails .busMasteringDisabled) ?_
      rfl ?_
    · simp [failureKind, MemOp.faultKind]
    · simp [Part.memoryFails, hi, Part.losePcie]
  · subst hf
    refine done s.part.busMaster s.part.msgEnable false MemOp.faultKind (fun q => q.memoryFails .linkDown) ?_ rfl ?_
    · simp [failureKind, MemOp.faultKind]
    · simp [Part.memoryFails, hi, Part.losePcie]
  · subst hf
    refine done false s.part.msgEnable s.part.pcieUp MemOp.faultKind (fun q => q.losePcie .busMastering) ?_ rfl rfl
    simp [failureKind, MemOp.faultKind]
  · subst hf
    refine done s.part.busMaster s.part.msgEnable false MemOp.faultKind (fun q => q.losePcie .link) ?_ rfl rfl
    simp [failureKind, MemOp.faultKind]
  · subst hf
    refine done false msg s.part.pcieUp MemOp.faultKind (fun q => q.writeConfiguration false msg) ?_ rfl ?_
    · simp [failureKind, MemOp.faultKind]
    · simp [Part.writeConfiguration]
  · subst hf
    refine done s.part.busMaster s.part.msgEnable false MemOp.faultKind (fun q => q.pcieLink false) ?_ ?_ rfl
    · simp [failureKind, MemOp.faultKind]
    · simp [exec, execPcieLinkUp, onPart, h]
  · subst hf
    refine done s.part.busMaster s.part.msgEnable s.part.pcieUp (fun _ => .readTimeout) Part.readTimedOut ?_ rfl ?_
    · simp [failureKind]
    · show s.part.readTimedOut = s.part.failRunning _
      simp only [Part.readTimedOut, hi, hdue, if_true]

/-! ## A fault while SERVING (O24) -/

/-- x's share once the part is FAULTED: walks and marks ended, no pending RESERVE, an admission abandoned (R152). -/
def ArmPart.faulted (r : ArmPart) : ArmPart :=
  ({ r with chain := r.chain.closeDone, waiting := none } : ArmPart).abandoned

theorem Part.faultArm_eq (p : Part) (x : Arm) (he : p.engine = .faulted) : ∃ flags,
    p.faultArm x = p.acts x (p.arm x).faulted flags [] := by
  have hk : p.marksKept = false := by simp [Part.marksKept, he]
  unfold Part.faultArm ArmPart.faulted ArmPart.abandoned
  rw [Part.updArm_eq_acts]
  by_cases hs : (p.arm x).guard.state = .admitting
  · refine ⟨causeBit (armCause x), ?_⟩
    simp [Part.leaveAdmission_eq, hs, hk, ArmPart.due]
  · exact ⟨0, by simp [hs]⟩

/-- The unit as it enters FAULTED. -/
def Part.stricken (p : Part) (kind : FaultKind) : Part :=
  { p with engine := .faulted, faultKind := kind, opQueue := [], pollTimer := none, publishTimer := none }

theorem Part.enterFaulted_both (p : Part) (kind : FaultKind) : ∃ flags, p.enterFaulted kind =
    (p.stricken kind).both (p.arm .a).faulted (p.arm .b).faulted (causeBit .fault ||| flags) [] := by
  have hent : p.enterFaulted kind = (((p.stricken kind).setCause .fault).faultArm .a).faultArm .b := rfl
  obtain ⟨fa, ea⟩ := ((p.stricken kind).setCause .fault).faultArm_eq .a rfl
  obtain ⟨fb, eb⟩ := (((p.stricken kind).setCause .fault).faultArm .a).faultArm_eq .b (by rw [ea]; rfl)
  refine ⟨fa ||| fb, ?_⟩
  rw [hent, eb, ea, Part.setCause_eq_acts _ .a]
  simp [Part.both, Part.acts, Part.withArm, Part.updArm, Part.stricken, BitVec.or_assoc]

/-- Between two steps the stop lines of a part out of reset follow the guards. -/
theorem Part.steady.stopAsserted {p : Part} (h : p.steady) (x : Arm) :
    (p.arm x).guard.stopAsserted = !p.lineReleased x := by
  obtain ⟨hr, -, ha, hb⟩ := h
  unfold Part.stopLineLaw at ha hb
  rw [if_neg (by simp [hr])] at ha hb
  cases x
  · exact ha
  · exact hb

/-- The end of a step of a part outside SERVING that has nothing in progress and nothing queued. -/
theorem Part.settle_resting (b : Part) {d : Part} (he : d.engine ≠ .serving) (hc : d.engine ≠ .closing)
    (hi : d.inProgress = none) (hq : d.opQueue = []) :
    (Part.settle b d).view = d.view ∧ (Part.settle b d).ops = [] ∧ ∀ y, (Part.settle b d).arm y =
      { d.arm y with guard := { (d.arm y).guard with stopAsserted := !d.lineReleased y } } := by
  have hstart : d.startNext = d := by simp [Part.startNext, hi, hq, hc]
  obtain ⟨hv, ho⟩ := Part.settle_view_of_ne_serving b d he
  have ha := Part.settle_arm_of_ne_serving b d he
  rw [hstart] at hv ho ha
  exact ⟨hv, by rw [ho, Part.ops, hi, hq]; rfl, ha⟩

theorem ArmPart.faulted_rest (r : ArmPart) : r.faulted.chain = r.chain.closeDone ∧ r.faulted.claims = r.claims ∧
    r.faulted.parkCount = r.parkCount ∧ r.faulted.waiting = none ∧ r.faulted.test = r.test ∧ r.faulted.hold = r.hold := by
  unfold ArmPart.faulted ArmPart.abandoned
  split <;> exact ⟨rfl, rfl, rfl, rfl, rfl, rfl⟩

/-- Settles O24. -/
theorem faultWhileServingEntersFaulted : Obligations.FaultWhileServingEntersFaulted := by
  unfold Obligations.FaultWhileServingEntersFaulted
  intro s c op addr bytes limit h
  dsimp only
  intro he hi hc
  obtain ⟨bm, msg, up, m, k, hm, hx⟩ := failing_step h.1 hi hc
  have hf : (s.part.cut bm msg up m k).takeFault (failureKind op c) =
      (s.part.cut bm msg up m k).enterFaulted (failureKind op c) := by
    simp only [Part.takeFault, Part.cut, he]
  obtain ⟨flags, e⟩ := (s.part.cut bm msg up m k).enterFaulted_both (failureKind op c)
  rw [hf] at hx
  generalize (s.part.cut bm msg up m k).enterFaulted (failureKind op c) = d at *
  obtain ⟨hv, ho, ha⟩ := Part.settle_resting s.part (d := d) (by rw [e]; exact fun hn => by cases hn)
    (by rw [e]; exact fun hn => by cases hn) (by rw [e]; rfl) (by rw [e]; rfl)
  have hu : (Part.settle s.part d).unit = ((s.part.cut bm msg up m k).stricken (failureKind op c)).unit := by
    rw [Part.unit_of_view hv, e, Part.both_unit]
  have hcause : (Part.settle s.part d).causeSet .fault = true := by
    rw [Part.causeSet_of_view hv]
    refine Part.causeSet_of_or _ _ (s.part.cause ||| flags) ?_
    rw [e, BitVec.or_assoc, BitVec.or_comm flags]
    rfl
  have harm : ∀ x, d.arm x = (s.part.arm x).faulted := fun x => by
    rw [e, Part.both_arm]; cases x <;> rfl
  have hline : ∀ x, d.lineReleased x = (s.part.arm x).faulted.guard.state.inService := fun x => by
    rw [Part.lineReleased, harm, e]; rfl
  refine ⟨_, hx, rfl, ?_⟩
  generalize Part.settle s.part d = t at *
  refine ⟨(congrArg (fun q : Part => q.engine) hu :), (congrArg (fun q : Part => q.serve) hu :),
    (congrArg (fun q : Part => q.setup) hu :), hcause, ho, (congrArg (fun q : Part => q.faultKind) hu :),
    (congrArg (fun q : Part => q.pollTimer) hu :), (congrArg (fun q : Part => q.publishTimer) hu :),
    (congrArg (fun q : Part => q.table) hu :), ?_, fun x => ?_⟩
  · rw [show t.hostMem = m from (congrArg (fun q : Part => q.hostMem) hu :)]
    exact hm
  · obtain ⟨hchain, hclaims, hpark, hwait, htest, hhold⟩ := (s.part.arm x).faulted_rest
    rw [ha, harm, hline]
    refine ⟨hchain, hclaims, hpark, hwait, htest, hhold, fun hg => ?_, fun hg prior hp hs => ?_⟩
    · have hself : (s.part.arm x).faulted =
          { s.part.arm x with chain := (s.part.arm x).chain.closeDone, waiting := none } := if_neg hg
      have hstop := h.stopAsserted x
      rw [Part.lineReleased, Part.guarding, he] at hstop
      rw [hself]
      refine ⟨?_, rfl, rfl⟩
      show { (s.part.arm x).guard with stopAsserted := !(s.part.arm x).guard.state.inService } = (s.part.arm x).guard
      have : (s.part.arm x).guard.stopAsserted = !(s.part.arm x).guard.state.inService := by simpa using hstop
      rw [← this]
    · have hself : (s.part.arm x).faulted = ({ s.part.arm x with
          chain := (s.part.arm x).chain.closeDone, waiting := none } : ArmPart).admissionEnded prior none := by
        have : (s.part.arm x).faulted = ({ s.part.arm x with
            chain := (s.part.arm x).chain.closeDone, waiting := none } : ArmPart).admissionEnded
              ((s.part.arm x).guard.prior.getD .offline) none := if_pos hg
        rw [this, hp]; rfl
      have hstop := h.stopAsserted x
      rw [Part.lineReleased, Part.guarding, he, hg] at hstop
      rw [hself, hstop]
      show { ((s.part.arm x).admissionEnded prior none).guard with stopAsserted := !prior.inService } = _
      rw [hs]
      rfl

/-- Settles O25. -/
theorem faultsOutsideServing : Obligations.FaultsOutsideServing := by
  unfold Obligations.FaultsOutsideServing
  refine ⟨fun s c op addr bytes limit h => ?_, fun s h => ?_⟩
  · dsimp only
    intro hi hc
    obtain ⟨bm, msg, up, m, k, hm, hx⟩ := failing_step h.1 hi hc
    refine ⟨fun he hs => ?_, fun he hs => ?_⟩
    · have hf : (s.part.cut bm msg up m k).takeFault (failureKind op c) =
          { ((s.part.cut bm msg up m k).endLoad .refused 0).setCause .fault with faultKind := failureKind op c } := by
        simp only [Part.takeFault, Part.cut, he]
      rw [hf] at hx
      generalize hd : ({ ((s.part.cut bm msg up m k).endLoad .refused 0).setCause .fault with
        faultKind := failureKind op c } : Part) = d at *
      obtain ⟨hv, ho, -⟩ := Part.settle_resting s.part (d := d) (by rw [← hd]; exact fun hn => by cases hn)
        (by rw [← hd]; exact fun hn => by cases hn) (by rw [← hd]; rfl) (by rw [← hd]; rfl)
      have hcause : (Part.settle s.part d).causeSet .fault = true := by
        rw [Part.causeSet_of_view hv]
        exact Part.causeSet_of_or _ _ s.part.cause (by rw [← hd]; rfl)
      have hu := Part.unit_of_view hv
      refine ⟨_, hx, rfl, ?_⟩
      generalize Part.settle s.part d = t at *
      refine ⟨(congrArg (fun q : Part => q.engine) hu :).trans ?_, (congrArg (fun q : Part => q.serve) hu :).trans ?_,
        (congrArg (fun q : Part => q.outcome) hu :).trans ?_, (congrArg (fun q : Part => q.fieldNumber) hu :).trans ?_,
        hcause, (congrArg (fun q : Part => q.setup) hu :).trans ?_,
        (congrArg (fun q : Part => q.faultKind) hu :).trans ?_, ho⟩ <;> rw [← hd]
      · rfl
      · rfl
      · rfl
      · rfl
      · exact hs
      · rfl
    · have hf : (s.part.cut bm msg up m k).takeFault (failureKind op c) =
          { ({ s.part.cut bm msg up m k with opQueue := [] }.setCause .fault).closeDone with
            faultKind := failureKind op c } := by
        simp only [Part.takeFault, Part.cut, he]
      rw [hf] at hx
      generalize hd : ({ ({ s.part.cut bm msg up m k with opQueue := [] }.setCause .fault).closeDone with
        faultKind := failureKind op c } : Part) = d at *
      obtain ⟨hv, ho, ha⟩ := Part.settle_resting s.part (d := d) (by rw [← hd]; exact fun hn => by cases hn)
        (by rw [← hd]; exact fun hn => by cases hn) (by rw [← hd]; rfl) (by rw [← hd]; rfl)
      have hcause : (Part.settle s.part d).causeSet .fault = true := by
        rw [Part.causeSet_of_view hv]
        exact Part.causeSet_of_or _ _ s.part.cause (by rw [← hd]; rfl)
      have hu := Part.unit_of_view hv
      refine ⟨_, hx, rfl, ?_⟩
      generalize Part.settle s.part d = t at *
      refine ⟨(congrArg (fun q : Part => q.engine) hu :).trans ?_, (congrArg (fun q : Part => q.serve) hu :).trans ?_,
        (congrArg (fun q : Part => q.outcome) hu :).trans ?_, hcause, (congrArg (fun q : Part => q.setup) hu :).trans ?_,
        (congrArg (fun q : Part => q.faultKind) hu :).trans ?_, ho, fun x => ?_⟩
      · rw [← hd]; rfl
      · rw [← hd]; exact hs
      · rw [← hd]; rfl
      · rw [← hd]; rfl
      · rw [← hd]; rfl
      · rw [ha, ← hd]
        cases x <;> rfl
  · dsimp only
    refine ⟨fun hi => ⟨fun f => ?_, ?_, ?_, ?_⟩, fun r hi hdue => ?_⟩
    · exact onPart_unchanged s _ h (by simp [Part.memoryFails, hi])
    · exact onPart_unchanged s _ h (by simp [Part.readTimedOut, hi])
    · exact onPart_quiet s h (Part.failRunning_none _ _ hi) h.2.1 h.2.2 rfl id
    · exact onPart_quiet s h (Part.failRunning_none _ _ hi) h.2.1 h.2.2 rfl id
    · exact onPart_unchanged s _ h (by simp [Part.readTimedOut, hi, hdue])

end Sys2Proof.Machine

/-! PROOFS. The arm reset (O17). -/

namespace Sys2Proof.Machine

/-! ## The cells that claims hold, parked (R36) -/

/-- A cell is an arm's exactly when some number of the arm holds it. -/
theorem CellTable.owner_iff_holds {t : CellTable} (h : t.wf) (y : Arm) (c : Nat) :
    t.owner c = some y ↔ ∃ m, t.holds y m c := by
  constructor
  · intro ho
    cases hl : (t.entry c).holders with
    | nil => rw [(t.owner_none_iff h c).mpr hl] at ho; cases ho
    | cons m rest => exact ⟨m, ho, by rw [hl]; exact List.mem_cons_self⟩
  · rintro ⟨m, ho, -⟩
    exact ho

theorem CellTable.owner_of_holds {t u : CellTable} (ht : t.wf) (hu : u.wf) {c : Nat}
    (h : ∀ y, (∃ m, u.holds y m c) ↔ ∃ m, t.holds y m c) : u.owner c = t.owner c := by
  have hy : ∀ y, u.owner c = some y ↔ t.owner c = some y := fun y => by
    rw [CellTable.owner_iff_holds hu, CellTable.owner_iff_holds ht, h]
  cases ho : u.owner c with
  | some y => exact ((hy y).mp ho).symm
  | none =>
    cases hot : t.owner c with
    | none => rfl
    | some y => rw [(hy y).mpr hot] at ho; cases ho

/-- The cells that an arm owns. -/
theorem CellTable.mem_owned {t : CellTable} (h : t.wf) (x : Arm) (c : Nat) :
    c ∈ (t.cells.filter fun e => e.2.owner == some x).map Prod.fst ↔ t.owner c = some x := by
  simp only [List.mem_map, List.mem_filter, beq_iff_eq]
  constructor
  · rintro ⟨⟨d, e⟩, ⟨hm, ho⟩, rfl⟩
    unfold CellTable.owner CellTable.entry
    rw [(mem_iff_sparseFind d e _ h.1).mp hm]
    exact ho
  · intro ho
    unfold CellTable.owner CellTable.entry at ho
    cases hf : sparseFind c t.cells with
    | none => simp [hf, freeEntry] at ho
    | some e =>
      rw [hf] at ho
      exact ⟨(c, e), ⟨(mem_iff_sparseFind c e _ h.1).mpr hf, ho⟩, rfl⟩

/-- Tables of the same owners own as many cells for an arm. -/
theorem CellTable.owned_length {t u : CellTable} (ht : t.wf) (hu : u.wf) (h : ∀ c, u.owner c = t.owner c) (x : Arm) :
    (u.cells.filter fun e => e.2.owner == some x).length = (t.cells.filter fun e => e.2.owner == some x).length := by
  have hnd : ∀ {v : CellTable}, v.wf → ((v.cells.filter fun e => e.2.owner == some x).map Prod.fst).Nodup := fun hv =>
    (sparseWf_keys_nodup hv.1).sublist (List.filter_sublist.map Prod.fst)
  have hp := (List.perm_ext_iff_of_nodup (hnd hu) (hnd ht)).mpr fun c => by
    rw [CellTable.mem_owned hu, CellTable.mem_owned ht, h]
  simpa using hp.length_eq

/-- x's park count is right, and its claims lie within the table: what parking needs of the park law. -/
def Part.parkCounted (p : Part) (x : Arm) : Prop :=
  (p.arm x).parkCount = (p.table.parkCells x).length ∧
    ∀ n, n < 8 → (p.claim x n).inForce = true → (p.claim x n).box.within p.table

/-- From p to q the arbiter has parked claims of x: records have become FREE, and no cell has changed its owner. -/
def Part.Parks (p q : Part) (x : Arm) (done : List Nat) : Prop :=
  q.tableLaw ∧ (∃ t l k, q = p.moveTable x t l k) ∧ (∀ c, q.table.owner c = p.table.owner c) ∧
  q.table.nx = p.table.nx ∧ q.table.ny = p.table.ny ∧
  (∀ m, m < 8 → (q.claim x m).inForce = true → m ∉ done ∧ q.claim x m = p.claim x m) ∧
  (p.parkCounted x → (q.arm x).parkCount = (q.table.parkCells x).length)

section
variable {p q : Part} {x : Arm}

theorem Part.Parks.self (h : p.tableLaw) : p.Parks p x [] :=
  ⟨h, ⟨p.table, (p.arm x).claims, (p.arm x).parkCount, by cases x <;> rfl⟩, fun _ => rfl, rfl, rfl,
    fun _ _ _ => ⟨List.not_mem_nil, rfl⟩, fun hp => hp.1⟩

/-- Parking one claim more. -/
theorem Part.Parks.parkClaim {done : List Nat} (h : p.Parks q x done) {n : Nat} (hn : n < 8) :
    p.Parks (q.parkClaim x n) x (n :: done) := by
  obtain ⟨hq, ⟨t, l, k, e⟩, hown, hnx, hny, hfree, hcount⟩ := h
  have hlaw : (q.parkClaim x n).tableLaw := (Part.TableOk.parkClaim (k := false) ⟨hq, fun hk => by cases hk⟩ hn).1
  unfold Part.parkClaim at hlaw ⊢
  dsimp only at hlaw ⊢
  split at hlaw
  · next hf =>
    rw [if_pos hf]
    have hl : n < (q.arm x).claims.length := by rw [hq.claims_length]; exact hn
    have hm : ∀ u count, ((q.setTable u).setClaim x n freeClaim).setParkCount x count =
        q.moveTable x u ((q.arm x).claims.set n freeClaim) count := fun u count => by cases x <;> rfl
    rw [hm] at hlaw ⊢
    generalize hcs : q.table.cellsOf (some (q.claim x n).box) = cells at *
    have hheld : ∀ d ∈ cells, q.table.holds x n d := fun d hd => hq.holds hn hf (hcs ▸ hd)
    obtain ⟨hw, hx, hy, hh⟩ := CellTable.parkAll_holds hn cells q.table hq.1 fun d hd => (hheld d hd).1
    have hpark : parkNumber ≠ n := by simp only [parkNumber]; omega
    generalize hu : q.table.parkAll x n cells = u at *
    have hclaim : ∀ k m, (q.moveTable x u ((q.arm x).claims.set n freeClaim) k).claim x m =
        if m = n then freeClaim else q.claim x m := fun k m => by
      have := getD_set_ite (q.arm x).claims n m freeClaim hl
      rw [Part.claim, Part.moveTable_arm]
      exact this
    refine ⟨hlaw, ⟨u, (q.arm x).claims.set n freeClaim, _, by rw [e, Part.moveTable_moveTable]⟩, fun c => ?_, ?_, ?_,
      fun m hm hfm => ?_, fun hp => ?_⟩
    · rw [← hown c, Part.moveTable_table]
      refine CellTable.owner_of_holds hq.1 hw fun y => ?_
      simp only [hh]
      constructor
      · rintro ⟨m, ⟨hm, -⟩ | ⟨rfl, -, hc⟩⟩
        · exact ⟨m, hm⟩
        · exact ⟨n, hheld c hc⟩
      · rintro ⟨m, hm⟩
        by_cases hc : y = x ∧ m = n ∧ c ∈ cells
        · exact ⟨parkNumber, .inr ⟨hc.1, rfl, hc.2.2⟩⟩
        · exact ⟨m, .inl ⟨hm, hc⟩⟩
    · rw [Part.moveTable_table]; exact hx.trans hnx
    · rw [Part.moveTable_table]; exact hy.trans hny
    · rw [hclaim] at hfm ⊢
      split at hfm
      · simp [freeClaim, Claim.inForce] at hfm
      · next hne =>
        rw [if_neg hne]
        obtain ⟨hd, hc⟩ := hfree m hm hfm
        exact ⟨fun hmem => (List.mem_cons.mp hmem).elim hne hd, hc⟩
    · have hwithin := hp.2
      obtain ⟨-, hc⟩ := hfree n hn hf
      obtain ⟨hbx, hby⟩ := hwithin n hn (by rw [← hc]; exact hf)
      rw [← hnx, ← hc] at hbx
      rw [← hny, ← hc] at hby
      have hnd : cells.Nodup := by rw [← hcs]; exact CellBox.cells_nodup _ hbx hby
      have hsum := CellTable.parkAll_count hq.1 hn hnd hheld
      rw [hu, ← hcount hp] at hsum
      rw [Part.moveTable_table, Part.moveTable_arm]
      exact hsum.symm
  · next hf =>
    rw [if_neg hf]
    refine ⟨hq, ⟨t, l, k, e⟩, hown, hnx, hny, fun m hm hfm => ?_, hcount⟩
    obtain ⟨hd, hc⟩ := hfree m hm hfm
    exact ⟨fun hmem => (List.mem_cons.mp hmem).elim (fun hmn => hf (hmn ▸ hfm)) hd, hc⟩

/-- Parking all claims. -/
theorem Part.Parks.foldl : ∀ (l : List Nat) {done : List Nat} {q : Part}, p.Parks q x done → (∀ n ∈ l, n < 8) →
    p.Parks (l.foldl (fun q n => q.parkClaim x n) q) x (l.reverse ++ done)
  | [], _, _, h, _ => h
  | n :: rest, done, q, h, hl => by
    have := Part.Parks.foldl rest (h.parkClaim (hl n List.mem_cons_self)) fun m hm => hl m (List.mem_cons_of_mem _ hm)
    simpa using this

/-- Once all claims of x are parked, its cells are its park cells. -/
theorem Part.Parks.all (h : p.tableLaw) {t : CellTable} {l : List Claim} {k : Nat}
    (hq : p.Parks (p.moveTable x t l k) x [7, 6, 5, 4, 3, 2, 1, 0]) :
    (∀ n, n < 8 → (l.getD n freeClaim).inForce = false) ∧ (∀ c, t.owner c = p.table.owner c) ∧
      (∀ c, parkNumber ∈ (t.entry c).holders ∧ t.owner c = some x ↔ p.table.owner c = some x) ∧
      (p.parkCounted x → k = (p.table.cells.filter fun e => e.2.owner == some x).length) := by
  obtain ⟨hlaw, -, hown, -, -, hfree, hcount⟩ := hq
  rw [Part.moveTable_table] at hown
  have hclaim : ∀ n, (p.moveTable x t l k).claim x n = l.getD n freeClaim := fun n => by
    rw [Part.claim, Part.moveTable_arm]
  have hwf : t.wf := by
    have := hlaw.1
    rwa [Part.moveTable_table] at this
  have hnone : ∀ n, n < 8 → (l.getD n freeClaim).inForce = false := fun n hn => by
    rw [← hclaim]
    refine Classical.byContradiction fun hf => ?_
    obtain ⟨hno, -⟩ := hfree n hn (by simpa using hf)
    simp only [List.mem_cons, List.not_mem_nil, or_false, not_or] at hno
    omega
  have hpark : ∀ c, t.owner c = some x → parkNumber ∈ (t.entry c).holders := fun c hc => by
    obtain ⟨m, hm⟩ := (CellTable.owner_iff_holds hwf x c).mp hc
    have hle := t.entry_le hwf c m hm.2
    by_cases hm8 : m < 8
    · exact absurd (by rwa [Part.moveTable_table]) (hlaw.not_holds hm8 (by rw [hclaim]; exact hnone m hm8) c)
    · obtain rfl : m = parkNumber := by simp only [parkNumber]; omega
      exact hm.2
  refine ⟨hnone, hown, fun c => ?_, fun hp => ?_⟩
  · rw [← hown]
    exact ⟨fun h => h.2, fun h => ⟨hpark c h, h⟩⟩
  · have := hcount hp
    rw [Part.moveTable_arm, Part.moveTable_table] at this
    rw [← CellTable.owned_length h.1 hwf hown x]
    refine this.trans ?_
    unfold CellTable.parkCells
    rw [List.length_map]
    refine congrArg List.length (List.filter_congr fun e he => ?_)
    have hent : t.entry e.1 = e.2 := by
      unfold CellTable.entry
      rw [(mem_iff_sparseFind e.1 e.2 _ hwf.1).mp he]; rfl
    have := hpark e.1
    unfold CellTable.owner at this
    rw [hent] at this
    by_cases ho : e.2.owner = some x
    · simp [ho, this ho]
    · simp [ho]

end

/-! ## The reset of one arm (O17) -/

theorem Part.parkClaims_eq (p : Part) (x : Arm) (h : p.tableLaw) : ∃ t l k,
    p.parkClaims x = (p.moveTable x t l k).markDue x ∧ p.Parks (p.moveTable x t l k) x [7, 6, 5, 4, 3, 2, 1, 0] := by
  have hall := Part.Parks.foldl claimNumbers (Part.Parks.self (x := x) h) (by decide)
  obtain ⟨t, l, k, e⟩ := hall.2.1
  refine ⟨t, l, k, ?_, ?_⟩
  · unfold Part.parkClaims
    rw [e]
  · rw [← e]
    exact hall

/-- x's share after its reset (R99, R36, R74, R118, R136). -/
def ArmPart.armReset (r : ArmPart) (alrn : Nat) (l : List Claim) (k : Nat) : ArmPart :=
  { r with
    waiting := none
    claims := l
    parkCount := k
    guard := { resetGuard with reasons := { noReasons with host := r.guard.reasons.host } }
    monitor := resetMonitor
    test := resetTest alrn
    link := resetLink r.link.state }

/-- The figure that a reset stop test unit takes over. -/
def Part.alrn (p : Part) (x : Arm) : Nat :=
  match p.setup with
  | some f => (f.arm x).acfg
  | none => 0

theorem Part.acts_moveTable (p : Part) (x : Arm) (r : ArmPart) (flags : Word) (ops : List MemOp) (t : CellTable)
    (l : List Claim) (k : Nat) : (p.acts x r flags ops).moveTable x t l k =
      (p.setTable t).acts x { r with claims := l, parkCount := k } flags ops := by cases x <;> rfl

theorem Part.armReset_eq (p : Part) (x : Arm) (h : p.tableLaw) : ∃ t l k b j flags,
    p.armReset x = (p.setTable t).acts x
      ((((p.arm x).armReset (p.alrn x) l k).replied b).due j) flags (p.withdrawalOps x) ∧
    (p.engine = .serving → j = true) ∧
    (∀ n, n < 8 → (l.getD n freeClaim).inForce = false) ∧ (∀ c, t.owner c = p.table.owner c) ∧
    (∀ c, parkNumber ∈ (t.entry c).holders ∧ t.owner c = some x ↔ p.table.owner c = some x) ∧
    (p.parkLaw x → k = (p.table.cells.filter fun e => e.2.owner == some x).length) := by
  obtain ⟨i, b, f, -, ew⟩ := p.withdraw_eq x
  have hw : (p.withdraw x).table = p.table ∧ (∀ y, ((p.withdraw x).arm y).claims = (p.arm y).claims) ∧
      ((p.withdraw x).arm x).parkCount = (p.arm x).parkCount := by
    have hclaims : (p.arm x).withdrawn.claims = (p.arm x).claims ∧
        (p.arm x).withdrawn.parkCount = (p.arm x).parkCount := by
      unfold ArmPart.withdrawn
      dsimp only
      split <;> exact ⟨rfl, rfl⟩
    rw [ew]
    refine ⟨by simp, fun y => ?_, by rw [Part.acts_arm]; exact hclaims.2⟩
    rw [Part.acts_arm_ite]
    split
    · next hy => rw [hy]; exact hclaims.1
    · rfl
  obtain ⟨ht, hcl, hpc⟩ := hw
  have hlaw := Part.sameTable.law ⟨ht, hcl⟩ h
  obtain ⟨t, l, k, e, hparks⟩ := (p.withdraw x).parkClaims_eq x hlaw
  obtain ⟨hnone, hown, hcells, hcount⟩ := hparks.all hlaw
  rw [ht] at hown hcells hcount
  have hcounted : p.parkLaw x → (p.withdraw x).parkCounted x := fun hp => by
    obtain ⟨h1, -, h2, -⟩ := hp
    refine ⟨by rw [hpc, ht]; exact h1, fun n hn hf => ?_⟩
    have hc : (p.withdraw x).claim x n = p.claim x n := by unfold Part.claim; rw [hcl]
    rw [hc] at hf ⊢
    rw [ht]
    exact h2 n hn hf
  have hreset : ∃ j flags, p.armReset x = (p.setTable t).acts x
      ((((p.arm x).armReset (p.alrn x) l k).replied b).due j) flags (p.withdrawalOps x) ∧
      (p.engine = .serving → j = true) := by
    unfold Part.armReset
    dsimp only
    rw [e, ew, Part.acts_moveTable, Part.markDue_eq, Part.updArm_eq_acts]
    have hk : (p.setTable t).marksKept = p.marksKept := rfl
    split
    · refine ⟨i || p.marksKept, f, ?_, fun he => by simp [Part.marksKept, he]⟩
      rw [Part.markDue_eq]
      by_cases hb : (p.arm x).test.phase = .braking <;>
        simp [hb, hk, ArmPart.withdrawn, ArmPart.withReason, ArmPart.armReset, ArmPart.due, ArmPart.replied, Part.alrn,
          Bool.or_assoc] <;> rfl
    · refine ⟨i || p.marksKept, f ||| causeBit (armCause x), ?_, fun he => by simp [Part.marksKept, he]⟩
      rw [Part.markDue_eq, Part.setCause_eq_acts _ x]
      by_cases hb : (p.arm x).test.phase = .braking <;>
        simp [hb, hk, ArmPart.withdrawn, ArmPart.withReason, ArmPart.armReset, ArmPart.due, ArmPart.replied, Part.alrn,
          Bool.or_assoc] <;> rfl
  obtain ⟨j, flags, e', hj⟩ := hreset
  exact ⟨t, l, k, b, j, flags, e', hj, hnone, hown, hcells, fun hp => hcount (hcounted hp)⟩

/-- Settles O17. -/
theorem armResetParksAndResetsTheArm : Obligations.ArmResetParksAndResetsTheArm := by
  unfold Obligations.ArmResetParksAndResetsTheArm
  intro s x h hc ht
  obtain ⟨t, l, k, b, j, flags, e, hj, hnone, hown, hcells, hcount⟩ := s.part.armReset_eq x ht
  have hstep := onPart_step s (fun q => q.armReset x) h.1
  have hchain : (((s.part.arm x).armReset (s.part.alrn x) l k).replied b).chain.publishDue =
      (s.part.arm x).chain.publishDue := rfl
  have hdue : ∀ y, (s.part.setTable t).dueOps y = [] := fun y => by
    rw [← h.2.1.dueOps y]; cases y <;> rfl
  obtain ⟨hv, ho⟩ := Part.settle_acts_of_due (x := x)
    (r := (((s.part.arm x).armReset (s.part.alrn x) l k).replied b).due j) (flags := flags) (ops := s.part.withdrawalOps x)
    hdue (show (s.part.setTable t).carries from hc) h.2.1.closing s.part
  rw [← e] at hv ho
  have hg := Part.settle_guard hv x
  have shown : ∀ {A : Type} (g : ArmPart → A), (∀ r : ArmPart, g r.view = g r) →
      g ((Part.settle s.part (s.part.armReset x)).arm x) =
        g ((((s.part.arm x).armReset (s.part.alrn x) l k).replied b).due j) := fun g hg => by
    rw [Part.arm_shown hv x g hg]
    cases x <;> rfl
  have hother : ((Part.settle s.part (s.part.armReset x)).arm x.other).view = (s.part.arm x.other).view := by
    rw [Part.arm_view_of_view hv x.other]
    cases x <;> rfl
  have hu := Part.unit_of_view hv
  have hwu : ∀ r f, ((s.part.setTable t).withArm x r f).unit = (s.part.setTable t).unit := fun r f => by
    cases x <;> rfl
  rw [hwu] at hu
  have hline : ((s.part.setTable t).withArm x ((((s.part.arm x).armReset (s.part.alrn x) l k).replied b).due j)
      flags).lineReleased x = false := by
    unfold Part.lineReleased
    cases x <;> exact Bool.and_false _
  refine ⟨_, hstep, rfl, ?_⟩
  generalize Part.settle s.part (s.part.armReset x) = q at *
  have htable : q.table = t := (congrArg (fun q : Part => q.table) hu :)
  refine ⟨?_, shown (fun r => r.monitor) fun _ => rfl, shown (fun r => r.link) fun _ => rfl,
    shown (fun r => r.waiting) fun _ => rfl, shown (fun r => r.hold) fun _ => rfl, ?_,
    shown (fun r => r.chain.cursor) fun _ => rfl, shown (fun r => r.chain.openSlot) fun _ => rfl,
    shown (fun r => r.reports) fun _ => rfl, shown (fun r => r.notices) fun _ => rfl,
    shown (fun r => r.answers) fun _ => rfl, shown (fun r => r.figures) fun _ => rfl, ?_, fun hp => ?_, fun n hn => ?_,
    ?_, ?_, hother, (congrArg (fun q : Part => q.engine) hu :), (congrArg (fun q : Part => q.setup) hu :),
    (congrArg (fun q : Part => q.hostMem) hu :)⟩
  · rw [hg, hline]
    cases x <;> rfl
  · refine (shown (fun r => r.test) fun _ => rfl).trans ?_
    rfl
  · rw [ho]
    have hq : (s.part.setTable t).ops = s.part.ops ∧ (s.part.setTable t).engine = s.part.engine := ⟨rfl, rfl⟩
    rw [hq.1, hq.2]
    by_cases he : s.part.engine = .serving
    · rw [hj he, if_pos he, Part.statusOps]
      cases hbq : (s.part.arm x).chain.blockQueued <;> simp [he, ArmPart.due, ArmPart.replied, ArmPart.armReset, hbq]
    · simp [he]
  · rw [show (q.arm x).parkCount = k from shown (fun r => r.parkCount) fun _ => rfl]
    exact hcount hp
  · rw [Part.claim, show (q.arm x).claims = l from shown (fun r => r.claims) fun _ => rfl]
    exact hnone n hn
  · rw [htable]; exact hown
  · rw [htable]; exact hcells

end Sys2Proof.Machine

/-! PROOFS. Requests: the taking of a slot, and the requests that move one arm's blocks alone (O26, O27, O32, O34 to
O36). -/

namespace Sys2Proof.Machine

/-! ## The taking and the end of a slot read (R144, R145) -/

/-- x's share as its request is dispatched: the slot is cursor and open slot, and the status block is due. -/
def ArmPart.taken (r : ArmPart) (slot : Nat) : ArmPart :=
  ({ r with chain := { r.chain with cursor := some slot, openSlot := some slot, answered := false } } : ArmPart).due true

theorem ArmPart.taken_due (r : ArmPart) (slot : Nat) : (r.taken slot).chain.publishDue = true := Bool.or_true _

/-- A walk that has ended with its mark. -/
def ArmPart.walked (r : ArmPart) : ArmPart := { r with chain := { r.chain with walk := .none, walkAgain := false } }

theorem Part.taken_eq (p : Part) (x : Arm) (slot : Nat) (he : p.engine = .serving) :
    p.taken x slot = p.acts x ((p.arm x).taken slot) 0 (takingOps x slot p.now) := by
  unfold Part.taken
  have hk : p.marksKept = true := by simp [Part.marksKept, he]
  dsimp only
  rw [Part.updChain_eq, Part.updArm_eq_acts, Part.acts_queueOp, Part.acts_queueOp, Part.markDue_eq]
  simp [hk, ArmPart.taken, ArmPart.due, takingOps]

/-- The part as the read of x's candidate slot hands a posted request on. -/
def Part.posted (p : Part) (x : Arm) (slot : Nat) : Part := p.opDone.taken x slot

theorem Part.posted_eq (p : Part) (x : Arm) (slot : Nat) (he : p.engine = .serving) :
    p.posted x slot = p.opDone.acts x ((p.arm x).taken slot) 0 (takingOps x slot p.now) := by
  rw [← p.opDone_arm x]
  exact p.opDone.taken_eq x slot he

theorem Part.acts_busUp {p : Part} {x : Arm} {r : ArmPart} {flags : Word} {ops : List MemOp} :
    (p.acts x r flags ops).busUp ↔ p.busUp := by cases x <;> rfl

/-- A step that reads a posted slot takes it, dispatches its request, and ends the walk. -/
theorem slotRead_step {s : State} {x : Arm} {slot : Nat} {data : BitVec 512} {addr : Addr} {bytes : List Byte}
    {limit : Timer} {ab : Bool} (h : s.part.steady) (he : s.part.engine = .serving)
    (hi : s.part.inProgress = some ⟨.slotRead x slot, addr, bytes, limit, ab⟩) (hs : s.part.isCursor slot = false)
    (hf : byteAt data 0 = 1) {d : Part} (hd : (s.part.posted x slot).dispatch x slot (readSlot data) = d)
    (hde : d.engine = .serving) (hdb : d.busUp) (ho : (d.arm x).chain.openSlot.isSome = true) :
    ∃ t, exec (.slotReadComplete data) s = .next t ∧ t.pending = s.pending ∧
      t.part.ops = d.ops ++ d.dueOps .a ++ d.dueOps .b ∧ t.part.view = (d.withArm x (d.arm x).walked 0).view ∧
      t.part.linesDriven := by
  have hstep : s.part.slotReadDone data = d.endWalk x := by
    have hcur : s.part.opDone.isCursor slot = false := hs
    have hpost : (readSlot data).stage = postedStage := hf
    simp only [Part.slotReadDone, hi, he, if_true, Part.takeCandidate, hcur, Bool.false_eq_true, if_false, hpost,
      Part.takeSlot_eq]
    rw [← hd]
    rfl
  rw [Part.endWalk_open d x ho] at hstep
  have hdue : ∀ y, (d.acts x (d.arm x).walked 0 []).dueOps y = d.dueOps y := fun y => by
    unfold Part.dueOps
    rw [Part.acts_arm_ite]
    by_cases hy : y = x
    · rw [hy]; simp [ArmPart.walked]
    · simp [hy]
  obtain ⟨hv, hops⟩ := Part.settle_carries s.part (d.acts x (d.arm x).walked 0 []) (Part.acts_carries _ _ _ _ (.inr hdb))
    fun hc => by rw [Part.acts_engine, hde] at hc; cases hc
  refine ⟨_, onPart_step s (fun q => q.slotReadDone data) h.1, rfl, ?_, ?_, Part.settle_linesDriven _ _⟩
  · rw [hstep]
    refine hops.trans ?_
    rw [hdue, hdue]
    simp [Part.ops]
  · rw [hstep]
    exact hv.trans (Part.acts_view ..)

/-- A request whose dispatch moves the table and x's blocks alone. -/
theorem slotRead_acts {s : State} {x : Arm} {slot : Nat} {data : BitVec 512} {addr : Addr} {bytes : List Byte}
    {limit : Timer} {ab : Bool} (h : s.part.steady) (he : s.part.engine = .serving) (hb : s.part.busUp)
    (hi : s.part.inProgress = some ⟨.slotRead x slot, addr, bytes, limit, ab⟩) (hs : s.part.isCursor slot = false)
    (hf : byteAt data 0 = 1) {t : CellTable} {r : ArmPart} {flags : Word} {ops : List MemOp}
    (hd : (s.part.posted x slot).dispatch x slot (readSlot data) =
      (s.part.opDone.setTable t).acts x r flags (takingOps x slot s.part.now ++ ops))
    (ho : r.chain.openSlot.isSome = true) (hp : r.chain.publishDue = true)
    (hq : r.chain.blockQueued = (s.part.arm x).chain.blockQueued) :
    ∃ u, exec (.slotReadComplete data) s = .next u ∧ u.pending = s.pending ∧
      u.part.ops = s.part.opQueue ++ takingOps x slot s.part.now ++ ops ++ s.part.statusOps x ∧
      u.part.view = ((s.part.setTable t).withArm x r.walked flags).view ∧ u.part.linesDriven := by
  have hother : ∀ y, y ≠ x → ((s.part.opDone.setTable t).acts x r flags
      (takingOps x slot s.part.now ++ ops)).dueOps y = [] := fun y hy => by
    rw [← h.2.1.dueOps y]
    unfold Part.dueOps
    rw [Part.acts_arm_ite, if_neg hy, Part.acts_engine]
    cases y <;> rfl
  have hown : ((s.part.opDone.setTable t).acts x r flags (takingOps x slot s.part.now ++ ops)).dueOps x =
      s.part.statusOps x := by
    unfold Part.dueOps Part.statusOps
    rw [Part.acts_arm, Part.acts_engine, hp, hq, show (s.part.opDone.setTable t).engine = .serving from he]
    cases (s.part.arm x).chain.blockQueued <;> rfl
  obtain ⟨u, hu, hpend, hops, hview, hlines⟩ := slotRead_step h he hi hs hf hd (by rw [Part.acts_engine]; exact he)
    (Part.acts_busUp.mpr hb) (by rw [Part.acts_arm]; exact ho)
  refine ⟨u, hu, hpend, ?_, ?_, hlines⟩
  · rw [hops]
    have hq0 : ((s.part.opDone.setTable t).acts x r flags (takingOps x slot s.part.now ++ ops)).ops =
        s.part.opQueue ++ takingOps x slot s.part.now ++ ops := by
      simp [Part.ops, Part.opDone]
    rw [hq0]
    cases x
    · rw [hown, hother .b (by decide), List.append_nil]
    · rw [hown, hother .a (by decide), List.append_nil]
  · rw [hview, Part.acts_arm]
    cases x <;> simp [Part.withArm, Part.acts, Part.updArm, Part.view, Part.opDone, Part.setTable]

/-- The dispatch of a request that hands a result at once and moves nothing. -/
theorem Part.posted_handResult (p : Part) (x : Arm) (slot : Nat) (he : p.engine = .serving) (v : Verdict)
    (f : ResultFigures) : (p.posted x slot).handResult x slot v f = p.opDone.acts x (((p.arm x).taken slot).replied true) 0
      (takingOps x slot p.now ++ answerOps x slot p.now v f) := by
  have ha : (p.posted x slot).answerable x slot = true := by
    rw [p.posted_eq x slot he]
    have hd : p.opDone.engine = .serving := he
    simp [Part.answerable, hd, ArmPart.taken, ArmPart.due]
  rw [Part.handResult_eq, ha, Part.resultOps, ha, p.posted_eq x slot he, Part.acts_arm, Part.acts_acts]
  simp [Part.opDone]

/-- A request that is answered at once and moves nothing. -/
theorem slotRead_answered {s : State} {x : Arm} {slot : Nat} {data : BitVec 512} {addr : Addr} {bytes : List Byte}
    {limit : Timer} {ab : Bool} (h : s.part.steady) (he : s.part.engine = .serving) (hb : s.part.busUp)
    (hi : s.part.inProgress = some ⟨.slotRead x slot, addr, bytes, limit, ab⟩) (hs : s.part.isCursor slot = false)
    (hf : byteAt data 0 = 1) {v : Verdict} {f : ResultFigures}
    (hd : (s.part.posted x slot).dispatch x slot (readSlot data) = (s.part.posted x slot).handResult x slot v f) :
    ∃ t, exec (.slotReadComplete data) s = .next t ∧ t.pending = s.pending ∧
      t.part.ops = s.part.opQueue ++ takingOps x slot s.part.now ++ answerOps x slot s.part.now v f ++
        s.part.statusOps x ∧
      t.part.view = (s.part.withArm x { s.part.arm x with chain := { (s.part.arm x).chain with
        cursor := some slot, openSlot := some slot, answered := true, walk := .none, walkAgain := false } } 0).view := by
  rw [Part.posted_handResult _ _ _ he] at hd
  have hr : (((s.part.arm x).taken slot).replied true).walked.view = ({ s.part.arm x with
      chain := { (s.part.arm x).chain with cursor := some slot, openSlot := some slot, answered := true, walk := .none,
                                           walkAgain := false } } : ArmPart).view := by
    simp [ArmPart.view, ArmPart.walked, ArmPart.taken, ArmPart.due, ArmPart.replied]
  obtain ⟨t, ht, hpend, hops, hview, -⟩ := slotRead_acts (t := s.part.table) h he hb hi hs hf hd rfl
    (by simp [ArmPart.taken, ArmPart.due, ArmPart.replied]) rfl
  exact ⟨t, ht, hpend, hops, hview.trans (Part.withArm_view_congr _ _ _ hr)⟩

section
variable (p : Part) (x : Arm) (slot : Nat)

theorem Part.posted_arm (he : p.engine = .serving) (y : Arm) :
    (p.posted x slot).arm y = if y = x then (p.arm x).taken slot else p.arm y := by
  rw [p.posted_eq x slot he, Part.acts_arm_ite, p.opDone_arm y]

/-- What the taking leaves of the part. -/
theorem Part.posted_unit (he : p.engine = .serving) : (p.posted x slot).unit = p.unit := by
  rw [p.posted_eq x slot he, Part.acts_unit]
  rfl

theorem Part.posted_fields (he : p.engine = .serving) : (p.posted x slot).engine = .serving ∧
    (p.posted x slot).figures = p.figures ∧ (p.posted x slot).table = p.table ∧ (p.posted x slot).now = p.now ∧
    (p.posted x slot).cellstop = p.cellstop := by
  have hu := p.posted_unit x slot he
  generalize p.posted x slot = q at hu
  exact ⟨(congrArg (fun u : Part => u.engine) hu :).trans he, (congrArg (fun u : Part => u.figures) hu :),
    (congrArg (fun u : Part => u.table) hu :), (congrArg (fun u : Part => u.now) hu :),
    (congrArg (fun u : Part => u.cellstop) hu :)⟩

/-- An effect of a request on its arm, the taking with it. -/
theorem Part.posted_acts (he : p.engine = .serving) (r : ArmPart) (flags : Word) (ops : List MemOp) :
    (p.posted x slot).acts x r flags ops = p.opDone.acts x r flags (takingOps x slot p.now ++ ops) := by
  rw [p.posted_eq x slot he, Part.acts_acts]
  simp

/-- An effect of a request on its arm and the table, the taking with it. -/
theorem Part.posted_setTable_acts (he : p.engine = .serving) (t : CellTable) (r : ArmPart) (flags : Word)
    (ops : List MemOp) : ((p.posted x slot).setTable t).acts x r flags ops =
      (p.opDone.setTable t).acts x r flags (takingOps x slot p.now ++ ops) := by
  have e : (p.posted x slot).setTable t = (p.opDone.setTable t).acts x ((p.arm x).taken slot) 0
      (takingOps x slot p.now) := by
    rw [p.posted_eq x slot he]
    cases x <;> rfl
  rw [e, Part.acts_acts]
  simp

/-- x's blocks are as they were when its request is dispatched. -/
theorem Part.posted_own (he : p.engine = .serving) : (p.posted x slot).arm x = (p.arm x).taken slot := by
  rw [p.posted_arm x slot he, if_pos rfl]

end

/-! ## The kinds of request -/

section
variable (p : Part) (x : Arm) (slot : Nat) {f : SlotFields} (ha : f.arm = BitVec.ofNat 8 (armCode x))
include ha

theorem Part.dispatch_reserve (hk : f.kind = 1) : p.dispatch x slot f = p.reserve x slot f := by
  simp only [Part.dispatch, ha, ne_eq, not_true, if_false, hk]
  rfl

theorem Part.dispatch_release (hk : f.kind = 2) : p.dispatch x slot f = p.release x slot f.tag := by
  simp only [Part.dispatch, ha, ne_eq, not_true, if_false, hk]
  rfl

theorem Part.dispatch_readmit (hk : f.kind = 3) : p.dispatch x slot f = p.readmit x slot := by
  simp only [Part.dispatch, ha, ne_eq, not_true, if_false, hk]
  rfl

theorem Part.dispatch_releasePark (hk : f.kind = 4) : p.dispatch x slot f = p.releasePark x slot := by
  simp only [Part.dispatch, ha, ne_eq, not_true, if_false, hk]
  rfl

theorem Part.dispatch_stopTest (hk : f.kind = 5) : p.dispatch x slot f = p.stopTest x slot := by
  simp only [Part.dispatch, ha, ne_eq, not_true, if_false, hk]
  rfl

theorem Part.dispatch_ackBreach (hk : f.kind = 6) : p.dispatch x slot f = p.ackBreach x slot := by
  simp only [Part.dispatch, ha, ne_eq, not_true, if_false, hk]
  rfl

theorem Part.dispatch_clearWatermarks (hk : f.kind = 7) : p.dispatch x slot f = p.clearWatermarks x slot := by
  simp only [Part.dispatch, ha, ne_eq, not_true, if_false, hk]
  rfl

end

/-! ## Wrong arms and bad kinds (O26) -/

theorem dispatch_arm {data : BitVec 512} {x : Arm} (h : (byteAt data 2).toNat = armCode x) :
    (readSlot data).arm = BitVec.ofNat 8 (armCode x) := by
  refine BitVec.eq_of_toNat_eq ?_
  have hx : armCode x < 2 := by cases x <;> decide
  rw [BitVec.toNat_ofNat, Nat.mod_eq_of_lt (by omega)]
  exact h

/-- Settles O26. -/
theorem dispatchRefusesWrongArmAndBadKind : Obligations.DispatchRefusesWrongArmAndBadKind := by
  unfold Obligations.DispatchRefusesWrongArmAndBadKind
  intro s x slot data addr bytes limit ab h
  dsimp only
  intro he hb hi hs hf
  refine ⟨fun harm => slotRead_answered h he hb hi hs hf ?_, fun harm hkind => slotRead_answered h he hb hi hs hf ?_⟩
  · refine if_pos fun hx => harm ?_
    have := congrArg BitVec.toNat hx
    refine Eq.trans this ?_
    cases x <;> rfl
  · have hk : kindOf (readSlot data).kind = none := by
      have hb : (byteAt data 1).toNat = 0 ∨ 7 < (byteAt data 1).toNat := hkind.imp_left fun hz => by rw [hz]; rfl
      have hne : ∀ k : Nat, 1 ≤ k → k ≤ 7 → (readSlot data).kind ≠ BitVec.ofNat 8 k := fun k h1 h7 hk => by
        have hto : (byteAt data 1).toNat = k := by
          rw [show byteAt data 1 = BitVec.ofNat 8 k from hk, BitVec.toNat_ofNat, Nat.mod_eq_of_lt (by omega)]
        omega
      simp [kindOf, hne 1, hne 2, hne 3, hne 4, hne 5, hne 6, hne 7]
    unfold Part.dispatch
    rw [if_neg (by simpa using dispatch_arm harm), hk]

/-! ## The checks of a RESERVE (O27) -/

theorem slotFields_boxOk (f : SlotFields) : f.boxOk = true ↔ f.boxMin.x.toInt ≤ f.boxMax.x.toInt ∧
    f.boxMin.y.toInt ≤ f.boxMax.y.toInt ∧ f.boxMin.z.toInt ≤ f.boxMax.z.toInt := by
  simp [SlotFields.boxOk, BitVec.sle_iff_toInt_le, and_assoc]

theorem claimMode_none_iff (m : Byte) : claimMode m = none ↔ 1 < m.toNat := by
  have h : ∀ k : Nat, k < 2 → (m = BitVec.ofNat 8 k ↔ m.toNat = k) := fun k hk => by
    rw [← BitVec.toNat_inj, BitVec.toNat_ofNat, Nat.mod_eq_of_lt (by omega)]
  have h0 : m = 0 ↔ m.toNat = 0 := h 0 (by omega)
  have h1 : m = 1 ↔ m.toNat = 1 := h 1 (by omega)
  unfold claimMode
  by_cases hz : m = 0
  · have := h0.mp hz
    simp [hz]
  · rw [if_neg hz]
    by_cases ho : m = 1
    · simp [ho]
    · rw [if_neg ho]
      have := mt h0.mpr hz
      have := mt h1.mpr ho
      exact ⟨fun _ => by omega, fun _ => rfl⟩

theorem tagInForce_iff (l : List Claim) (tag : Half) :
    tagInForce l tag = false ↔ ∀ c ∈ l, c.inForce = true → c.tag ≠ tag := by
  simp [tagInForce]

theorem freeRecord_none_iff (l : List Claim) : freeRecord l = none ↔ ∀ c ∈ l, c.inForce = true := by
  simp [freeRecord]

/-! The branches of a RESERVE, in the order of its checks (R43). -/

section
variable (p : Part) (x : Arm) (slot : Nat) (f : SlotFields)

theorem Part.reserve_offline (h : (p.arm x).guard.state = .offline) :
    p.reserve x slot f = p.handResult x slot .notAdmitted emptyReserve := if_pos h

variable (h : (p.arm x).guard.state ≠ .offline)
include h

theorem Part.reserve_badBox (hb : f.boxOk = false) :
    p.reserve x slot f = p.handResult x slot .badBox emptyReserve := by
  simp only [Part.reserve, h, hb, if_false, Bool.not_false, if_true]

variable (hb : f.boxOk = true)
include hb

theorem Part.reserve_badField (hm : claimMode f.mode = none) :
    p.reserve x slot f = p.handResult x slot .badField emptyReserve := by
  simp only [Part.reserve, h, hb, hm, if_false, Bool.not_true, Bool.false_eq_true]

variable {mode : ClaimMode} (hm : claimMode f.mode = some mode)
include hm

theorem Part.reserve_duplicateTag (ht : tagInForce (p.arm x).claims f.tag = true) :
    p.reserve x slot f = p.handResult x slot .duplicateTag emptyReserve := by
  simp only [Part.reserve, h, hb, hm, ht, if_false, if_true, Bool.not_true, Bool.false_eq_true]

variable (ht : tagInForce (p.arm x).claims f.tag = false)
include ht

theorem Part.reserve_outside (hz : p.zoneOf x f = none) :
    p.reserve x slot f = p.handResult x slot .outside emptyReserve := by
  simp only [Part.reserve, h, hb, hm, ht, hz, if_false, Bool.not_true, Bool.false_eq_true]

variable {b : CellBox} (hz : p.zoneOf x f = some b)
include hz

theorem Part.reserve_noClaim (hn : freeRecord (p.arm x).claims = none) :
    p.reserve x slot f = p.handResult x slot .noClaim (.reserve none false (some b) b.size 0 none 0) := by
  simp only [Part.reserve, h, hb, hm, ht, hz, hn, if_false, Bool.not_true, Bool.false_eq_true]

theorem Part.reserve_evaluated {n : Nat} (hn : freeRecord (p.arm x).claims = some n) :
    p.reserve x slot f = p.evaluateReserve x slot f mode b n := by
  simp only [Part.reserve, h, hb, hm, ht, hz, hn, if_false, Bool.not_true, Bool.false_eq_true]

end

theorem Part.evaluateReserve_granted {p : Part} {x : Arm} {slot n : Nat} {f : SlotFields} {mode : ClaimMode} {b : CellBox}
    (hc : p.conflictCells x b = []) : p.evaluateReserve x slot f mode b n =
      (p.fillClaim x n (grantedClaim f.tag mode b b.size p.now slot)).handResult x slot .granted
        (.reserve (some n) false (some b) b.size 0 none 0) := by
  simp only [Part.evaluateReserve, hc]

theorem Part.evaluateReserve_blocked {p : Part} {x : Arm} {slot n c : Nat} {rest : List Nat} {f : SlotFields}
    {mode : ClaimMode} {b : CellBox} (hc : p.conflictCells x b = c :: rest) (hw : f.wait = 0) :
    p.evaluateReserve x slot f mode b n =
      p.handResult x slot .blocked (.reserve none false (some b) b.size (c :: rest).length (some c) 0) := by
  simp only [Part.evaluateReserve, hc, hw, if_true]

theorem Part.evaluateReserve_waits {p : Part} {x : Arm} {slot n c : Nat} {rest : List Nat} {f : SlotFields}
    {mode : ClaimMode} {b : CellBox} (hc : p.conflictCells x b = c :: rest) (hw : f.wait ≠ 0) :
    p.evaluateReserve x slot f mode b n = p.startWaiting x slot f mode b (c :: rest) := by
  simp only [Part.evaluateReserve, hc, hw, if_false]

/-- What the taking leaves a RESERVE to see. -/
theorem Part.posted_zoneOf (p : Part) (x : Arm) (slot : Nat) (he : p.engine = .serving) (f : SlotFields) (b : CellBox) :
    (p.posted x slot).zoneOf x f = p.zoneOf x f ∧ (p.posted x slot).conflictCells x b = p.conflictCells x b := by
  obtain ⟨-, hfig, htab, -, -⟩ := p.posted_fields x slot he
  have harm := p.posted_own x slot he
  constructor
  · unfold Part.zoneOf
    rw [hfig, harm]
    rfl
  · unfold Part.conflictCells
    rw [htab]

/-- Settles O27. -/
theorem reserveChecksInOrder : Obligations.ReserveChecksInOrder := by
  unfold Obligations.ReserveChecksInOrder
  intro s x slot data addr bytes limit ab h
  dsimp only
  intro he hb hi hs hf harm hkind
  have hd : ∀ v g, (s.part.posted x slot).reserve x slot (readSlot data) = (s.part.posted x slot).handResult x slot v g →
      ∃ t, exec (.slotReadComplete data) s = .next t ∧ t.pending = s.pending ∧
      t.part.ops = s.part.opQueue ++ takingOps x slot s.part.now ++ answerOps x slot s.part.now v g ++
        s.part.statusOps x ∧
      t.part.view = (s.part.withArm x { s.part.arm x with chain := { (s.part.arm x).chain with
        cursor := some slot, openSlot := some slot, answered := true, walk := .none, walkAgain := false } } 0).view :=
    fun v g e => slotRead_answered h he hb hi hs hf
      (((s.part.posted x slot).dispatch_reserve x slot (dispatch_arm harm) hkind).trans e)
  have hown := s.part.posted_own x slot he
  have hguard : ((s.part.posted x slot).arm x).guard = (s.part.arm x).guard := by rw [hown]; rfl
  have hclaims : ((s.part.posted x slot).arm x).claims = (s.part.arm x).claims := by rw [hown]; rfl
  have hz := fun b => s.part.posted_zoneOf x slot he (readSlot data) b
  generalize s.part.posted x slot = q at *
  have hmode : (readSlot data).mode.toNat ≤ 1 → ∃ mode, claimMode (readSlot data).mode = some mode := fun hle => by
    cases hm : claimMode (readSlot data).mode with
    | some mode => exact ⟨mode, rfl⟩
    | none => have := (claimMode_none_iff _).mp hm; omega
  refine ⟨fun hg => hd _ _ (q.reserve_offline x slot _ (by rw [hguard]; exact hg)), fun hg hbox => hd _ _ ?_,
    fun hg hbox hm => hd _ _ ?_, fun hg hbox hm hfresh => hd _ _ ?_, fun hg hbox hm hfresh => ?_⟩
  · rw [← hguard] at hg
    exact q.reserve_badBox x slot _ hg (by rw [← Bool.not_eq_true, slotFields_boxOk]; exact hbox)
  · rw [← hguard] at hg
    exact q.reserve_badField x slot _ hg ((slotFields_boxOk _).mpr hbox) ((claimMode_none_iff _).mpr hm)
  · rw [← hguard] at hg
    obtain ⟨mode, hmode⟩ := hmode hm
    refine q.reserve_duplicateTag x slot _ hg ((slotFields_boxOk _).mpr hbox) hmode ?_
    rw [← Bool.not_eq_false, tagInForce_iff, hclaims]
    exact hfresh
  · rw [← hguard] at hg
    obtain ⟨mode, hmode⟩ := hmode hm
    have hok := (slotFields_boxOk (readSlot data)).mpr hbox
    have htag : tagInForce (q.arm x).claims (readSlot data).tag = false := by
      rw [tagInForce_iff, hclaims]; exact hfresh
    refine ⟨fun hzone => hd _ _ ?_, fun b hzone => ⟨fun hall => hd _ _ ?_, fun hsome hw c rest hc => hd _ _ ?_⟩⟩
    · exact q.reserve_outside x slot _ hg hok hmode htag (by rw [(hz zeroBox).1]; exact hzone)
    · refine q.reserve_noClaim x slot _ hg hok hmode htag (by rw [(hz zeroBox).1]; exact hzone) ?_
      rw [freeRecord_none_iff, hclaims]; exact hall
    · have hrec : ∃ n, freeRecord (q.arm x).claims = some n := by
        cases hn : freeRecord (q.arm x).claims with
        | some n => exact ⟨n, rfl⟩
        | none =>
          rw [freeRecord_none_iff, hclaims] at hn
          obtain ⟨d, hmem, hfree⟩ := hsome
          rw [hn d hmem] at hfree; cases hfree
      obtain ⟨n, hn⟩ := hrec
      rw [q.reserve_evaluated x slot _ hg hok hmode htag (by rw [(hz zeroBox).1]; exact hzone) hn]
      exact Part.evaluateReserve_blocked (by rw [(hz b).2]; exact hc) hw

end Sys2Proof.Machine

/-! PROOFS. Requests that move one arm's blocks alone (O32, O34 to O36). -/

namespace Sys2Proof.Machine

section
variable {s : State} {x : Arm} {slot : Nat} {data : BitVec 512} {addr : Addr} {bytes : List Byte} {limit : Timer}
  {ab : Bool} (h : s.part.steady) (he : s.part.engine = .serving) (hb : s.part.busUp)
  (hi : s.part.inProgress = some ⟨.slotRead x slot, addr, bytes, limit, ab⟩) (hs : s.part.isCursor slot = false)
  (hf : byteAt data 0 = 1)
include h he hb hi hs hf

/-- A request whose dispatch moves x's blocks alone, `r` being its share but for the marks. -/
theorem slotRead_effect {u : ArmPart} {flags : Word} {ops : List MemOp}
    (hd : (s.part.posted x slot).dispatch x slot (readSlot data) =
      s.part.opDone.acts x u flags (takingOps x slot s.part.now ++ ops))
    (ho : u.chain.openSlot.isSome = true) (hp : u.chain.publishDue = true)
    (hq : u.chain.blockQueued = (s.part.arm x).chain.blockQueued) {r : ArmPart} (hr : u.walked.view = r.view) :
    ∃ t, exec (.slotReadComplete data) s = .next t ∧ t.pending = s.pending ∧
      t.part.ops = s.part.opQueue ++ takingOps x slot s.part.now ++ ops ++ s.part.statusOps x ∧
      t.part.view = (s.part.withArm x r flags).view := by
  obtain ⟨t, ht, hpend, hops, hview, -⟩ := slotRead_acts (t := s.part.table) h he hb hi hs hf hd ho hp hq
  exact ⟨t, ht, hpend, hops, hview.trans (Part.withArm_view_congr _ _ _ hr)⟩

end

/-! ## READMIT (O32) -/

theorem Part.readmit_starts (p : Part) (x : Arm) (slot : Nat) (he : p.engine = .serving)
    (hg : (p.arm x).guard.state = .offline ∨ (p.arm x).guard.state = .stopped) (hc : p.cellstop = false) :
    p.readmit x slot = p.acts x (({ p.arm x with guard := { (p.arm x).guard with
      state := .admitting, admissionSlot := some slot, prior := some (p.arm x).guard.state, count := 0, unpaired := []
      windowTimer := some (p.now + BitVec.ofNat 32 (p.figures.admitWindow * 1000)) } } : ArmPart).due true)
      (causeBit (armCause x)) (noticeOps x slot (.readmit .offline noReasons 0 (p.arm x).guard.state 0 0 false)) := by
  have hk : p.marksKept = true := by simp [Part.marksKept, he]
  unfold Part.readmit
  dsimp only
  rw [if_pos ⟨hg, by simp [hc]⟩, Part.updGuard_eq, Part.updArm_eq_acts, Part.guardChanged_eq, Part.waitingNotice_eq]
  · simp [hk, ArmPart.due, Part.afterMs, timerAt]
  · simpa using he

/-- Settles O32. -/
theorem readmitStartsAnAdmission : Obligations.ReadmitStartsAnAdmission := by
  unfold Obligations.ReadmitStartsAnAdmission
  intro s x slot data addr bytes limit ab h
  dsimp only
  intro he hb hi hs hf harm hkind
  have hdis := (s.part.posted x slot).dispatch_readmit x slot (f := readSlot data) (dispatch_arm harm) hkind
  obtain ⟨hpe, hpf, -, hpn, hpc⟩ := s.part.posted_fields x slot he
  have hown := s.part.posted_own x slot he
  by_cases hg : ((s.part.arm x).guard.state = .offline ∨ (s.part.arm x).guard.state = .stopped) ∧ s.part.cellstop = false
  · rw [Part.readmit_starts _ x slot hpe (by rw [hown]; exact hg.1) (by rw [hpc]; exact hg.2), hown, hpn, hpf,
      s.part.posted_acts x slot he] at hdis
    obtain ⟨t, ht, hpend, hops, hview⟩ := slotRead_effect h he hb hi hs hf hdis rfl (Bool.or_true _) rfl rfl
    refine ⟨t, ht, hpend, fun _ _ => ⟨hops, hview.trans (Part.withArm_view_congr _ _ _ rfl)⟩,
      fun hn => ?_⟩
    rcases hn with hn | hn
    · exact absurd hg.1 hn
    · rw [hg.2] at hn; cases hn
  · have hres : (s.part.posted x slot).readmit x slot = (s.part.posted x slot).handResult x slot .notAllowed
        (.readmit (s.part.arm x).guard.state noReasons 0 .offline 0 0 s.part.cellstop) := by
      unfold Part.readmit
      dsimp only
      rw [hown, hpc, if_neg (by simpa [ArmPart.taken, ArmPart.due] using hg)]
      rfl
    obtain ⟨t, ht, hpend, hops, hview⟩ := slotRead_answered h he hb hi hs hf (hdis.trans hres)
    refine ⟨t, ht, hpend, fun h1 h2 => absurd ⟨h1, h2⟩ hg, fun _ => ⟨hops, hview⟩⟩

/-! ## CLEAR_WATERMARKS (O36) -/

/-- Settles O36. -/
theorem clearWatermarksReportsAndClears : Obligations.ClearWatermarksReportsAndClears := by
  unfold Obligations.ClearWatermarksReportsAndClears
  intro s x slot data addr bytes limit ab h
  dsimp only
  intro he hb hi hs hf harm hkind
  have hdis := (s.part.posted x slot).dispatch_clearWatermarks x slot (f := readSlot data) (dispatch_arm harm) hkind
  obtain ⟨hpe, -, -, hpn, -⟩ := s.part.posted_fields x slot he
  have hown := s.part.posted_own x slot he
  have hk : (s.part.posted x slot).marksKept = true := by simp [Part.marksKept, hpe]
  have hres : (s.part.posted x slot).clearWatermarks x slot = (s.part.posted x slot).acts x
      ((({ (s.part.arm x).taken slot with monitor := { (s.part.arm x).monitor with
        minClearance := 65535, maxSpeed := 0, maxMargin := 0 } } : ArmPart).noted true).replied true) 0
      (answerOps x slot s.part.now .cleared (.watermarks (s.part.arm x).monitor.minClearance
        (s.part.arm x).monitor.maxSpeed (s.part.arm x).monitor.maxMargin)) := by
    unfold Part.clearWatermarks
    dsimp only
    rw [Part.updMonitor_eq, Part.updArm_eq_acts, Part.markChanged_eq, Part.handResult_eq, hown]
    simp [Part.answerable, Part.resultOps, hk, hpe, hpn, ArmPart.noted, ArmPart.taken, ArmPart.due]
  rw [hres, s.part.posted_acts x slot he] at hdis
  exact slotRead_effect h he hb hi hs hf hdis rfl (ArmPart.taken_due _ slot) rfl rfl

/-! ## STOP_TEST (O34) -/

theorem Part.stopTest_starts (p : Part) (x : Arm) (slot : Nat) (he : p.engine = .serving)
    (hg : (p.arm x).guard.state = .running) (hv : p.figures.testMinSpeed ≤ (p.arm x).test.seen.speed)
    (ht : (p.arm x).guard.reasons.test = false) : p.stopTest x slot =
      p.acts x (((p.testingArm (p.arm x) slot).due true).due true) (causeBit (armCause x))
        (noticeOps x slot (.testStarted (p.arm x).test.seen.speed (p.arm x).test.seen.time)) := by
  have hk : p.marksKept = true := by simp [Part.marksKept, he]
  unfold Part.stopTest
  dsimp only
  rw [if_neg (Classical.not_not.mpr hg), if_neg (by omega), Part.startTest_eq x slot hg ht, Part.waitingNotice_eq]
  · simp [hk]
  · simpa using he

/-- Settles O34. -/
theorem stopTestStartsFromTheLastFigures : Obligations.StopTestStartsFromTheLastFigures := by
  unfold Obligations.StopTestStartsFromTheLastFigures
  intro s x slot data addr bytes limit ab h
  dsimp only
  intro he hb hi hs hf harm hkind
  have hdis := (s.part.posted x slot).dispatch_stopTest x slot (f := readSlot data) (dispatch_arm harm) hkind
  obtain ⟨hpe, hpf, -, hpn, -⟩ := s.part.posted_fields x slot he
  have hown := s.part.posted_own x slot he
  have hstate : ((s.part.posted x slot).arm x).guard.state = (s.part.arm x).guard.state := by rw [hown]; rfl
  have hseen : ((s.part.posted x slot).arm x).test.seen = (s.part.arm x).test.seen := by rw [hown]; rfl
  by_cases hg : (s.part.arm x).guard.state = .running
  · by_cases hv : (s.part.arm x).test.seen.speed < s.part.figures.testMinSpeed
    · have hres : (s.part.posted x slot).stopTest x slot = (s.part.posted x slot).handResult x slot .tooSlow
          (.testTooSlow (s.part.arm x).test.seen.speed s.part.figures.testMinSpeed) := by
        unfold Part.stopTest
        dsimp only
        rw [hstate, hseen, hpf, if_neg (Classical.not_not.mpr hg), if_pos hv]
      obtain ⟨t, ht, hpend, hops, hview⟩ := slotRead_answered h he hb hi hs hf (hdis.trans hres)
      exact ⟨t, ht, hpend, fun hn => absurd hg hn, fun _ _ => ⟨hops, hview⟩, fun _ hn => absurd hv (by omega)⟩
    · by_cases htest : (s.part.arm x).guard.reasons.test = false
      · have hres := Part.stopTest_starts (s.part.posted x slot) x slot hpe (hstate.trans hg)
          (by rw [hpf, hseen]; omega) (by rw [hown]; exact htest)
        rw [hown, s.part.posted_acts x slot he] at hres
        obtain ⟨t, ht, hpend, hops, hview⟩ := slotRead_effect h he hb hi hs hf (hdis.trans hres) rfl (Bool.or_true _) rfl
          rfl
        refine ⟨t, ht, hpend, fun hn => absurd hg hn, fun _ hn => absurd hn hv, fun _ _ _ => ⟨hops, ?_⟩⟩
        refine hview.trans (Part.withArm_view_congr _ _ _ ?_)
        unfold Part.testingArm Part.holdsArm
        rw [hpn, hpf]
        rfl
      · exact ⟨_, onPart_step s (fun q => q.slotReadDone data) h.1, rfl, fun hn => absurd hg hn, fun _ hn => absurd hn hv,
          fun _ _ hn => absurd hn htest⟩
  · have hres : (s.part.posted x slot).stopTest x slot = (s.part.posted x slot).handResult x slot .busy
        (.testBusy (s.part.arm x).guard.state) := by
      unfold Part.stopTest
      dsimp only
      rw [hstate, if_pos hg]
    obtain ⟨t, ht, hpend, hops, hview⟩ := slotRead_answered h he hb hi hs hf (hdis.trans hres)
    exact ⟨t, ht, hpend, fun _ => ⟨hops, hview⟩, fun hn => absurd hn hg, fun hn => absurd hn hg⟩

/-! ## ACK_BREACH (O35) -/

/-- An arm from whose set reason q has gone: a HELD arm resumes when the set empties (R93). -/
def ArmPart.without (r : ArmPart) (q : HoldReason) : ArmPart :=
  if r.guard.state = .held ∧ r.guard.reasons.put false q = noReasons then r.resumed q else r.withReason false q

theorem ArmPart.without_rest (r : ArmPart) (q : HoldReason) : (r.without q).chain = r.chain ∧
    (r.without q).guard.reasons = r.guard.reasons.put false q := by
  unfold ArmPart.without
  split <;> exact ⟨rfl, rfl⟩

theorem ArmPart.without_chain (r : ArmPart) (q : HoldReason) (c : Chain) :
    ({ r with chain := c } : ArmPart).without q = { r.without q with chain := c } := by
  unfold ArmPart.without
  dsimp only
  split <;> rfl

theorem Part.removeReason_eq (p : Part) (x : Arm) (q : HoldReason) (h : (p.arm x).guard.reasons.has q = true) :
    p.removeReason x q = p.acts x (((p.arm x).without q).due p.marksKept) (causeBit (armCause x)) [] := by
  unfold ArmPart.without
  split
  · next hl => exact p.removeReason_last x q h hl.1 hl.2
  · next hl => exact p.removeReason_staying x q h hl

theorem CellTable.foreignTouch_iff (t : CellTable) (x : Arm) (cells : List Nat) :
    t.foreignTouch x cells = false ↔ ∀ c ∈ cells, t.owner c ≠ some x.other := by
  simp [CellTable.foreignTouch]

/-- x's envelope is known, fresh, and clear of foreign cells. -/
def Part.breachClear (p : Part) (x : Arm) : Prop :=
  ∃ e, (p.arm x).monitor.known = true ∧ (p.arm x).monitor.stale = false ∧ (p.arm x).monitor.envelope = some e ∧
    ∀ c ∈ p.table.cellsOf e.cells, p.table.owner c ≠ some x.other

section
variable (p : Part) (x : Arm) (slot : Nat)

theorem Part.ackBreach_absent (hb : (p.arm x).guard.reasons.breach = false) :
    p.ackBreach x slot = p.handResult x slot .notBreached .none := by
  unfold Part.ackBreach
  dsimp only
  rw [if_pos (by simp [hb])]

theorem Part.ackBreach_unclear (hb : (p.arm x).guard.reasons.breach = true) (hc : ¬ p.breachClear x) :
    p.ackBreach x slot = p.handResult x slot .stillBreaching .none := by
  unfold Part.ackBreach
  dsimp only
  rw [if_neg (by simp [hb])]
  split
  · rfl
  · next cells hk =>
    refine if_pos ?_
    refine Classical.byContradiction fun hno => ?_
    simp only [Bool.or_eq_true, not_or, Bool.not_eq_true, CellTable.foreignTouch_iff] at hno
    refine hc ?_
    unfold Monitor.knownCells at hk
    split at hk
    · next hkn =>
      obtain ⟨e, he, rfl⟩ := Option.map_eq_some_iff.mp hk
      exact ⟨e, hkn, hno.1, he, hno.2⟩
    · cases hk

theorem Part.ackBreach_clear (hb : (p.arm x).guard.reasons.breach = true) (hc : p.breachClear x) :
    p.ackBreach x slot = (p.removeReason x .breach).handResult x slot .acknowledged
      (.holdReasons ((p.removeReason x .breach).arm x).guard.reasons) := by
  obtain ⟨e, hkn, hst, he, hcl⟩ := hc
  have hk : (p.arm x).monitor.knownCells = some e.cells := by simp [Monitor.knownCells, hkn, he]
  have hf := (p.table.foreignTouch_iff x (p.table.cellsOf e.cells)).mpr hcl
  simp only [Part.ackBreach, hb, hk, hst, hf, Bool.not_true, Bool.false_eq_true, if_false, Bool.or_false]

end

/-- Settles O35. -/
theorem ackBreachNeedsAClearFreshEnvelope : Obligations.AckBreachNeedsAClearFreshEnvelope := by
  unfold Obligations.AckBreachNeedsAClearFreshEnvelope
  intro s x slot data addr bytes limit ab h
  dsimp only
  intro he hb hi hs hf harm hkind
  have hdis := (s.part.posted x slot).dispatch_ackBreach x slot (f := readSlot data) (dispatch_arm harm) hkind
  obtain ⟨hpe, -, hpt, hpn, -⟩ := s.part.posted_fields x slot he
  have hown := s.part.posted_own x slot he
  have hbr : ((s.part.posted x slot).arm x).guard.reasons.breach = (s.part.arm x).guard.reasons.breach := by
    rw [hown]; rfl
  have hclear : (s.part.posted x slot).breachClear x ↔ s.part.breachClear x := by
    unfold Part.breachClear
    rw [hown, hpt]
    rfl
  have hk : (s.part.posted x slot).marksKept = true := by simp [Part.marksKept, hpe]
  by_cases hb' : (s.part.arm x).guard.reasons.breach = true
  · by_cases hc : s.part.breachClear x
    · have hres := Part.ackBreach_clear (s.part.posted x slot) x slot (hbr.trans hb') (hclear.mpr hc)
      rw [Part.removeReason_eq _ x .breach (hbr.trans hb'), Part.handResult_eq, hown, hk] at hres
      have hw : ((s.part.arm x).taken slot).without .breach =
          { (s.part.arm x).without .breach with chain := ((s.part.arm x).taken slot).chain } :=
        (s.part.arm x).without_chain .breach _
      obtain ⟨hch, hre⟩ := (s.part.arm x).without_rest .breach
      have hfin : (s.part.posted x slot).ackBreach x slot = (s.part.posted x slot).acts x
          ((({ (s.part.arm x).without .breach with chain := ((s.part.arm x).taken slot).chain } : ArmPart).due
            true).replied true) (causeBit (armCause x))
          (answerOps x slot s.part.now .acknowledged (.holdReasons { (s.part.arm x).guard.reasons with breach := false })) := by
        rw [hres, hw]
        simp only [Part.acts_arm, Part.acts_acts, List.nil_append]
        have ha : ((s.part.posted x slot).acts x (({ (s.part.arm x).without .breach with
            chain := ((s.part.arm x).taken slot).chain } : ArmPart).due true) (causeBit (armCause x)) []).answerable
              x slot = true := by
          simp [Part.answerable, hpe, ArmPart.due, ArmPart.taken]
        rw [ha, Part.resultOps, ha, if_pos rfl, Part.acts_now, hpn]
        simp [ArmPart.due, hre, Reasons.put]
      rw [s.part.posted_acts x slot he] at hfin
      obtain ⟨t, ht, hpend, hops, hview⟩ := slotRead_effect h he hb hi hs hf (hdis.trans hfin) rfl (Bool.or_true _) rfl
        rfl
      refine ⟨t, ht, hpend, fun hn => absurd (hn.symm.trans hb') (by decide), fun _ hn => absurd hc hn,
        fun _ _ => ⟨hops, hview.trans (Part.withArm_view_congr _ _ _ ?_)⟩⟩
      unfold ArmPart.without
      by_cases hl : (s.part.arm x).guard.state = .held ∧ (s.part.arm x).guard.reasons.put false .breach = noReasons
      · rw [if_pos hl]
        exact Eq.symm ((congrArg ArmPart.view (if_pos (by exact hl))).trans rfl)
      · rw [if_neg hl]
        exact Eq.symm ((congrArg ArmPart.view (if_neg (by exact hl))).trans rfl)
    · obtain ⟨t, ht, hpend, hops, hview⟩ := slotRead_answered h he hb hi hs hf
        (hdis.trans (Part.ackBreach_unclear _ x slot (hbr.trans hb') (mt hclear.mp hc)))
      exact ⟨t, ht, hpend, fun hn => absurd (hn.symm.trans hb') (by decide), fun _ _ => ⟨hops, hview⟩,
        fun _ hn => absurd hn hc⟩
  · obtain ⟨t, ht, hpend, hops, hview⟩ := slotRead_answered h he hb hi hs hf
      (hdis.trans (Part.ackBreach_absent _ x slot (hbr.trans (by simpa using hb'))))
    exact ⟨t, ht, hpend, fun _ => ⟨hops, hview⟩, fun hn => absurd hn hb', fun hn => absurd hn hb'⟩

end Sys2Proof.Machine

/-! PROOFS. A RESERVE that is granted or waits, and a RELEASE (O28 to O30). -/

namespace Sys2Proof.Machine

/-! ## Grants as effects (R23) -/

/-- An arm whose claim record n is `c`. -/
def ArmPart.withClaim (r : ArmPart) (n : Nat) (c : Claim) : ArmPart := { r with claims := r.claims.set n c }

theorem Part.fillClaim_eq (p : Part) (x : Arm) (n : Nat) (c : Claim) : p.fillClaim x n c =
    (p.setTable (p.table.addAll x n (p.table.cellsOf (some c.box)))).acts x
      (((p.arm x).withClaim n c).due p.marksKept) 0 [] := by
  have e : (p.setClaim x n c).setTable (p.table.addAll x n (p.table.cellsOf (some c.box))) =
      (p.setTable (p.table.addAll x n (p.table.cellsOf (some c.box)))).acts x
        ((p.arm x).withClaim n c) 0 [] := by
    cases x <;> simp [ArmPart.withClaim, Part.setClaim, Part.setTable, Part.acts, Part.withArm, Part.updArm]
  unfold Part.fillClaim
  rw [e, Part.markDue_eq]
  simp [Part.marksKept]

/-- The lowest-numbered FREE record. -/
theorem freeRecord_eq {l : List Claim} {n : Nat} (hn : n < l.length) (hf : (l.getD n freeClaim).inForce = false)
    (hlow : ∀ m, m < n → (l.getD m freeClaim).inForce = true) : freeRecord l = some n := by
  refine List.findIdx?_eq_some_iff_getElem.mpr ⟨hn, ?_, fun m hm => ?_⟩
  · simpa [List.getD_eq_getElem?_getD, hn] using hf
  · have := hlow m hm
    have hml : m < l.length := by omega
    simpa [List.getD_eq_getElem?_getD, hml] using this

/-- A grant gives the zone's cells to the arm, and no other cell changes. -/
theorem CellTable.granted_entries {t : CellTable} (h : t.wf) {x : Arm} {n : Nat} (hn : n ≤ 8) {l : List Nat}
    (hl : ∀ c ∈ l, t.owner c ≠ some x.other) :
    (∀ c, c ∈ l → (t.addAll x n l).owner c = some x ∧
      ∀ m, m ∈ ((t.addAll x n l).entry c).holders ↔ m = n ∨ m ∈ (t.entry c).holders) ∧
    ∀ c, c ∉ l → (t.addAll x n l).entry c = t.entry c := by
  obtain ⟨-, -, -, -, he⟩ := CellTable.addAll_spec x n hn l t h
  refine ⟨fun c hc => ?_, fun c hc => by rw [he c, if_neg hc]⟩
  unfold CellTable.owner
  rw [he c, if_pos hc]
  refine ⟨?_, fun m => mem_holderInsert m n _⟩
  by_cases hh : (t.entry c).holders = []
  · simp [CellEntry.joined, hh]
  · simp only [CellEntry.joined, hh, if_false]
    exact CellTable.owner_of_held h (hl c hc) hh

theorem Part.not_foreign_of_free {p : Part} {x : Arm} {b : CellBox} (h : p.conflictCells x b = []) :
    ∀ c ∈ p.table.cellsOf (some b), p.table.owner c ≠ some x.other := fun c hc ho => by
  have : c ∈ p.conflictCells x b := List.mem_filter.mpr ⟨hc, by simp [ho]⟩
  rw [h] at this; cases this

/-- Settles O28. -/
theorem reserveGrantsAFreeZone : Obligations.ReserveGrantsAFreeZone := by
  unfold Obligations.ReserveGrantsAFreeZone
  intro s x slot data addr bytes limit ab b mode n h ht
  dsimp only
  intro he hb hi hs hf harm hkind hg hbox hmode htag hzone hn hfree hlow hconf
  have hdis := (s.part.posted x slot).dispatch_reserve x slot (f := readSlot data) (dispatch_arm harm) hkind
  obtain ⟨hpe, -, hpt, hpn, -⟩ := s.part.posted_fields x slot he
  have hown := s.part.posted_own x slot he
  obtain ⟨hpz, hpc⟩ := s.part.posted_zoneOf x slot he (readSlot data) b
  have hclaims : ((s.part.posted x slot).arm x).claims = (s.part.arm x).claims := by rw [hown]; rfl
  have hl : (s.part.arm x).claims.length = 8 := ht.claims_length x
  have hrec : freeRecord ((s.part.posted x slot).arm x).claims = some n := by
    rw [hclaims]; exact freeRecord_eq (by omega) hfree hlow
  have hk : (s.part.posted x slot).marksKept = true := by simp [Part.marksKept, hpe]
  have hres := (s.part.posted x slot).reserve_evaluated x slot (readSlot data) (by rw [hown]; exact hg) hbox hmode
    (by rw [tagInForce_iff, hclaims]; exact htag) (hpz.trans hzone) hrec
  rw [Part.evaluateReserve_granted (hpc.trans hconf), Part.fillClaim_eq, Part.handResult_eq, hk, hown, hpt, hpn] at hres
  have hfin : (s.part.posted x slot).reserve x slot (readSlot data) =
      ((s.part.posted x slot).setTable (s.part.table.addAll x n (s.part.table.cellsOf (some b)))).acts x
        (((((s.part.arm x).taken slot).withClaim n
          (grantedClaim (readSlot data).tag mode b b.size s.part.now slot)).due true).replied true) 0
        (answerOps x slot s.part.now .granted (.reserve (some n) false (some b) b.size 0 none 0)) := by
    rw [hres]
    simp [Part.answerable, Part.resultOps, hpe, hpn, ArmPart.taken, ArmPart.due, ArmPart.withClaim, grantedClaim]
  obtain ⟨hin, hout⟩ := CellTable.granted_entries ht.1 (x := x) (n := n) (by omega) (Part.not_foreign_of_free hconf)
  generalize s.part.table.addAll x n (s.part.table.cellsOf (some b)) = u at *
  rw [s.part.posted_setTable_acts x slot he] at hfin
  obtain ⟨t, hx, hpend, hops, hview, hlines⟩ := slotRead_acts h he hb hi hs hf (hdis.trans hfin) rfl (Bool.or_true _) rfl
  have harm : ∀ {A : Type} (g : ArmPart → A), (∀ r : ArmPart, g r.view = g r) → (∀ r : ArmPart, ∀ c : Chain,
      g { r with chain := c } = g r) → g (t.part.arm x) = g ((s.part.arm x).withClaim n
        (grantedClaim (readSlot data).tag mode b b.size s.part.now slot)) := fun g hg hc => by
    rw [Part.arm_shown hview x g hg, ← hc _ (s.part.arm x).chain]
    cases x <;> rfl
  have htable : t.part.table = u :=
    (congrArg (fun q : Part => q.table) hview :).trans (by cases x <;> rfl)
  have hclaim : ∀ m, t.part.claim x m = if m = n then
      grantedClaim (readSlot data).tag mode b b.size s.part.now slot else s.part.claim x m := fun m => by
    rw [Part.claim, harm (fun r => r.claims) (fun _ => rfl) fun _ _ => rfl]
    exact getD_set_ite _ _ _ _ (by omega)
  refine ⟨t, hx, hpend, hops, (hclaim n).trans (if_pos rfl), fun m _ hmn => (hclaim m).trans (if_neg hmn),
    fun d hd => ?_, fun d hd => ?_, ?_, harm (fun r => r.parkCount) (fun _ => rfl) fun _ _ => rfl,
    harm (fun r => r.waiting) (fun _ => rfl) fun _ _ => rfl, ?_, ?_, ?_⟩
  · rw [htable]; exact hin d hd
  · rw [htable]; exact hout d hd
  · refine hlines.guard_same h.stopAsserted ?_ (harm (fun r => { r.guard with stopAsserted := true }) (fun _ => rfl) fun _ _ => rfl)
    have : t.part.guarding = s.part.guarding := (Part.shown hview (fun q => q.guarding) fun _ => rfl).trans (by cases x <;> rfl)
    exact this
  · rw [Part.arm_view_of_view hview]
    cases x <;> rfl
  · refine (congrArg (fun q : Part => q.cause) hview :).trans ?_
    cases x <;> exact BitVec.or_zero
  · exact (congrArg (fun q : Part => q.hostMem) hview :).trans (by cases x <;> rfl)

end Sys2Proof.Machine

/-! PROOFS. Requests that move both arms (O29 to O31). -/

namespace Sys2Proof.Machine

/-! ## Effects on an arm and on the other -/

/-- An effect on x, an effect on the other arm, and one on x again. -/
theorem Part.acts_swap (p : Part) (x : Arm) (r r' r'' : ArmPart) (f f' f'' : Word) (o o' o'' : List MemOp) :
    ((p.acts x r f o).acts x.other r' f' o').acts x r'' f'' o'' =
      (p.acts x r'' (f ||| f' ||| f'') (o ++ o' ++ o'')).acts x.other r' 0 [] := by
  cases x <;> simp [Part.acts, Part.withArm, Part.updArm, Arm.other, BitVec.or_assoc]

/-- The status blocks that a step adds when x's is due, and the other arm's if `k`. -/
def Part.blocksFor (p : Part) (x : Arm) (k : Bool) : List MemOp :=
  (if Arm.a = x ∨ k = true then p.statusOps .a else []) ++ if Arm.b = x ∨ k = true then p.statusOps .b else []

theorem Part.blocksFor_own (p : Part) (x : Arm) : p.blocksFor x false = p.statusOps x := by
  cases x <;> simp [Part.blocksFor]

/-- A request whose dispatch moves the table and both arms. -/
theorem slotRead_two {s : State} {x : Arm} {slot : Nat} {data : BitVec 512} {addr : Addr} {bytes : List Byte}
    {limit : Timer} {ab : Bool} (h : s.part.steady) (he : s.part.engine = .serving) (hb : s.part.busUp)
    (hi : s.part.inProgress = some ⟨.slotRead x slot, addr, bytes, limit, ab⟩) (hs : s.part.isCursor slot = false)
    (hf : byteAt data 0 = 1) {t : CellTable} {r u : ArmPart} {flags : Word} {ops : List MemOp} {k : Bool}
    (hd : (s.part.posted x slot).dispatch x slot (readSlot data) =
      ((s.part.opDone.setTable t).acts x r flags (takingOps x slot s.part.now ++ ops)).acts x.other u 0 [])
    (ho : r.chain.openSlot.isSome = true) (hp : r.chain.publishDue = true)
    (hq : r.chain.blockQueued = (s.part.arm x).chain.blockQueued)
    (hup : u.chain.publishDue = ((s.part.arm x.other).chain.publishDue || k))
    (huq : u.chain.blockQueued = (s.part.arm x.other).chain.blockQueued) :
    ∃ q, exec (.slotReadComplete data) s = .next q ∧ q.pending = s.pending ∧
      q.part.ops = s.part.opQueue ++ takingOps x slot s.part.now ++ ops ++ s.part.blocksFor x k ∧
      (q.part.arm x).view = r.walked.view ∧ (q.part.arm x.other).view = u.view ∧
      q.part.unit = (s.part.setTable t).unit ∧ q.part.linesDriven := by
  generalize hD : ((s.part.opDone.setTable t).acts x r flags (takingOps x slot s.part.now ++ ops)).acts x.other u 0 [] = d
    at hd
  have hde : d.engine = .serving := by rw [← hD, Part.acts_engine, Part.acts_engine]; exact he
  have hx : d.arm x = r := by rw [← hD]; cases x <;> rfl
  have hy : d.arm x.other = u := by rw [← hD, Part.acts_arm]
  have hown : d.dueOps x = s.part.statusOps x := by
    unfold Part.dueOps Part.statusOps
    rw [hx, hde, hp, hq]
    cases (s.part.arm x).chain.blockQueued <;> rfl
  have hother : d.dueOps x.other = if k = true then s.part.statusOps x.other else [] := by
    have hnone := h.2.1.dueOps x.other
    unfold Part.dueOps at hnone ⊢
    unfold Part.statusOps
    rw [hy, hde, hup, huq]
    rw [he] at hnone
    cases hpd : (s.part.arm x.other).chain.publishDue <;> cases hbq : (s.part.arm x.other).chain.blockQueued <;>
      cases k <;> simp_all
  obtain ⟨q, hq', hpend, hops, hview, hlines⟩ := slotRead_step h he hi hs hf hd hde
    (by rw [← hD]; exact Part.acts_busUp.mpr (Part.acts_busUp.mpr hb)) (by rw [hx]; exact ho)
  refine ⟨q, hq', hpend, ?_, ?_, ?_, ?_, hlines⟩
  · have h0 : d.ops = s.part.opQueue ++ takingOps x slot s.part.now ++ ops := by
      rw [← hD]; simp [Part.ops, Part.opDone]
    rw [hops, h0, List.append_assoc]
    congr 1
    unfold Part.blocksFor
    cases x
    · rw [hown, show d.dueOps .b = _ from hother]; simp [Arm.other]
    · rw [hown, show d.dueOps .a = _ from hother]; simp [Arm.other]
  · rw [Part.arm_view_of_view hview, hx]
    cases x <;> rfl
  · rw [Part.arm_view_of_view hview, ← hy]
    cases x <;> rfl
  · have hu : d.unit = (s.part.setTable t).unit := by rw [← hD, Part.acts_unit, Part.acts_unit]; rfl
    rw [← hu, Part.unit_of_view hview]
    cases x <;> rfl

/-! ## Crossing (R51, R52) -/

theorem CellBox.shares_comm (b c : CellBox) : b.shares c = c.shares b := by
  simp only [CellBox.shares, Nat.max_comm, Nat.min_comm]

theorem CellBox.meet_comm (b c : CellBox) : b.meet c = c.meet b := by
  simp only [CellBox.meet, Nat.max_comm, Nat.min_comm]

theorem Part.crossing_comm (p : Part) (w v : PendingReserve) : p.crossing w v = p.crossing v w := by
  unfold Part.crossing
  rw [w.box.shares_comm, w.box.meet_comm]

/-- Crossing says that the shared cells hold a cell of each arm. -/
theorem Part.crossing_iff (p : Part) (w v : PendingReserve) : p.crossing w v = true ↔ w.box.shares v.box = true ∧
    (∃ d ∈ p.table.cellsOf (some (w.box.meet v.box)), p.table.owner d = some .a) ∧
    ∃ d ∈ p.table.cellsOf (some (w.box.meet v.box)), p.table.owner d = some .b := by
  simp [Part.crossing, and_assoc]

section
variable {p : Part} {x : Arm}

theorem Part.crossingCheck_alone (y : Arm) (h : (p.arm y).waiting = none) : p.crossingCheck = p := by
  unfold Part.crossingCheck
  cases y
  · rw [show p.armA.waiting = none from h]
  · rw [show p.armB.waiting = none from h]
    cases p.armA.waiting <;> rfl

variable {w v : PendingReserve} (hw : (p.arm x).waiting = some w) (hv : (p.arm x.other).waiting = some v)
  (hwa : w.age = .younger) (hva : v.age = .older)
include hw hv hwa hva

theorem Part.olderArm_eq : p.olderArm = x.other := by
  unfold Part.olderArm
  cases x
  · rw [show p.armA.waiting = some w from hw, show p.armB.waiting = some v from hv]
    simp [hva, Arm.other]
  · rw [show p.armB.waiting = some w from hw, show p.armA.waiting = some v from hv]
    simp [hwa, Arm.other]

/-- Of two pending RESERVEs that cross, x's, the younger, is refused. -/
theorem Part.crossingCheck_younger :
    p.crossingCheck = if p.crossing w v = true then p.endWaiting x .crossed else p := by
  have ho := Part.olderArm_eq hw hv hwa hva
  unfold Part.crossingCheck
  rw [ho, Arm.other_other]
  cases x
  · rw [show p.armA.waiting = some w from hw, show p.armB.waiting = some v from hv]
  · rw [show p.armB.waiting = some w from hw, show p.armA.waiting = some v from hv]
    dsimp only
    rw [p.crossing_comm v w]

end

/-! ## A RESERVE that waits (O29) -/

/-- The pending RESERVE of a request in slot `slot` for the zone `b`, the conflicts `c :: rest` found at this moment
(R48). -/
def Part.pendingOf (p : Part) (slot : Nat) (f : SlotFields) (mode : ClaimMode) (b : CellBox) (c : Nat) (rest : List Nat)
    (age : Age) : PendingReserve where
  slot := slot
  tag := f.tag
  mode := mode
  box := b
  count := b.size
  conflicts := rest.length + 1
  firstConflict := some c
  since := p.now
  age := age
  timer := some (p.now + BitVec.ofNat 32 (f.wait.toNat * 1000))

/-- An arm whose pending RESERVE is `w`. -/
def ArmPart.awaiting (r : ArmPart) (w : Option PendingReserve) : ArmPart := { r with waiting := w }

theorem Part.setWaiting_acts (p : Part) (x : Arm) (w : Option PendingReserve) :
    p.setWaiting x w = p.acts x ((p.arm x).awaiting w) 0 [] := by
  unfold Part.setWaiting
  rw [Part.updArm_eq_acts]
  rfl

/-- The older of two pending RESERVEs. -/
def PendingReserve.aged (w : PendingReserve) : PendingReserve := { w with age := .older }

theorem Part.startWaiting_eq (p : Part) (x : Arm) (slot : Nat) (f : SlotFields) (mode : ClaimMode) (b : CellBox) (c : Nat)
    (rest : List Nat) (he : p.engine = .serving) (age : Age)
    (ha : age = if (p.arm x.other).waiting.isSome = true then .younger else .older) :
    p.startWaiting x slot f mode b (c :: rest) =
      ((p.acts x (((p.arm x).awaiting (some (p.pendingOf slot f mode b c rest age))).due true) 0
        (noticeOps x slot (p.pendingOf slot f mode b c rest age).figures)).acts x.other
          ((p.arm x.other).awaiting ((p.arm x.other).waiting.map PendingReserve.aged)) 0 []).crossingCheck := by
  subst ha
  unfold Part.startWaiting
  dsimp only
  rw [Part.setWaiting_acts, Part.setWaiting_acts, Part.waitingNotice_eq _ _ _ _ (by simpa using he), Part.acts_swap]
  simp only [Part.acts_arm, Part.acts_arm_other, Part.acts_other_arm, BitVec.or_self, List.nil_append]
  rfl

/-- Settles O29. -/
theorem reserveWaitsOrCrosses : Obligations.ReserveWaitsOrCrosses := by
  unfold Obligations.ReserveWaitsOrCrosses
  intro s x slot data addr bytes limit ab b mode c rest h
  dsimp only
  intro he hb hi hs hf harm hkind hg hbox hmode htag hzone hsome hconf hwait
  have hdis := (s.part.posted x slot).dispatch_reserve x slot (f := readSlot data) (dispatch_arm harm) hkind
  obtain ⟨hpe, -, hpt, hpn, -⟩ := s.part.posted_fields x slot he
  have hown := s.part.posted_own x slot he
  have hother : (s.part.posted x slot).arm x.other = s.part.arm x.other := by
    rw [s.part.posted_arm x slot he, if_neg (Arm.ne_other x).symm]
  obtain ⟨hpz, hpc⟩ := s.part.posted_zoneOf x slot he (readSlot data) b
  have hclaims : ((s.part.posted x slot).arm x).claims = (s.part.arm x).claims := by rw [hown]; rfl
  have hrec : ∃ n, freeRecord ((s.part.posted x slot).arm x).claims = some n := by
    cases hn : freeRecord ((s.part.posted x slot).arm x).claims with
    | some n => exact ⟨n, rfl⟩
    | none =>
      rw [freeRecord_none_iff, hclaims] at hn
      obtain ⟨d, hmem, hfree⟩ := hsome
      rw [hn d hmem] at hfree; cases hfree
  obtain ⟨n, hn⟩ := hrec
  have hres := (s.part.posted x slot).reserve_evaluated x slot (readSlot data) (by rw [hown]; exact hg) hbox hmode
    (by rw [tagInForce_iff, hclaims]; exact htag) (hpz.trans hzone) hn
  rw [Part.evaluateReserve_waits (hpc.trans hconf) hwait] at hres
  have hstart := fun age ha => (s.part.posted x slot).startWaiting_eq x slot (readSlot data) mode b c rest hpe age ha
  have hpending : ∀ age, (s.part.posted x slot).pendingOf slot (readSlot data) mode b c rest age =
      s.part.pendingOf slot (readSlot data) mode b c rest age := fun age => by
    unfold Part.pendingOf
    rw [hpn]
  simp only [hother, hown, hpending, s.part.posted_acts x slot he] at hstart
  have two : ∀ (r u : ArmPart) (ops : List MemOp), (s.part.posted x slot).startWaiting x slot (readSlot data) mode b
      (c :: rest) = (s.part.opDone.acts x r 0 (takingOps x slot s.part.now ++ ops)).acts x.other u 0 [] →
      r.chain.openSlot.isSome = true → r.chain.publishDue = true →
      r.chain.blockQueued = (s.part.arm x).chain.blockQueued → u.chain = (s.part.arm x.other).chain →
      ∃ t, exec (.slotReadComplete data) s = .next t ∧ t.pending = s.pending ∧ t.part.table = s.part.table ∧
        (t.part.arm x).claims = r.claims ∧ (t.part.arm x).waiting = r.waiting ∧
        (t.part.arm x.other).waiting = u.waiting ∧
        t.part.ops = s.part.opQueue ++ takingOps x slot s.part.now ++ ops ++ s.part.statusOps x :=
    fun r u ops e ho hp hq hu => by
      obtain ⟨t, hx, hpend, hops, hvx, hvy, hunit, -⟩ := slotRead_two (t := s.part.table) (k := false) h he hb hi hs hf
        ((hdis.trans hres).trans e) ho hp hq (by rw [hu, Bool.or_false]) (by rw [hu])
      exact ⟨t, hx, hpend, (congrArg (fun q : Part => q.table) hunit :), (congrArg ArmPart.claims hvx :),
        (congrArg ArmPart.waiting hvx :), (congrArg ArmPart.waiting hvy :), by rw [hops, Part.blocksFor_own]⟩
  cases hw : (s.part.arm x.other).waiting with
  | none =>
    have hs0 := hstart .older (by rw [hw]; rfl)
    rw [Part.crossingCheck_alone x.other (by rw [Part.acts_arm, hw]; rfl)] at hs0
    obtain ⟨t, hx, hpend, htab, hcl, hwx, -, hops⟩ := two _ _ _ hs0 rfl (Bool.or_true _) rfl rfl
    refine ⟨t, hx, hpend, htab, hcl, fun _ => ⟨hwx, ?_⟩, fun w hn => by cases hn⟩
    exact hops
  | some w =>
    have hs0 := hstart .younger (by rw [hw]; rfl)
    rw [hw, Option.map_some] at hs0
    generalize hW : s.part.pendingOf slot (readSlot data) mode b c rest .younger = W at hs0
    have hWf : W.slot = slot ∧ W.box = b ∧ W.age = .younger ∧
        W.figures = .reserve none true (some b) b.size (rest.length + 1) (some c) s.part.now := by
      rw [← hW]; exact ⟨rfl, rfl, rfl, rfl⟩
    obtain ⟨hWs, hWb, hWa, hWf⟩ := hWf
    rw [Part.crossingCheck_younger (x := x) (w := W) (v := w.aged) (by rw [Part.acts_other_arm, Part.acts_arm]; rfl)
      (by rw [Part.acts_arm]; rfl) hWa rfl] at hs0
    have hcross : ∀ r r' o o', (((s.part.opDone.acts x r 0 o).acts x.other r' 0 o').crossing W w.aged = true ↔
        b.shares w.box = true ∧ (∃ d ∈ s.part.table.cellsOf (some (b.meet w.box)), s.part.table.owner d = some .a) ∧
          ∃ d ∈ s.part.table.cellsOf (some (b.meet w.box)), s.part.table.owner d = some .b) := fun r r' o o' => by
      have ht : ((s.part.opDone.acts x r 0 o).acts x.other r' 0 o').table = s.part.table := by
        rw [Part.acts_table, Part.acts_table]; rfl
      rw [Part.crossing_iff, ht, hWb]
      rfl
    by_cases hx : b.shares w.box = true ∧
        (∃ d ∈ s.part.table.cellsOf (some (b.meet w.box)), s.part.table.owner d = some .a) ∧
          ∃ d ∈ s.part.table.cellsOf (some (b.meet w.box)), s.part.table.owner d = some .b
    · rw [if_pos ((hcross _ _ _ _).mpr hx), Part.endWaiting_eq _ x W .crossed
        (by rw [Part.acts_other_arm, Part.acts_arm]; rfl), Part.acts_swap] at hs0
      have hans : ∀ r r' o o', r.chain.openSlot = some slot →
          ((s.part.opDone.acts x r 0 o).acts x.other r' 0 o').answerable x W.slot = true := fun r r' o o' ho => by
        rw [Part.answerable_iff, hWs, Part.acts_other_arm, Part.acts_arm, Part.acts_engine, Part.acts_engine]
        exact ⟨he, ho⟩
      rw [hans _ _ _ _ rfl, Part.resultOps, hans _ _ _ _ rfl, if_pos rfl, hWs, hWf, Part.acts_now, Part.acts_now,
        show s.part.opDone.now = s.part.now from rfl, Part.acts_other_arm, Part.acts_arm, List.append_nil,
        List.append_assoc] at hs0
      obtain ⟨t, hx', hpend, htab, hcl, hwx, hwy, hops⟩ := two _ _ _ hs0 rfl (Bool.or_true _) rfl rfl
      refine ⟨t, hx', hpend, htab, hcl, fun hn => (by cases hn), fun v hv => ?_⟩
      obtain rfl := Option.some.inj hv
      refine ⟨hwy, fun hc => absurd hx hc, fun _ => ⟨hwx, ?_⟩⟩
      rw [hops, List.append_assoc, List.append_assoc, List.append_assoc, List.append_assoc, List.append_assoc,
        List.append_assoc]
    · rw [if_neg (mt (hcross _ _ _ _).mp hx)] at hs0
      obtain ⟨t, hx', hpend, htab, hcl, hwx, hwy, hops⟩ := two _ _ _ hs0 rfl (Bool.or_true _) rfl rfl
      refine ⟨t, hx', hpend, htab, hcl, fun hn => (by cases hn), fun v hv => ?_⟩
      obtain rfl := Option.some.inj hv
      refine ⟨hwy, fun _ => ⟨?_, ?_⟩, fun hc => absurd hc hx⟩
      · rw [hwx, ← hW]; rfl
      · rw [hops, hWf]

end Sys2Proof.Machine

/-! SUPPORT. Re-evaluation of the other arm's pending RESERVE, once cells of an arm have become NONE (R54). -/

namespace Sys2Proof.Machine

/-! ## Cells that a number leaves (R24, R38, R39) -/

/-- Whether nothing but `n` held the cell. -/
theorem holderErase_nil_iff {n : Nat} {l : List Nat} (hl : l.Pairwise (· < ·)) (hn : n ∈ l) :
    holderErase n l = [] ↔ l = [n] := by
  constructor
  · intro he
    have hall : ∀ m ∈ l, m = n := fun m hm => by
      refine Classical.byContradiction fun hne => ?_
      have := (mem_holderErase m n l).mpr ⟨hne, hm⟩
      simp [he] at this
    cases l with
    | nil => cases hn
    | cons a rest =>
      obtain rfl := hall a List.mem_cons_self
      cases rest with
      | nil => rfl
      | cons b rest' =>
        have hb := hall b (by simp)
        have : a < b := (List.pairwise_cons.mp hl).1 b (by simp)
        omega
  · rintro rfl
    simp [holderErase]

section
variable {t : CellTable} {x : Arm} {n : Nat} {l : List Nat} (h : t.wf)
  (hl : ∀ c ∈ l, t.owner c = some x ∧ n ∈ (t.entry c).holders)
include h hl

/-- The cells that `n` leaves, and the others. -/
theorem CellTable.left_entries :
    (∀ c, c ∈ l → ∀ m, m ∈ ((t.removeAll n l).entry c).holders ↔ m ≠ n ∧ m ∈ (t.entry c).holders) ∧
    (∀ c, c ∉ l → (t.removeAll n l).entry c = t.entry c) ∧
    ∀ c, c ∈ l → (t.removeAll n l).owner c = if (t.entry c).holders = [n] then none else some x := by
  obtain ⟨-, -, -, -, he⟩ := CellTable.removeAll_spec n l t h
  refine ⟨fun c hc m => ?_, fun c hc => by rw [he c, if_neg hc], fun c hc => ?_⟩
  · rw [he c, if_pos hc]
    exact mem_holderErase m n _
  · obtain ⟨ho, hn⟩ := hl c hc
    unfold CellTable.owner at ho ⊢
    rw [he c, if_pos hc, CellEntry.left, ho]
    exact ite_congr (propext (holderErase_nil_iff (t.entry_pairwise h c) hn)) (fun _ => rfl) fun _ => rfl

end

/-! ## What the other arm's pending RESERVE sees (R45, R54) -/

/-- From the part p to the table u: of the cells of y's opponent, `freed` have become NONE and `joined` have come to it;
y's own cells are as they were. -/
def Part.Shifted (p : Part) (u : CellTable) (y : Arm) (freed joined : List Nat) : Prop :=
  u.wf ∧ u.nx = p.table.nx ∧ u.ny = p.table.ny ∧
  (∀ c, u.owner c = some y.other ↔ (p.table.owner c = some y.other ∧ c ∉ freed) ∨ c ∈ joined) ∧
  (∀ c, u.owner c = some y ↔ p.table.owner c = some y) ∧
  ∀ c, p.table.owner c = some y → u.entry c = p.table.entry c

/-- A number leaves cells of y's opponent. -/
theorem Part.Shifted.of_left {p : Part} {y : Arm} {n : Nat} {l : List Nat} (h : p.table.wf)
    (hl : ∀ c ∈ l, p.table.owner c = some y.other ∧ n ∈ (p.table.entry c).holders) :
    p.Shifted (p.table.removeAll n l) y (l.filter fun c => (p.table.entry c).holders == [n]) [] := by
  obtain ⟨hw, hx, hy, -, -⟩ := CellTable.removeAll_spec n l p.table h
  obtain ⟨-, hout, hown⟩ := CellTable.left_entries h hl
  have hout' : ∀ c, c ∉ l → (p.table.removeAll n l).owner c = p.table.owner c := fun c hc => by
    unfold CellTable.owner; rw [hout c hc]
  refine ⟨hw, hx, hy, fun c => ?_, fun c => ?_, fun c hc => ?_⟩
  · by_cases hc : c ∈ l
    · rw [hown c hc]
      simp [hc, (hl c hc).1]
    · rw [hout' c hc]
      simp [hc]
  · by_cases hc : c ∈ l
    · rw [hown c hc, (hl c hc).1]
      have hne : some y.other ≠ some y := fun e => Arm.ne_other y (Option.some.inj e).symm
      split <;> simp [hne]
    · rw [hout' c hc]
  · refine hout c fun hm => ?_
    rw [(hl c hm).1] at hc
    exact Arm.ne_other y (Option.some.inj hc).symm

/-- The conflicts of y's zone in the new table. -/
theorem Part.Shifted.conflicts {p q : Part} {y : Arm} {freed joined : List Nat}
    (h : p.Shifted q.table y freed joined) (w : PendingReserve) :
    q.conflictCells y w.box = p.inTheWay y freed joined w := by
  obtain ⟨-, hx, hy, ho, -, -⟩ := h
  have hcells : q.table.cellsOf (some w.box) = p.table.cellsOf (some w.box) := by simp only [CellTable.cellsOf, hx, hy]
  unfold Part.conflictCells Part.inTheWay
  rw [hcells]
  refine List.filter_congr fun c _ => ?_
  rw [Bool.eq_iff_iff, beq_iff_eq, ho]
  simp

/-! ## Re-evaluation as an effect (R54) -/

theorem Part.acts_setTable (p : Part) (x : Arm) (r : ArmPart) (flags : Word) (ops : List MemOp) (t : CellTable) :
    (p.acts x r flags ops).setTable t = (p.setTable t).acts x r flags ops := by cases x <;> rfl

theorem Part.reevaluateArm_other (q : Part) (y : Arm) : (q.reevaluateArm y).arm y.other = q.arm y.other := by
  obtain ⟨-, e⟩ | ⟨w, n, -, -, -, -, e⟩ | ⟨w, -, -, e⟩ := q.reevaluateArm_cases y <;> rw [e]
  · rw [Part.handResult_eq, Part.fillClaim_eq, Part.setWaiting_acts]
    simp
  · rw [Part.setWaiting_acts]
    simp

section
variable {q : Part} {y : Arm} {w : PendingReserve} (hw : (q.arm y).waiting = some w)
include hw

/-- A pending RESERVE that still conflicts takes the figures of this evaluation. -/
theorem Part.reevaluateArm_conflicts (hc : q.conflictCells y w.box ≠ []) : q.reevaluateArm y =
    q.acts y ((q.arm y).awaiting (some { w with
      conflicts := (q.conflictCells y w.box).length, firstConflict := (q.conflictCells y w.box).head? })) 0 [] := by
  obtain ⟨hn, -⟩ | ⟨v, n, hv, hcv, -⟩ | ⟨v, hv, -, e⟩ := q.reevaluateArm_cases y
  · rw [hw] at hn; cases hn
  · obtain rfl := Option.some.inj (hw.symm.trans hv)
    exact absurd hcv hc
  · obtain rfl := Option.some.inj (hw.symm.trans hv)
    rw [e, Part.setWaiting_acts]

/-- A pending RESERVE with nothing in its way is granted into the lowest FREE record. -/
theorem Part.reevaluateArm_grants {k : Nat} (hc : q.conflictCells y w.box = [])
    (hr : freeRecord (q.arm y).claims = some k) (ht : tagInForce (q.arm y).claims w.tag = false)
    (he : q.engine = .serving) (ho : (q.arm y).chain.openSlot = some w.slot) : q.reevaluateArm y =
      (q.setTable (q.table.addAll y k (q.table.cellsOf (some w.box)))).acts y
        ((((((q.arm y).awaiting none).withClaim k
          (grantedClaim w.tag w.mode w.box w.count q.now w.slot))).due true).replied true) 0
        (answerOps y w.slot q.now .granted (.reserve (some k) true (some w.box) w.count 0 none w.since)) := by
  obtain ⟨hn, -⟩ | ⟨v, n, hv, -, hn, -, e⟩ | ⟨v, hv, hno, -⟩ := q.reevaluateArm_cases y
  · rw [hw] at hn; cases hn
  · obtain rfl := Option.some.inj (hw.symm.trans hv)
    obtain rfl := Option.some.inj (hr.symm.trans hn)
    have hk : q.marksKept = true := by simp [Part.marksKept, he]
    rw [e, Part.setWaiting_acts, Part.fillClaim_eq, Part.handResult_eq]
    simp [Part.acts_setTable, hk, Part.answerable, Part.resultOps, he, ho, ArmPart.awaiting, ArmPart.withClaim, ArmPart.due,
      grantedClaim]
  · obtain rfl := Option.some.inj (hw.symm.trans hv)
    rcases hno with hno | hno | hno
    · exact absurd hc hno
    · rw [hr] at hno; cases hno
    · rw [ht] at hno; cases hno

end

/-- Only the other arm has a pending RESERVE to re-evaluate. -/
theorem Part.reevaluateIf_other {q : Part} {y : Arm} (h : (q.arm y.other).waiting = none) (n : Nat) :
    q.reevaluateIf n = if n = 0 then q else q.reevaluateArm y := by
  have hnone : ∀ (u : Part) (z : Arm), (u.arm z).waiting = none → u.reevaluateArm z = u := fun u z hz => by
    simp [Part.reevaluateArm, hz]
  have holder : q.olderArm = .a := by
    unfold Part.olderArm
    cases y
    · rw [show q.armB.waiting = none from h]
      cases q.armA.waiting <;> rfl
    · rw [show q.armA.waiting = none from h]
  have hkeep : ((q.reevaluateArm y).arm y.other).waiting = none := by rw [q.reevaluateArm_other y, h]
  unfold Part.reevaluateIf
  refine ite_congr rfl (fun _ => rfl) fun _ => ?_
  rw [Part.reevaluate, holder, Part.bothArms]
  cases y
  · exact hnone _ .b hkeep
  · rw [hnone q .a h]; rfl

/-- What re-evaluation makes of the table and of y's share, `r`. -/
def Part.Regrant (p : Part) (y : Arm) (k : Nat) (freed joined : List Nat) (u t : CellTable) (r : ArmPart) : Prop :=
  r.chain.publishDue = ((p.arm y).chain.publishDue || (p.regranted y freed joined).isSome) ∧
  r.chain.blockQueued = (p.arm y).chain.blockQueued ∧
  (∀ c, c ∉ p.regrantedCells y freed joined → t.entry c = u.entry c) ∧
  ∀ s : Part, (s.arm y).view = r.view → s.table = t → p.regrants s y k freed joined

section
variable {p : Part} {y : Arm} {k : Nat} {freed joined : List Nat} {u : CellTable}

/-- y's pending RESERVE once re-evaluation has not granted it. -/
def Part.stillWaiting (p : Part) (y : Arm) (freed joined : List Nat) : Option PendingReserve :=
  if freed = [] then (p.arm y).waiting
  else (p.arm y).waiting.map fun w => { w with
    conflicts := (p.inTheWay y freed joined w).length, firstConflict := (p.inTheWay y freed joined w).head? }

theorem Part.Regrant.waits (h : p.regranted y freed joined = none) :
    p.Regrant y k freed joined u u ((p.arm y).awaiting (p.stillWaiting y freed joined)) := by
  refine ⟨by simp [h, ArmPart.awaiting], rfl, fun _ _ => rfl, fun s hs _ => ?_⟩
  have hc : (s.arm y).claims = (p.arm y).claims := (congrArg ArmPart.claims hs :)
  have hw : (s.arm y).waiting = p.stillWaiting y freed joined := (congrArg ArmPart.waiting hs :)
  unfold Part.regrants
  rw [h]
  refine ⟨⟨hc, hw⟩, hs.trans ?_⟩
  rw [hc, hw]
  simp [ArmPart.awaiting]

/-- y's share once its pending RESERVE has been granted into record k. -/
def ArmPart.regrantedInto (r : ArmPart) (k : Nat) (c : Claim) : ArmPart :=
  (((r.awaiting none).withClaim k c).due true).replied true

theorem Part.Regrant.grants {w : PendingReserve} (h : p.regranted y freed joined = some w)
    (hs : p.Shifted u y freed joined) (hk : k < 8) (hl : (p.arm y).claims.length = 8)
    (hfree : ∀ c ∈ u.cellsOf (some w.box), u.owner c ≠ some y.other) :
    p.Regrant y k freed joined u (u.addAll y k (u.cellsOf (some w.box)))
      ((p.arm y).regrantedInto k (grantedClaim w.tag w.mode w.box w.count p.now w.slot)) := by
  obtain ⟨hw, hx, hy, hother, hown, hentry⟩ := hs
  have hcells : p.regrantedCells y freed joined = u.cellsOf (some w.box) := by
    simp only [Part.regrantedCells, h, Option.map_some, CellTable.cellsOf, hx, hy]
  have hpcells : p.table.cellsOf (some w.box) = u.cellsOf (some w.box) := by simp only [CellTable.cellsOf, hx, hy]
  obtain ⟨hin, hout⟩ := CellTable.granted_entries hw (x := y) (n := k) (by omega) hfree
  refine ⟨by rw [h]; rfl, rfl, fun c hc => hout c (hcells ▸ hc), fun s hs ht => ?_⟩
  have hclaims : (s.arm y).claims =
      (p.arm y).claims.set k (grantedClaim w.tag w.mode w.box w.count p.now w.slot) := (congrArg ArmPart.claims hs :)
  have hwait : (s.arm y).waiting = none := (congrArg ArmPart.waiting hs :)
  have hclaim : ∀ m, s.claim y m = if m = k then grantedClaim w.tag w.mode w.box w.count p.now w.slot
      else p.claim y m := fun m => by
    rw [Part.claim, hclaims]
    exact getD_set_ite _ _ _ _ (by omega)
  unfold Part.regrants
  rw [h]
  refine ⟨⟨hwait, (hclaim k).trans (if_pos rfl), fun m _ hmk => (hclaim m).trans (if_neg hmk), fun c hc => ?_⟩, ?_⟩
  · rw [hpcells] at hc
    rw [ht]
    obtain ⟨ho, hm⟩ := hin c hc
    refine ⟨ho, fun m => (hm m).trans (or_congr_right ?_)⟩
    by_cases hp : p.table.owner c = some y
    · simp [hp, hentry c hp]
    · have hnone : u.owner c = none := by
        cases he : u.owner c with
        | none => rfl
        | some z =>
          by_cases hz : z = y
          · exact absurd ((hown c).mp (he.trans (congrArg some hz))) hp
          · exact absurd (he.trans (congrArg some (Arm.eq_other_of_ne hz))) (hfree c hc)
      have := (u.owner_none_iff hw c).mp hnone
      simp [hp, this]
  · rw [hclaims, hwait, hs]
    simp [ArmPart.regrantedInto, ArmPart.awaiting, ArmPart.withClaim, ArmPart.due, ArmPart.replied, ArmPart.view]

end

/-- After cells of its opponent have become NONE, a pending RESERVE is granted, or keeps waiting with the figures of this
evaluation. -/
theorem Part.reevaluateArm_regrants {p q : Part} {y : Arm} {k : Nat} {freed joined : List Nat} (hf : freed ≠ [])
    (harm : q.arm y = p.arm y) (hg : p.grantable y k) (hs : p.Shifted q.table y freed joined)
    (hl : (p.arm y).claims.length = 8) (he : q.engine = p.engine) (hn : q.now = p.now) : ∃ t r,
      q.reevaluateArm y = (q.setTable t).acts y r 0 (p.regrantOps y k freed joined) ∧
      p.Regrant y k freed joined q.table t r := by
  have stays : p.regranted y freed joined = none → q.reevaluateArm y =
        q.acts y ((p.arm y).awaiting (p.stillWaiting y freed joined)) 0 [] →
      ∃ t r, q.reevaluateArm y = (q.setTable t).acts y r 0 (p.regrantOps y k freed joined) ∧
        p.Regrant y k freed joined q.table t r := fun h e =>
    ⟨_, _, e.trans (by rw [Part.regrantOps, h]; rfl), Part.Regrant.waits h⟩
  have same : q.acts y ((p.arm y).awaiting (p.arm y).waiting) 0 [] = q := by
    rw [← harm]; exact q.acts_self y
  cases hw : (p.arm y).waiting with
  | none =>
    refine stays (by simp [Part.regranted, hw]) ?_
    rw [Part.reevaluateArm, harm, hw, Part.stillWaiting, if_neg hf, hw]
    exact (hw ▸ same).symm
  | some w =>
    have hcon := hs.conflicts w
    have hqw : (q.arm y).waiting = some w := harm ▸ hw
    cases hway : p.inTheWay y freed joined w with
    | cons c rest =>
      refine stays (by simp [Part.regranted, hw, hway]) ?_
      rw [Part.reevaluateArm_conflicts hqw (by rw [hcon, hway]; simp), Part.stillWaiting, if_neg hf, hw, harm, hcon]
      rfl
    | nil =>
      have hgr : p.regranted y freed joined = some w := by simp [Part.regranted, hw, hway, hf]
      obtain ⟨hpe, hopen, hk, hfree, hlow, htags⟩ := hg w hw
      have hrec : freeRecord (q.arm y).claims = some k := by rw [harm]; exact freeRecord_eq (by omega) hfree hlow
      have htag : tagInForce (q.arm y).claims w.tag = false := by
        rw [harm, tagInForce_iff]
        intro c hc hin
        obtain ⟨m, hm, rfl⟩ := List.getElem_of_mem hc
        have := htags m (by omega)
        simp only [Part.claim, List.getD_eq_getElem?_getD, hm, getElem?_pos, Option.getD_some] at this
        exact this hin
      have hfr : ∀ c ∈ q.table.cellsOf (some w.box), q.table.owner c ≠ some y.other :=
        Part.not_foreign_of_free (hcon.trans hway)
      refine ⟨_, _, ?_, Part.Regrant.grants hgr hs hk hl hfr⟩
      rw [Part.reevaluateArm_grants hqw (hcon.trans hway) hrec htag (he.trans hpe) (harm ▸ hopen), Part.regrantOps, hgr,
        harm, hn]
      rfl

/-- Without cells that became NONE nothing is re-evaluated. -/
theorem Part.Regrant.unfreed {p : Part} {y : Arm} {k : Nat} {joined : List Nat} {u : CellTable} :
    p.Regrant y k [] joined u u (p.arm y) ∧ p.regrantOps y k [] joined = [] := by
  have h : p.regranted y [] joined = none := by simp [Part.regranted]
  have hr := Part.Regrant.waits (k := k) (u := u) h
  rw [Part.stillWaiting, if_pos rfl] at hr
  exact ⟨hr, by rw [Part.regrantOps, h]⟩

/-- After cells of an arm without a pending RESERVE have become NONE, that of the other arm is re-evaluated. -/
theorem Part.reevaluateIf_regrants {p q : Part} {y : Arm} {k : Nat} {freed joined : List Nat}
    (hother : (q.arm y.other).waiting = none) (harm : q.arm y = p.arm y) (hg : p.grantable y k)
    (hs : p.Shifted q.table y freed joined) (hl : (p.arm y).claims.length = 8) (he : q.engine = p.engine)
    (hn : q.now = p.now) : ∃ t r,
      q.reevaluateIf freed.length = (q.setTable t).acts y r 0 (p.regrantOps y k freed joined) ∧
      p.Regrant y k freed joined q.table t r := by
  have hre := Part.reevaluateIf_other hother freed.length
  cases hf : freed with
  | nil =>
    obtain ⟨hr, hops⟩ := Part.Regrant.unfreed (p := p) (y := y) (k := k) (joined := joined) (u := q.table)
    refine ⟨_, _, ?_, hr⟩
    rw [hops, ← harm]
    exact (q.acts_self y).symm
  | cons c l =>
    have hne : freed ≠ [] := by rw [hf]; simp
    rw [if_neg (by simpa using hne)] at hre
    rw [← hf, hre]
    exact Part.reevaluateArm_regrants hne harm hg hs hl he hn

end Sys2Proof.Machine

/-! PROOFS. RELEASE (O30, O31). -/

namespace Sys2Proof.Machine

/-! ## A request that frees cells, and the grant it brings about (R54) -/

/-- A request of x that frees cells, re-evaluates the other arm's pending RESERVE, and is answered. -/
theorem slotRead_regrants {s : State} {x : Arm} {slot k : Nat} {data : BitVec 512} {addr : Addr} {bytes : List Byte}
    {limit : Timer} {ab : Bool} (h : s.part.steady) (ht : s.part.tableLaw) (he : s.part.engine = .serving)
    (hb : s.part.busUp) (hi : s.part.inProgress = some ⟨.slotRead x slot, addr, bytes, limit, ab⟩)
    (hs : s.part.isCursor slot = false) (hf : byteAt data 0 = 1) {t : CellTable} {r : ArmPart} {flags : Word}
    {freed : List Nat} {v : Verdict} {f : ResultFigures}
    (hd : (s.part.posted x slot).dispatch x slot (readSlot data) =
      ((((s.part.posted x slot).setTable t).acts x r flags []).reevaluateIf freed.length).handResult x slot v f)
    (hg : s.part.grantable x.other k) (hsh : s.part.Shifted t x.other freed []) (hw : r.waiting = none)
    (ho : r.chain.openSlot = some slot) (hp : r.chain.publishDue = true)
    (hq : r.chain.blockQueued = (s.part.arm x).chain.blockQueued) :
    ∃ q, exec (.slotReadComplete data) s = .next q ∧ q.pending = s.pending ∧
      q.part.ops = s.part.opQueue ++ takingOps x slot s.part.now ++ s.part.regrantOps x.other k freed [] ++
        answerOps x slot s.part.now v f ++ s.part.blocksFor x (s.part.regranted x.other freed []).isSome ∧
      (q.part.arm x).view = ((r.replied true).walked).view ∧ s.part.regrants q.part x.other k freed [] ∧
      ∀ d, d ∉ s.part.regrantedCells x.other freed [] → q.part.table.entry d = t.entry d := by
  rw [s.part.posted_setTable_acts x slot he, List.append_nil] at hd
  obtain ⟨u, z, hre, hdue, hqd, hout, hregrants⟩ := Part.reevaluateIf_regrants (p := s.part)
    (q := (s.part.opDone.setTable t).acts x r flags (takingOps x slot s.part.now)) (y := x.other) (freed := freed)
    (by rw [Arm.other_other, Part.acts_arm]; exact hw)
    (by rw [Part.acts_arm_other]; exact s.part.opDone_arm x.other) hg (by rw [Part.acts_table]; exact hsh)
    (ht.claims_length x.other) (by rw [Part.acts_engine]; rfl) (by rw [Part.acts_now]; rfl)
  rw [hre, Part.acts_setTable, Part.handResult_eq] at hd
  generalize hA : ((((s.part.opDone.setTable t).setTable u).acts x r flags (takingOps x slot s.part.now)).acts x.other z 0
    (s.part.regrantOps x.other k freed [])) = a at hd
  have hans : a.answerable x slot = true := by
    rw [Part.answerable_iff, ← hA]
    exact ⟨(Part.acts_engine ..).trans ((Part.acts_engine ..).trans he), by
      rw [Part.acts_other_arm, Part.acts_arm]; exact ho⟩
  have hnow : a.now = s.part.now := by rw [← hA, Part.acts_now, Part.acts_now]; rfl
  have hax : a.arm x = r := by rw [← hA, Part.acts_other_arm, Part.acts_arm]
  rw [hans, Part.resultOps, hans, if_pos rfl, hnow, hax, ← hA, Part.acts_swap, List.append_assoc] at hd
  obtain ⟨q, hx, hpend, hops, hvx, hvy, hunit, -⟩ := slotRead_two h he hb hi hs hf hd (by
    show r.chain.openSlot.isSome = true
    rw [ho]; rfl) hp hq hdue hqd
  have htab : q.part.table = u := (congrArg (fun p : Part => p.table) hunit :)
  refine ⟨q, hx, hpend, by rw [hops]; simp only [List.append_assoc], hvx, hregrants q.part hvy htab, fun d hd => ?_⟩
  rw [htab, hout d hd, Part.acts_table]
  rfl

/-! ## The claim that a RELEASE names (R161, R162) -/

/-- The first record in force that carries the tag. -/
theorem findTag_some {l : List Claim} {tag : Half} {n : Nat} (hn : n < l.length)
    (hf : (l.getD n freeClaim).inForce = true) (ht : (l.getD n freeClaim).tag = tag)
    (hlow : ∀ m, m < n → (l.getD m freeClaim).inForce = true → (l.getD m freeClaim).tag ≠ tag) :
    (l.findIdx? fun c => c.inForce && c.tag == tag) = some n := by
  have get : ∀ m (hm : m < l.length), l.getD m freeClaim = l[m] := fun m hm => by
    simp [List.getD_eq_getElem?_getD, hm]
  refine List.findIdx?_eq_some_iff_getElem.mpr ⟨hn, ?_, fun m hm => ?_⟩
  · rw [get n hn] at hf ht
    simp [hf, ht]
  · have hml : m < l.length := by omega
    have := hlow m hm
    rw [get m hml] at this
    simpa using this

theorem findTag_spec {l : List Claim} {tag : Half} {n : Nat}
    (h : (l.findIdx? fun c => c.inForce && c.tag == tag) = some n) : n < l.length ∧ (l.getD n freeClaim).inForce = true ∧
      (l.getD n freeClaim).tag = tag ∧
      ∀ m, m < n → (l.getD m freeClaim).inForce = true → (l.getD m freeClaim).tag ≠ tag := by
  obtain ⟨hn, hp, hlow⟩ := List.findIdx?_eq_some_iff_getElem.mp h
  have get : ∀ m (hm : m < l.length), l.getD m freeClaim = l[m] := fun m hm => by
    simp [List.getD_eq_getElem?_getD, hm]
  rw [Bool.and_eq_true, beq_iff_eq, ← get n hn] at hp
  refine ⟨hn, hp.1, hp.2, fun m hm hin htag => hlow m hm ?_⟩
  rw [get m (by omega)] at hin htag
  simp [hin, htag]

theorem findTag_none {l : List Claim} {tag : Half} (h : ∀ c ∈ l, c.inForce = true → c.tag ≠ tag) :
    (l.findIdx? fun c => c.inForce && c.tag == tag) = none := by
  simpa using h

/-- x's known envelope touches the claim's box. -/
def Part.touchesClaim (p : Part) (x : Arm) (c : Claim) : Prop :=
  ∃ e b, (p.arm x).monitor.known = true ∧ (p.arm x).monitor.envelope = some e ∧ e.cells = some b ∧ c.box.shares b = true

theorem Part.envelopeTouches_iff (p : Part) (x : Arm) (c : Claim) :
    p.envelopeTouches x c = true ↔ p.touchesClaim x c := by
  unfold Part.envelopeTouches Part.touchesClaim Monitor.knownCells
  cases hk : (p.arm x).monitor.known
  · simp
  · cases he : (p.arm x).monitor.envelope with
    | none => simp
    | some e => cases hc : e.cells <;> simp [CellBox.touchedBy, hc]

section
variable {p : Part} {x : Arm} {slot n : Nat} {tag : Half}

theorem Part.release_unknown (h : ∀ c ∈ (p.arm x).claims, c.inForce = true → c.tag ≠ tag) :
    p.release x slot tag = p.handResult x slot .unknownTag (.release none none 0 0 none 0 0) := by
  simp only [Part.release, findTag_none h]

variable (h : ((p.arm x).claims.findIdx? fun c => c.inForce && c.tag == tag) = some n)
include h

theorem Part.release_leaving (hs : (p.claim x n).state = .leaving) : p.release x slot tag =
    p.handResult x slot .leaving (releaseFigures n (p.claim x n) 0 (some (p.claim x n).outside)) := by
  simp only [Part.release, h, hs, if_true]

variable (hs : (p.claim x n).state = .granted)
include hs

theorem Part.release_touched (ht : p.touchesClaim x (p.claim x n)) : p.release x slot tag =
    ((p.setClaim x n { p.claim x n with state := .leaving, outside := 0 }).markDue x).handResult x slot .leaving
      (releaseFigures n (p.claim x n) 0 (some 0)) := by
  have ht := (p.envelopeTouches_iff x _).mpr ht
  simp only [Part.release, h, hs, ht, if_true, reduceCtorEq, if_false]

theorem Part.release_released (ht : ¬ p.touchesClaim x (p.claim x n)) : p.release x slot tag =
    (p.releaseClaim x n).handResult x slot .released
      (releaseFigures n (p.claim x n) (p.releaseFrees x n) none) := by
  have ht : p.envelopeTouches x (p.claim x n) = false := by
    rw [← Bool.not_eq_true, p.envelopeTouches_iff]; exact ht
  simp only [Part.release, h, hs, ht, Bool.false_eq_true, reduceCtorEq, if_false]

end

theorem Part.setClaim_acts (p : Part) (x : Arm) (n : Nat) (c : Claim) :
    p.setClaim x n c = p.acts x ((p.arm x).withClaim n c) 0 [] := by
  unfold Part.setClaim
  rw [Part.updArm_eq_acts]
  rfl

theorem Part.releaseClaim_eq (p : Part) (x : Arm) (n : Nat) : p.releaseClaim x n =
    ((p.setTable (p.table.removeAll n (p.table.cellsOf (some (p.claim x n).box)))).acts x
      (((p.arm x).withClaim n freeClaim).due p.marksKept) 0 []).reevaluateIf (p.releaseFrees x n) := by
  unfold Part.releaseClaim
  dsimp only
  rw [Part.setClaim_acts, Part.markDue_eq]
  simp only [Part.acts_acts, Part.acts_arm, Part.acts_marksKept, BitVec.or_self, List.append_nil]
  rfl

/-! ## RELEASE of a claim that lets go (R164) -/

section
variable {s : State} {x : Arm} {slot n k : Nat} {data : BitVec 512} {addr : Addr} {bytes : List Byte} {limit : Timer}
  {ab : Bool}

/-- What is freed by the release of record n. -/
def Part.freedBy (p : Part) (x : Arm) (n : Nat) : List Nat :=
  (p.table.cellsOf (some (p.claim x n).box)).filter fun d => (p.table.entry d).holders == [n]

/-- RELEASE of a GRANTED claim that the envelope does not touch. -/
theorem release_step (h : s.part.steady) (ht : s.part.tableLaw) (he : s.part.engine = .serving)
    (hb : s.part.busUp) (hi : s.part.inProgress = some ⟨.slotRead x slot, addr, bytes, limit, ab⟩)
    (hs : s.part.isCursor slot = false) (hf : byteAt data 0 = 1) (harm : (readSlot data).arm.toNat = armCode x)
    (hkind : (readSlot data).kind = 2) (hw : (s.part.arm x).waiting = none) (hg : s.part.grantable x.other k)
    (hn : n < 8) (hst : (s.part.claim x n).state = .granted) (htag : (s.part.claim x n).tag = (readSlot data).tag)
    (hlow : ∀ m, m < n → (s.part.claim x m).inForce = true → (s.part.claim x m).tag ≠ (readSlot data).tag)
    (hto : ¬ s.part.touchesClaim x (s.part.claim x n)) :
    ∃ t, exec (.slotReadComplete data) s = .next t ∧ t.pending = s.pending ∧
      t.part.ops = s.part.opQueue ++ takingOps x slot s.part.now ++ s.part.regrantOps x.other k (s.part.freedBy x n) [] ++
        answerOps x slot s.part.now .released
          (releaseFigures n (s.part.claim x n) (s.part.freedBy x n).length none) ++
        s.part.blocksFor x (s.part.regranted x.other (s.part.freedBy x n) []).isSome ∧
      s.part.regrants t.part x.other k (s.part.freedBy x n) [] ∧
      (∀ m, t.part.claim x m = if m = n then freeClaim else s.part.claim x m) ∧
      ∀ d, d ∉ s.part.regrantedCells x.other (s.part.freedBy x n) [] → t.part.table.entry d =
        (s.part.table.removeAll n (s.part.table.cellsOf (some (s.part.claim x n).box))).entry d := by
  have hinf : (s.part.claim x n).inForce = true := by simp [Claim.inForce, hst]
  have hlen : n < (s.part.arm x).claims.length := by rw [ht.claims_length]; exact hn
  obtain ⟨hpe, -, hpt, -, -⟩ := s.part.posted_fields x slot he
  have hown := s.part.posted_own x slot he
  have hclaims : ((s.part.posted x slot).arm x).claims = (s.part.arm x).claims := by rw [hown]; rfl
  have hclaim : (s.part.posted x slot).claim x n = s.part.claim x n := by rw [Part.claim, hclaims]; rfl
  have hmark : (s.part.posted x slot).marksKept = true := by simp [Part.marksKept, hpe]
  have hfrees : (s.part.posted x slot).releaseFrees x n = (s.part.freedBy x n).length := by
    rw [Part.releaseFrees, hpt, hclaim]; rfl
  have hdis := (s.part.posted x slot).dispatch_release x slot (f := readSlot data) (dispatch_arm harm) hkind
  rw [Part.release_released (by rw [hclaims]; exact findTag_some hlen hinf htag hlow) (by rw [hclaim]; exact hst)
    (by rw [hclaim, Part.touchesClaim, hown]; exact hto), Part.releaseClaim_eq, hfrees, hclaim, hpt, hown, hmark] at hdis
  have hcells : ∀ d ∈ s.part.table.cellsOf (some (s.part.claim x n).box),
      s.part.table.owner d = some x.other.other ∧ n ∈ (s.part.table.entry d).holders := fun d hd => by
    rw [Arm.other_other]
    exact ht.holds hn hinf hd
  obtain ⟨t, hx, hpend, hops, hview, hre, hent⟩ := slotRead_regrants h ht he hb hi hs hf hdis hg
    (Part.Shifted.of_left ht.1 hcells) hw rfl (Bool.or_true _) rfl
  refine ⟨t, hx, hpend, hops, hre, fun m => ?_, hent⟩
  have hcl : (t.part.arm x).claims = (s.part.arm x).claims.set n freeClaim := (congrArg ArmPart.claims hview :)
  rw [Part.claim, hcl]
  exact getD_set_ite _ _ _ _ hlen

end

/-- Settles O31. -/
theorem releaseGrantsTheWaitingReserve : Obligations.ReleaseGrantsTheWaitingReserve := by
  unfold Obligations.ReleaseGrantsTheWaitingReserve
  intro s x slot data addr bytes limit ab n k h ht
  dsimp only
  intro he hb hi hs hf harm hkind hw hg hn hst htag hlow hto
  have hto' : ¬ s.part.touchesClaim x (s.part.claim x n) := fun ⟨e, b, hk, hen, hc, hsh⟩ => by
    rw [hto e b hk hen hc] at hsh; cases hsh
  obtain ⟨t, hx, hpend, hops, hre, hcl, hent⟩ := release_step h ht he hb hi hs hf harm hkind hw hg hn hst htag hlow hto'
  have hinf : (s.part.claim x n).inForce = true := by simp [Claim.inForce, hst]
  obtain ⟨hin, hout, -⟩ := CellTable.left_entries ht.1 (fun d hd => ht.holds hn hinf hd)
  refine ⟨t, hx, hpend, ?_, hre, (hcl n).trans (if_pos rfl), fun m _ hmn => (hcl m).trans (if_neg hmn), fun d hd => ?_⟩
  · rw [hops, Part.blocksFor, ← List.append_assoc]
    rfl
  · rw [hent d hd]
    exact ⟨hin d, hout d⟩

/-- RELEASE of a GRANTED claim that the envelope touches: the claim is LEAVING, and the table stays. -/
theorem release_touched_step {s : State} {x : Arm} {slot n : Nat} {data : BitVec 512} {addr : Addr} {bytes : List Byte}
    {limit : Timer} {ab : Bool} (h : s.part.steady) (ht : s.part.tableLaw) (he : s.part.engine = .serving)
    (hb : s.part.busUp) (hi : s.part.inProgress = some ⟨.slotRead x slot, addr, bytes, limit, ab⟩)
    (hs : s.part.isCursor slot = false) (hf : byteAt data 0 = 1) (harm : (readSlot data).arm.toNat = armCode x)
    (hkind : (readSlot data).kind = 2) (hn : n < 8)
    (hfind : ((s.part.arm x).claims.findIdx? fun c => c.inForce && c.tag == (readSlot data).tag) = some n)
    (hst : (s.part.claim x n).state = .granted) (hto : s.part.touchesClaim x (s.part.claim x n)) :
    ∃ t, exec (.slotReadComplete data) s = .next t ∧ t.pending = s.pending ∧
      t.part.ops = s.part.opQueue ++ takingOps x slot s.part.now ++ answerOps x slot s.part.now .leaving
        (releaseFigures n (s.part.claim x n) 0 (some 0)) ++ s.part.statusOps x ∧
      t.part.table = s.part.table ∧ ∀ m, t.part.claim x m =
        if m = n then { s.part.claim x n with state := .leaving, outside := 0 } else s.part.claim x m := by
  obtain ⟨hpe, -, hpt, hpn, -⟩ := s.part.posted_fields x slot he
  have hown := s.part.posted_own x slot he
  have hclaims : ((s.part.posted x slot).arm x).claims = (s.part.arm x).claims := by rw [hown]; rfl
  have hclaim : (s.part.posted x slot).claim x n = s.part.claim x n := by rw [Part.claim, hclaims]; rfl
  have hmark : (s.part.posted x slot).marksKept = true := by simp [Part.marksKept, hpe]
  have hdis := (s.part.posted x slot).dispatch_release x slot (f := readSlot data) (dispatch_arm harm) hkind
  have hres := Part.release_touched (p := s.part.posted x slot) (slot := slot) (by rw [hclaims]; exact hfind)
    (by rw [hclaim]; exact hst) (by rw [hclaim, Part.touchesClaim, hown]; exact hto)
  generalize hc : ({ s.part.claim x n with state := .leaving, outside := 0 } : Claim) = c
  rw [hclaim, hc, Part.setClaim_acts, Part.markDue_eq, Part.handResult_eq] at hres
  simp only [Part.acts_acts, Part.acts_arm, Part.acts_marksKept, hmark, hown] at hres
  have hfin : (s.part.posted x slot).release x slot (readSlot data).tag = (s.part.posted x slot).acts x
      (((((s.part.arm x).taken slot).withClaim n c).due true).replied true) 0
      (answerOps x slot s.part.now .leaving (releaseFigures n (s.part.claim x n) 0 (some 0))) := by
    rw [hres]
    simp [Part.answerable, Part.resultOps, hpe, hpn, ArmPart.taken, ArmPart.due, ArmPart.withClaim]
  rw [s.part.posted_acts x slot he] at hfin
  obtain ⟨t, hx, hpend, hops, hview, -⟩ := slotRead_acts (t := s.part.table) h he hb hi hs hf (hdis.trans hfin) rfl
    (Bool.or_true _) rfl
  refine ⟨t, hx, hpend, hops, (congrArg (fun q : Part => q.table) hview :).trans (by cases x <;> rfl), fun m => ?_⟩
  have hcl : (t.part.arm x).claims = (s.part.arm x).claims.set n c :=
    (congrArg ArmPart.claims (Part.arm_view_of_view hview x) :).trans (by cases x <;> rfl)
  rw [Part.claim, hcl]
  exact getD_set_ite _ _ _ _ (by rw [ht.claims_length]; exact hn)

/-- Settles O30. -/
theorem releaseSettlesTheClaim : Obligations.ReleaseSettlesTheClaim := by
  unfold Obligations.ReleaseSettlesTheClaim
  intro s x slot data addr bytes limit ab h ht
  dsimp only
  intro he hb hi hs hf harm hkind
  have hown := s.part.posted_own x slot he
  have hclaims : ((s.part.posted x slot).arm x).claims = (s.part.arm x).claims := by rw [hown]; rfl
  have hclaim : ∀ n, (s.part.posted x slot).claim x n = s.part.claim x n := fun n => by rw [Part.claim, hclaims]; rfl
  have hdis := (s.part.posted x slot).dispatch_release x slot (f := readSlot data) (dispatch_arm harm) hkind
  have answered : ∀ v g, (s.part.posted x slot).release x slot (readSlot data).tag =
        (s.part.posted x slot).handResult x slot v g →
      ∃ t, exec (.slotReadComplete data) s = .next t ∧ t.pending = s.pending ∧
        t.part.ops = s.part.opQueue ++ takingOps x slot s.part.now ++ answerOps x slot s.part.now v g ++
          s.part.statusOps x ∧ t.part.table = s.part.table ∧ (t.part.arm x).claims = (s.part.arm x).claims :=
    fun v g e => by
      obtain ⟨t, hx, hpend, hops, hview⟩ := slotRead_answered h he hb hi hs hf (hdis.trans e)
      exact ⟨t, hx, hpend, hops, (congrArg (fun q : Part => q.table) hview :).trans (by cases x <;> rfl),
        (congrArg ArmPart.claims (Part.arm_view_of_view hview x) :).trans (by cases x <;> rfl)⟩
  have first : ∀ n, n < 8 → (s.part.claim x n).inForce = true → (s.part.claim x n).tag = (readSlot data).tag →
      (∀ m, m < n → (s.part.claim x m).inForce = true → (s.part.claim x m).tag ≠ (readSlot data).tag) →
      ((s.part.arm x).claims.findIdx? fun c => c.inForce && c.tag == (readSlot data).tag) = some n :=
    fun n hn => findTag_some (by rw [ht.claims_length]; exact hn)
  cases hfind : (s.part.arm x).claims.findIdx? fun c => c.inForce && c.tag == (readSlot data).tag with
  | none =>
    have hno : ∀ c ∈ (s.part.arm x).claims, c.inForce = true → c.tag ≠ (readSlot data).tag := by simpa using hfind
    obtain ⟨t, hx, hpend, hops, htab, hcl⟩ := answered _ _ (Part.release_unknown (by rw [hclaims]; exact hno))
    refine ⟨t, hx, hpend, fun _ => ⟨hops, htab, hcl⟩, fun n hn hinf htag hlow => ?_⟩
    rw [first n hn hinf htag hlow] at hfind
    cases hfind
  | some n =>
    have hin : ¬ ∀ c ∈ (s.part.arm x).claims, c.inForce = true → c.tag ≠ (readSlot data).tag := fun hno => by
      rw [findTag_none hno] at hfind
      cases hfind
    have unique : ∀ {m}, m < 8 → (s.part.claim x m).inForce = true → (s.part.claim x m).tag = (readSlot data).tag →
        (∀ j, j < m → (s.part.claim x j).inForce = true → (s.part.claim x j).tag ≠ (readSlot data).tag) → m = n :=
      fun hm hinf htag hlow => Option.some.inj ((first _ hm hinf htag hlow).symm.trans hfind)
    obtain ⟨hn, hinf, htag, hlow⟩ := findTag_spec hfind
    rw [ht.claims_length x] at hn
    change (s.part.claim x n).inForce = true at hinf
    have hfind' : (((s.part.posted x slot).arm x).claims.findIdx? fun c => c.inForce && c.tag == (readSlot data).tag) =
        some n := by rw [hclaims]; exact hfind
    have hst : (s.part.claim x n).state = .leaving ∨ (s.part.claim x n).state = .granted := by
      have hne : (s.part.claim x n).state ≠ .free := by simpa [Claim.inForce] using hinf
      cases hc : (s.part.claim x n).state
      · exact absurd hc hne
      · exact .inr rfl
      · exact .inl rfl
    rcases hst with hst | hst
    · obtain ⟨t, hx, hpend, hops, htab, hcl⟩ := answered _ _ (Part.release_leaving hfind' (by rw [hclaim]; exact hst))
      rw [hclaim] at hops
      refine ⟨t, hx, hpend, fun hno => absurd hno hin, fun m hm hinf htag hlow => ?_⟩
      obtain rfl := unique hm hinf htag hlow
      exact ⟨fun _ => ⟨hops, htab, hcl⟩, fun hg => (by rw [hst] at hg; cases hg), fun hg => (by rw [hst] at hg; cases hg)⟩
    by_cases hto : s.part.touchesClaim x (s.part.claim x n)
    · obtain ⟨t, hx, hpend, hops, htab, hcl⟩ := release_touched_step h ht he hb hi hs hf harm hkind hn hfind hst hto
      refine ⟨t, hx, hpend, fun hno => absurd hno hin, fun m hm hinf htag hlow => ?_⟩
      obtain rfl := unique hm hinf htag hlow
      exact ⟨fun hl => (by rw [hst] at hl; cases hl), fun _ _ => ⟨hops, htab, (hcl m).trans (if_pos rfl),
        fun j _ hj => (hcl j).trans (if_neg hj)⟩, fun _ hno => absurd hto hno⟩
    by_cases hw : s.part.armA.waiting = none ∧ s.part.armB.waiting = none
    · have hnone : ∀ y, (s.part.arm y).waiting = none := fun y => by
        cases y
        · exact hw.1
        · exact hw.2
      have hre : s.part.regranted x.other (s.part.freedBy x n) [] = none := by simp [Part.regranted, hnone]
      obtain ⟨t, hx, hpend, hops, -, hcl, hent⟩ := release_step (k := 0) h ht he hb hi hs hf harm hkind (hnone x)
        (fun w hsome => (by rw [hnone] at hsome; cases hsome)) hn hst htag hlow hto
      rw [hre, Part.regrantOps, hre, List.append_nil, show (none : Option PendingReserve).isSome = false from rfl,
        Part.blocksFor_own] at hops
      rw [Part.regrantedCells, hre] at hent
      obtain ⟨hleft, hout, howner⟩ := CellTable.left_entries ht.1 (fun d hd => ht.holds hn hinf hd)
      refine ⟨t, hx, hpend, fun hno => absurd hno hin, fun m hm hinf' htag' hlow' => ?_⟩
      obtain rfl := unique hm hinf' htag' hlow'
      refine ⟨fun hl => (by rw [hst] at hl; cases hl), fun _ hyes => absurd hyes hto, fun _ _ _ _ => ⟨hops, fun d hd => ?_,
        (hcl m).trans (if_pos rfl), fun j _ hj => (hcl j).trans (if_neg hj), fun d => ?_⟩⟩
      · unfold CellTable.owner at howner ⊢
        rw [hent d (by simp [CellTable.cellsOf])]
        exact howner d hd
      · rw [hent d (by simp [CellTable.cellsOf])]
        exact ⟨hleft d, hout d⟩
    · refine ⟨_, onPart_step s (fun q => q.slotReadDone data) h.1, rfl, fun hno => absurd hno hin,
        fun m hm hinf' htag' hlow' => ?_⟩
      obtain rfl := unique hm hinf' htag' hlow'
      exact ⟨fun hl => (by rw [hst] at hl; cases hl), fun _ hyes => absurd hyes hto, fun _ _ ha hb => absurd ⟨ha, hb⟩ hw⟩

end Sys2Proof.Machine

/-! PROOFS. RELEASE_PARK (O33). -/

namespace Sys2Proof.Machine

section
variable (p : Part) (x : Arm)

/-- The comparison with the park limit moves the guard and the link alone, and PARK follows the limit (R29). -/
theorem Part.compareParkLimit_acts : ∃ g l k flags, p.compareParkLimit x =
    p.acts x (({ p.arm x with guard := g, link := l } : ArmPart).due k) flags [] ∧
      g.reasons = p.parkReasons (p.arm x) := by
  obtain ⟨he, e⟩ | ⟨hq, he, e⟩ | ⟨hq, he, e⟩ := p.compareParkLimit_moves x <;> rw [e]
  · exact ⟨(p.arm x).guard, (p.arm x).link, false, 0, (p.acts_self x).symm.trans (by rw [ArmPart.due_false]; rfl), he.symm⟩
  · by_cases hs : (p.arm x).guard.state = .running
    · exact ⟨_, _, _, _, p.addReason_running x .park hq hs, he.symm⟩
    · exact ⟨_, (p.arm x).link, _, _, p.addReason_staying x .park hq hs, he.symm⟩
  · by_cases hs : (p.arm x).guard.state = .held ∧ (p.arm x).guard.reasons.put false .park = noReasons
    · exact ⟨_, _, _, _, p.removeReason_last x .park hq hs.1 hs.2, he.symm⟩
    · exact ⟨_, (p.arm x).link, _, _, p.removeReason_staying x .park hq hs, he.symm⟩

/-- An arm whose park count is `n`. -/
def ArmPart.parking (r : ArmPart) (n : Nat) : ArmPart := { r with parkCount := n }

theorem Part.unpark_eq (gone : List Nat) : p.unpark x gone =
    (p.setTable (p.table.removeAll parkNumber gone)).acts x
      (((p.arm x).parking ((p.arm x).parkCount - gone.length)).due (p.marksKept && !gone.isEmpty)) 0 [] := by
  unfold Part.unpark
  by_cases hg : gone = []
  · have hs : (p.arm x).parking ((p.arm x).parkCount - 0) = p.arm x := rfl
    have ht : p.setTable (p.table.removeAll parkNumber []) = p := rfl
    subst hg
    rw [if_pos rfl, ht, List.length_nil, hs]
    simp
  · rw [if_neg hg, Part.setParkCount, Part.updArm_eq_acts, Part.markDue_eq]
    have he : gone.isEmpty = false := by simpa using hg
    simp only [Part.acts_arm, Part.acts_acts, Part.acts_marksKept, he, Bool.not_false, Bool.and_true, BitVec.or_self,
      List.append_nil]
    rfl

/-- The envelope that spares a park cell (R39). -/
def Part.sparesCell (c : Nat) : Prop :=
  ∃ e b, (p.arm x).guard.state ≠ .offline ∧ (p.arm x).monitor.known = true ∧ (p.arm x).monitor.envelope = some e ∧
    e.cells = some b ∧ b.containsCell p.table.nx p.table.ny c = true

theorem Part.sparedCells_iff (c : Nat) : p.table.inCells c (p.sparedCells x) = true ↔ p.sparesCell x c := by
  unfold Part.sparedCells Part.sparesCell Monitor.knownCells
  by_cases ho : (p.arm x).guard.state = .offline
  · simp [ho, CellTable.inCells]
  · cases hk : (p.arm x).monitor.known
    · simp [ho, CellTable.inCells]
    · cases he : (p.arm x).monitor.envelope with
      | none => simp [ho, CellTable.inCells]
      | some e => cases hc : e.cells <;> simp [ho, CellTable.inCells, hc]

/-- What RELEASE_PARK lets go of. -/
theorem Part.mem_parkOutside_spared (h : p.table.wf) (c : Nat) : c ∈ p.parkOutside x (p.sparedCells x) ↔
    p.table.holds x parkNumber c ∧ ¬ p.sparesCell x c := by
  rw [← p.sparedCells_iff x c, Bool.not_eq_true, Part.parkOutside, List.mem_filter, CellTable.mem_parkCells_iff h]
  simp

end

/-- Settles O33. -/
theorem releaseParkLetsGoOfParkCells : Obligations.ReleaseParkLetsGoOfParkCells := by
  unfold Obligations.ReleaseParkLetsGoOfParkCells
  intro s x slot data addr bytes limit ab k h ht
  dsimp only
  intro he hb hi hs hf harm hkind hw hg
  have hdis := (s.part.posted x slot).dispatch_releasePark x slot (f := readSlot data) (dispatch_arm harm) hkind
  obtain ⟨hpe, hpf, hpt, -, -⟩ := s.part.posted_fields x slot he
  have hown := s.part.posted_own x slot he
  have hmark : (s.part.posted x slot).marksKept = true := by simp [Part.marksKept, hpe]
  generalize hG : s.part.parkOutside x (s.part.sparedCells x) = gone
  have hgone : (s.part.posted x slot).parkOutside x ((s.part.posted x slot).sparedCells x) = gone := by
    rw [← hG, Part.parkOutside, Part.sparedCells, hpt, hown]
    rfl
  have hmem : ∀ c, c ∈ gone ↔ s.part.table.holds x parkNumber c ∧ ¬ s.part.sparesCell x c := by
    rw [← hG]; exact s.part.mem_parkOutside_spared x ht.1
  have hnodup : gone.Nodup := by
    rw [← hG]; exact (s.part.table.parkCells_nodup ht.1 x).sublist (s.part.parkOutside_sublist x _)
  generalize hF : (gone.filter fun c => (s.part.table.entry c).holders == [parkNumber]) = freed
  have hlen : (s.part.posted x slot).table.countAlone parkNumber gone = freed.length := by rw [hpt, ← hF]; rfl
  have hheld : ∀ c ∈ gone, s.part.table.owner c = some x.other.other ∧ parkNumber ∈ (s.part.table.entry c).holders :=
    fun c hc => by rw [Arm.other_other]; exact ((hmem c).mp hc).1
  have hsh := Part.Shifted.of_left ht.1 hheld
  obtain ⟨hleft, hout, howner⟩ := CellTable.left_entries ht.1 (fun c hc => ((hmem c).mp hc).1)
  rw [hF] at hsh
  generalize hq : (s.part.posted x slot).unpark x gone = q
  have hqe := hq.symm.trans (Part.unpark_eq _ x gone)
  rw [hpt, hown, hmark] at hqe
  obtain ⟨g, l, j, flags, hcmp, hreas⟩ := q.compareParkLimit_acts x
  have hqx := congrArg (fun u : Part => u.arm x) hqe
  simp only [Part.acts_arm] at hqx
  have hacts : ∀ r f, q.acts x r f [] =
      ((s.part.posted x slot).setTable (s.part.table.removeAll parkNumber gone)).acts x r f [] := fun r f => by
    rw [hqe]; simp
  rw [hacts, hqx] at hcmp
  rw [hqx] at hreas
  generalize hR : (({ (((s.part.arm x).taken slot).parking (((s.part.arm x).taken slot).parkCount - gone.length)).due
    (true && !gone.isEmpty) with guard := g, link := l } : ArmPart).due j) = r at hcmp
  have hrw : r.waiting = none ∧ r.claims = (s.part.arm x).claims ∧ r.guard.reasons = g.reasons ∧
      r.parkCount = (s.part.arm x).parkCount - gone.length ∧ r.chain.openSlot = some slot ∧
      r.chain.publishDue = true ∧ r.chain.blockQueued = (s.part.arm x).chain.blockQueued := by
    rw [← hR]
    exact ⟨hw, rfl, rfl, rfl, rfl, by simp [ArmPart.due, ArmPart.parking, ArmPart.taken], rfl⟩
  obtain ⟨hrw, hrc, hrg, hrp, hro, hrd, hrq⟩ := hrw
  have hcount : ((q.compareParkLimit x).reevaluateIf freed.length).arm x = r := by
    rw [hcmp]
    generalize hA : ((s.part.posted x slot).setTable _).acts x r flags [] = a
    have hax : a.arm x = r := by rw [← hA, Part.acts_arm]
    have hkeep := a.reevaluateArm_other x.other
    rw [Arm.other_other] at hkeep
    rw [Part.reevaluateIf_other (y := x.other) (by rw [Arm.other_other, hax]; exact hrw)]
    split
    · exact hax
    · exact hkeep.trans hax
  rw [Part.releasePark] at hdis
  rw [hgone, hlen, hq, hcount, hcmp, hrp] at hdis
  obtain ⟨t, hx, hpend, hops, hview, hre, hent⟩ := slotRead_regrants h ht he hb hi hs hf hdis hg hsh hrw hro hrd hrq
  have hcnt : (t.part.arm x).parkCount = (s.part.arm x).parkCount - gone.length :=
    (congrArg ArmPart.parkCount hview :).trans hrp
  refine ⟨t, hx, hpend, ⟨gone, hnodup, hmem, ?_⟩, (congrArg ArmPart.claims hview :).trans hrc, fun hlim => ?_⟩
  · rw [hF]
    refine ⟨?_, hcnt, hre, fun c hc => ?_⟩
    · rw [hops, Part.blocksFor, hcnt, ← List.append_assoc]
    · unfold CellTable.owner at howner ⊢
      rw [hent c hc]
      refine ⟨fun hin => ⟨?_, hleft c hin⟩, hout c⟩
      rw [howner c hin]
      split <;> simp_all
  · have hgu : (t.part.arm x).guard.reasons = g.reasons :=
      (congrArg (fun u : ArmPart => u.guard.reasons) hview :).trans hrg
    have hfig : q.figures = s.part.figures := by rw [hqe, Part.acts_figures]; exact hpf
    rw [hgu, hreas, hcnt, Part.parkReasons, hfig]
    simp only [hlim, if_false, decide_eq_true_eq]
    rfl

end Sys2Proof.Machine

/-! PROOFS. The drive links (O37 to O40). -/

namespace Sys2Proof.Machine

/-! ## Steps that move a link, a record or a cause flag alone -/

section
variable {s : State} {f : Part → Part} {x : Arm} {r : ArmPart} {flags : Word} (h : s.part.steady)
  (hg : r.guard.state = (s.part.arm x).guard.state) (ha : r.guard.stopAsserted = (s.part.arm x).guard.stopAsserted)
  (hd : r.chain.publishDue = (s.part.arm x).chain.publishDue)
  (hq : r.chain.blockQueued = (s.part.arm x).chain.blockQueued)
include h hg ha hd hq

/-- With an arm's guard and chain as they were, nothing comes to be owed. -/
theorem Part.steady.withArm : (s.part.withArm x r flags).settledLaw ∧ (s.part.withArm x r flags).linesLaw := by
  obtain ⟨-, hs, hl⟩ := h
  cases x <;> exact ⟨by simpa [Part.settledLaw, Part.withArm, Part.updArm, hd, hq] using hs,
    by simpa [Part.linesLaw, Part.stopLineLaw, Part.lineReleased, Part.withArm, Part.updArm, hg, ha, Part.guarding] using hl⟩

/-- A step that leaves every guard, chain and cause flag. -/
theorem onPart_withArm (hf : f s.part = s.part.withArm x r 0) :
    onPart s (fun p => p.step f) = .next { s with part := s.part.withArm x r 0 } := by
  obtain ⟨hs, hl⟩ := h.withArm (flags := 0) hg ha hd hq
  refine onPart_quiet s h hf hs hl (by cases x <;> rfl) fun hi => ?_
  cases x <;> simpa [Part.interruptCondition, Part.withArm, Part.updArm] using hi

/-- A step that leaves every guard and chain. -/
theorem onPart_withArm_flags (hf : f s.part = s.part.withArm x r flags) :
    ∃ t, onPart s (fun p => p.step f) = .next t ∧ t.pending = s.pending ∧ t.part.ops = s.part.ops ∧
      t.part.view = (s.part.withArm x r flags).view := by
  obtain ⟨hs, hl⟩ := h.withArm (flags := flags) hg ha hd hq
  refine ⟨_, onPart_register s h hf hs hl (by cases x <;> rfl), rfl, ?_, ?_⟩
  all_goals
    unfold Part.sendMessage
    split <;> cases x <;> rfl

end

/-- The part with a link replaced. -/
theorem Part.updLink_eq_withArm (p : Part) (x : Arm) (f : Link → Link) :
    p.updLink x f = p.withArm x { p.arm x with link := f (p.arm x).link } 0 := by
  rw [Part.updLink_eq, Part.updArm_eq_acts, Part.withArm_eq_acts]

theorem Part.withArm_setCause (p : Part) (x : Arm) (r : ArmPart) (c : Cause) :
    (p.withArm x r 0).setCause c = p.withArm x r (causeBit c) := by
  rw [Part.withArm_eq_acts, Part.withArm_eq_acts, Part.acts_setCause]
  simp

theorem Part.discardFrame_eq (p : Part) (x : Arm) :
    p.discardFrame x = p.withArm x { p.arm x with link := (p.arm x).link.dropPartial } (causeBit .link) := by
  unfold Part.discardFrame
  rw [Part.updLink_eq_withArm, Part.withArm_setCause]

section
variable (p : Part) (x : Arm)

theorem Part.rxHunt_start : p.rxHunt x 0xA5 = p.updLink x fun l =>
    { l with phase := .frame, received := [0xA5], gapTimer := some (p.now + 1000) } := rfl

theorem Part.rxHunt_estop : p.rxHunt x 0xE7 = (p.setCause .link).escalate x .estop := rfl

theorem Part.rxHunt_other {b : Byte} (h : b ≠ 0xA5 ∧ b ≠ 0xE7) : p.rxHunt x b = p := by
  unfold Part.rxHunt startByte estopByte
  rw [if_neg h.1, if_neg h.2]

/-- An escalation leaves an arm out of service that admits nothing. -/
theorem Part.escalate_resting (c : StopCause) (h : (p.arm x).guard.state = .offline ∨ (p.arm x).guard.state = .stopped) :
    p.escalate x c = p := by
  unfold Part.escalate
  rcases h with h | h <;> rw [h]

end

/-- Settles O37. -/
theorem byteInHunt : Obligations.ByteInHunt := by
  unfold Obligations.ByteInHunt
  intro s x b framing h
  dsimp only
  refine ⟨fun hq => onPart_unchanged s _ h ?_, fun ha hp hb => onPart_unchanged s _ h ?_, fun ha hp hf hb => ?_,
    fun ha hp hf hb hg => ?_⟩
  · simp only [Part.rxByte, hq]
  · simp only [Part.rxByte, ha, hp]
    cases framing with
    | true => rfl
    | false => exact s.part.rxHunt_other x (hb.resolve_left (by simp))
  · subst hf hb
    have hrx : s.part.rxByte x 0xA5 false = s.part.rxHunt x 0xA5 := by
      simp only [Part.rxByte, ha, hp, Bool.false_eq_true, if_false]
    exact onPart_withArm h rfl rfl rfl rfl (hrx.trans ((s.part.rxHunt_start x).trans (s.part.updLink_eq_withArm x _)))
  · subst hf hb
    refine onPart_withArm_flags h rfl rfl rfl rfl ?_
    simp only [Part.rxByte, ha, hp, Bool.false_eq_true, if_false, Part.rxHunt_estop]
    rw [Part.escalate_resting _ _ _ (by cases x <;> exact hg), Part.setCause_eq_acts _ x, Part.withArm_eq_acts]

/-! ## A byte in FRAME, and the byte gap (O38) -/

section
variable (p : Part) (x : Arm) (b : Byte)

/-- The branches of a byte in FRAME, in the order of R127. -/
theorem Part.rxFrame_badKind (h : (p.arm x).link.received.length = 1) (hb : b ≠ 0x31) :
    p.rxFrame x b = p.discardFrame x := by
  unfold Part.rxFrame positionKind
  dsimp only
  rw [if_pos ⟨by rw [List.length_append, h]; rfl, hb⟩]

variable (h1 : 1 ≤ (p.arm x).link.received.length) (h2 : (p.arm x).link.received.length = 1 → b = 0x31)
include h1 h2

theorem Part.rxFrame_joins (h : (p.arm x).link.received.length < 12) : p.rxFrame x b = p.updLink x fun l =>
    { l with received := (p.arm x).link.received ++ [b], gapTimer := some (p.now + 1000) } := by
  unfold Part.rxFrame positionKind frameLength
  dsimp only
  rw [List.length_append, List.length_singleton, if_neg fun hc => hc.2 (h2 (by omega)), if_neg (by omega)]
  rfl

omit h1 in
theorem Part.rxFrame_completes (h : (p.arm x).link.received.length = 12) :
    p.rxFrame x b = p.acceptFrame x ((p.arm x).link.received ++ [b]) := by
  unfold Part.rxFrame positionKind frameLength
  dsimp only
  rw [List.length_append, List.length_singleton, if_neg fun hc => hc.2 (h2 (by omega)), if_pos (by omega)]

end

theorem frameCrcOk_iff {l : List Byte} {b : Byte} (h : l.length = 12) :
    frameCrcOk (l ++ [b]) = true ↔ crc8 (((l ++ [b]).drop 1).take 11) = b := by
  unfold frameCrcOk
  rw [beq_iff_eq, List.getD_eq_getElem?_getD, List.getElem?_append_right (by omega), h]
  rfl

/-- Settles O38. -/
theorem byteInFrameAndByteGap : Obligations.ByteInFrameAndByteGap := by
  unfold Obligations.ByteInFrameAndByteGap
  intro s x h
  dsimp only
  have discards : ∀ {f : Part → Part}, f s.part = s.part.discardFrame x →
      ∃ t, onPart s (fun p => p.step f) = .next t ∧ t.pending = s.pending ∧ t.part.ops = s.part.ops ∧
        t.part.view = (s.part.withArm x { s.part.arm x with link := (s.part.arm x).link.dropPartial }
          (causeBit .link)).view := fun hf => onPart_withArm_flags h rfl rfl rfl rfl (hf.trans (s.part.discardFrame_eq x))
  refine ⟨fun b framing ha hp h1 => ?_, fun hp hd => ?_, fun hno => ?_⟩
  · have hrx : s.part.rxByte x b framing = if framing then s.part.discardFrame x else s.part.rxFrame x b := by
      simp only [Part.rxByte, ha, hp]
    refine ⟨fun hbad => discards ?_, fun hf hk hl => ?_, fun hf hl hcrc hroom => ?_, fun hf hl hbad => discards ?_⟩
    · rw [hrx]
      cases framing with
      | true => rfl
      | false =>
        obtain ⟨hl, hb⟩ := hbad.resolve_left (by simp)
        exact s.part.rxFrame_badKind x b hl hb
    · subst hf
      refine onPart_withArm h rfl rfl rfl rfl (hrx.trans ?_)
      simp only [Bool.false_eq_true, if_false]
      rw [s.part.rxFrame_joins x b h1 hk hl]
      exact s.part.updLink_eq_withArm x _
    · subst hf
      refine onPart_withArm h rfl rfl rfl rfl (hrx.trans ?_)
      simp only [Bool.false_eq_true, if_false]
      rw [s.part.rxFrame_completes x b (by omega) hl, Part.acceptFrame,
        if_pos ⟨(frameCrcOk_iff hl).mpr hcrc, hroom⟩]
      exact s.part.updLink_eq_withArm x _
    · subst hf
      refine hrx.trans ?_
      simp only [Bool.false_eq_true, if_false]
      rw [s.part.rxFrame_completes x b (by omega) hl, Part.acceptFrame, if_neg]
      rintro ⟨hcrc, hroom⟩
      rcases hbad with hbad | hbad
      · exact hbad ((frameCrcOk_iff hl).mp hcrc)
      · exact absurd hroom (by unfold fifoDepth; omega)
  · exact discards (if_pos ⟨hp, hd⟩)
  · refine onPart_unchanged s _ h (if_neg ?_)
    rintro ⟨hp, hd⟩
    rcases hno with hno | hno
    · rw [hno] at hp; cases hp
    · rw [hno] at hd; cases hd

/-! ## The transmitter (O39, O40) -/

/-- The two bytes of a half, least significant first. -/
theorem le16_half (v : Half) : le16 v.toNat = [v.extractLsb' 0 8, v.extractLsb' 8 8] := by
  have lo : BitVec.ofNat 8 v.toNat = v.extractLsb' 0 8 := BitVec.eq_of_toNat_eq (by simp)
  have hi : BitVec.ofNat 8 (v.toNat / 256) = v.extractLsb' 8 8 :=
    BitVec.eq_of_toNat_eq (by simp [Nat.shiftRight_eq_div_pow])
  rw [le16, lo, hi]

/-- Settles O39. -/
theorem transmitterTakesStopControlFirst : Obligations.TransmitterTakesStopControlFirst := by
  unfold Obligations.TransmitterTakesStopControlFirst
  refine ⟨fun s x h => ?_, fun l f v => ⟨fun hno => ?_, fun ha ho => ⟨?_, fun hs => ?_⟩⟩, by decide +kernel,
    by decide +kernel, by decide +kernel, by decide +kernel, fun v => ⟨_, rfl, ?_⟩⟩
  · dsimp only
    have next : ∀ l', ({ (s.part.arm x).link with onLine := none } : Link).transmit = l' →
        exec (.lineFree x) s = .next { s with part := s.part.withArm x { s.part.arm x with link := l' } 0 } :=
      fun l' e => onPart_withArm h rfl rfl rfl rfl (by rw [← e]; exact s.part.updLink_eq_withArm x _)
    refine ⟨fun ha f hf => next _ ?_, fun ha hf v hv => next _ ?_, fun hno => next _ ?_⟩
    · simp [Link.transmit, ha, hf]
    · simp [Link.transmit, ha, hf, hv]
    · rcases hno with hq | ⟨hf, hv⟩
      · simp [Link.transmit, hq]
      · simp [Link.transmit, hf, hv]
  · have stays : ∀ m : Link, m.state = l.state → m.onLine = l.onLine → m.transmit = m := fun m hs ho => by
      unfold Link.transmit
      refine if_neg fun ⟨ha, hl⟩ => ?_
      rw [hs] at ha
      rw [ho] at hl
      rcases hno with hno | hno
      · rw [hl] at hno; cases hno
      · rw [ha] at hno; cases hno
    exact ⟨stays _ rfl rfl, stays _ rfl rfl⟩
  · simp [Link.queueStop, Link.transmit, ha, ho]
  · simp [Link.queueSpeed, Link.transmit, ha, ho, hs]
  · unfold OutFrame.bytes OutFrame.kindArgument
    dsimp only
    rw [le16_half]
    rfl

/-- Settles O40. -/
theorem holdRepeatsWhileHeld : Obligations.HoldRepeatsWhileHeld := by
  unfold Obligations.HoldRepeatsWhileHeld
  intro s x h
  dsimp only
  refine ⟨fun hs hd => ⟨fun hp => onPart_withArm h rfl rfl rfl rfl ?_, fun hp => onPart_withArm h rfl rfl rfl rfl ?_⟩, fun hno => ?_⟩
  · refine (if_pos ⟨hs, hd⟩).trans ((s.part.updLink_eq_withArm x _).trans ?_)
    rw [if_pos hp]
    rfl
  · have hp : (s.part.arm x).link.stopPlace ≠ none := fun hn => by rw [hn] at hp; cases hp
    refine (if_pos ⟨hs, hd⟩).trans ((s.part.updLink_eq_withArm x _).trans ?_)
    rw [if_neg hp]
    rfl
  · refine onPart_unchanged s _ h (if_neg ?_)
    rintro ⟨hs, hd⟩
    rcases hno with hno | hno
    · exact hno hs
    · rw [hno] at hd; cases hd

end Sys2Proof.Machine

/-! PROOFS. Reach monitoring (O41 to O44). -/

namespace Sys2Proof.Machine

/-! ## A processed frame (O41) -/

section
variable (p : Part) (x : Arm)

/-- The case of R15, spelled out. -/
theorem Monitor.speedUsed_eq (m : Monitor) (f : Frame) : speedUsed f.speed.toNat (m.speedCase f) =
    if m.previous = false then min f.speed.toNat 12000
    else if f.seq ≠ m.seq + 1 ∨ m.known = false then max (min f.speed.toNat 12000) m.speed
    else max (min f.speed.toNat 12000) (computedSpeed m.pos f.pos m.time f.time) := by
  unfold Monitor.speedCase
  cases m.previous
  · rfl
  · by_cases h : f.seq ≠ m.seq + 1 ∨ m.known = false
    · have h' : f.seq ≠ m.seq + 1 ∨ (!m.known) = true := by simpa using h
      simp only [Bool.not_true, Bool.false_eq_true, if_false, h', h, if_true, reduceCtorEq]
      rfl
    · have h' : ¬ (f.seq ≠ m.seq + 1 ∨ (!m.known) = true) := by simpa using h
      simp only [Bool.not_true, Bool.false_eq_true, if_false, h', h, reduceCtorEq]
      rfl

theorem Monitor.restartMark_eq (m : Monitor) (f : Frame) : m.restartMark f =
    (m.restart || decide (m.previous = true ∧ (f.seq ≠ m.seq + 1 ∨ m.known = false))) := by
  unfold Monitor.restartMark Monitor.speedCase
  cases m.previous
  · simp
  · by_cases h : f.seq ≠ m.seq + 1 ∨ m.known = false
    · have h' : f.seq ≠ m.seq + 1 ∨ (!m.known) = true := by simpa using h
      simp only [Bool.not_true, Bool.false_eq_true, if_false, h', h, if_true, true_and, decide_true]
    · have h' : ¬ (f.seq ≠ m.seq + 1 ∨ (!m.known) = true) := by simpa using h
      simp only [Bool.not_true, Bool.false_eq_true, if_false, h', h, and_false, decide_false]

/-- An arm whose monitor has processed the frame `f` at the speed `v` used, with the margin `mg`; `mark` restarts the
leave evaluation (R66 to R72). -/
def Part.processed (p : Part) (r : ArmPart) (f : Frame) (v mg : Nat) (e : Envelope) (mark : Bool) : ArmPart :=
  { r with
    monitor := { r.monitor with
      previous := true
      pos := f.pos
      seq := f.seq
      time := f.time
      speed := v
      margin := mg
      envelope := some e
      known := true
      stale := false
      restart := false
      staleTimer := timerAt f.time (p.figures.staleLimit * 1000)
      lossTimer := timerAt f.time (p.figures.lossLimit * 1000)
      maxSpeed := max r.monitor.maxSpeed v
      maxMargin := max r.monitor.maxMargin mg
      evaluationOwed := true }
    reports := r.reports ++ [⟨e.cells, f.seq, f.time, mark⟩]
    notices := r.notices ++ [⟨driveState f.drive, v, f.seq, f.time⟩]
    figures := r.figures ++ [⟨f.pos, f.time, driveState f.drive, v⟩] }

theorem Part.processFrame_eq (f : Frame) {v mg : Nat}
    (hv : speedUsed f.speed.toNat ((p.arm x).monitor.speedCase f) = v)
    (hm : marginOf (p.figures.arm x) (p.arm x).test.alrn v = mg) : p.processFrame x f =
      p.acts x ((p.processed (p.arm x) f v mg (p.envelopeAt x f.pos v) ((p.arm x).monitor.restartMark f)).noted
        p.marksKept) 0 [] := by
  unfold Part.processFrame Part.handFrame Part.recordFrame
  dsimp only
  rw [hv, hm, Part.updMonitor_eq, Part.updArm_eq_acts, Part.markChanged_eq, Part.updArm_eq_acts]
  simp only [Part.acts_arm, Part.acts_acts, Part.acts_marksKept, BitVec.or_self, List.append_nil]
  rfl

theorem Part.takeFrame_waits (h : (p.arm x).link.fifo = [] ∨ p.guarding = false ∨
    (p.arm x).monitor.evaluationOwed = true ∨ (p.arm x).figures ≠ []) : p.takeFrame x = p := by
  unfold Part.takeFrame
  split
  · rfl
  · next f rest hf =>
    refine if_neg ?_
    rintro ⟨hg, ho⟩
    rw [Bool.not_eq_true', Part.frameOpen_iff] at ho
    rcases h with h | h | h | h
    · rw [hf] at h; cases h
    · rw [h] at hg; cases hg
    · rw [ho.1] at h; cases h
    · exact h ho.2

end

/-- Settles O41. -/
theorem monitorTakesTheOldestFrame : Obligations.MonitorTakesTheOldestFrame := by
  unfold Obligations.MonitorTakesTheOldestFrame
  intro s x h
  dsimp only
  refine ⟨fun hno => onPart_unchanged s _ h (s.part.takeFrame_waits x hno), fun f rest hg ho hfig hf => ?_⟩
  have htake : s.part.takeFrame x = if (s.part.arm x).monitor.isRepeat f then
      s.part.acts x { s.part.arm x with link := { (s.part.arm x).link with fifo := rest } } 0 []
      else (s.part.acts x { s.part.arm x with link := { (s.part.arm x).link with fifo := rest } } 0 []).processFrame x f := by
    have hopen : s.part.frameOpen x = false := (s.part.frameOpen_iff x).mpr ⟨ho, hfig⟩
    unfold Part.takeFrame
    rw [hf]
    dsimp only
    rw [if_pos ⟨hg, by rw [hopen]; rfl⟩, Part.updLink_eq, Part.updArm_eq_acts]
    simp only [Part.acts_arm]
  refine ⟨fun hp hs => onPart_withArm h rfl rfl rfl rfl ?_, fun hs => onPart_withArm h rfl rfl rfl rfl ?_⟩
  · rw [htake, if_pos (by simp [Monitor.isRepeat, hp, hs]), Part.withArm_eq_acts]
  · have hv := (s.part.arm x).monitor.speedUsed_eq f
    have hm := (s.part.arm x).monitor.restartMark_eq f
    have hnew : ¬ (s.part.arm x).monitor.isRepeat f = true := fun hr => by
      rw [Monitor.isRepeat, Bool.and_eq_true, beq_iff_eq] at hr
      exact hs hr.1 hr.2.symm
    rw [← hv, ← hm, htake, if_neg hnew,
      Part.processFrame_eq _ _ f rfl rfl, Part.withArm_eq_acts]
    simp only [Part.acts_arm, Part.acts_acts, Part.acts_figures, Part.acts_marksKept, BitVec.or_self, List.append_nil]
    generalize hsp : speedUsed f.speed.toNat ((s.part.arm x).monitor.speedCase f) = v
    have hch : (if s.part.engine = .serving then true else (s.part.arm x).chain.changed) =
        ((s.part.arm x).chain.changed || s.part.marksKept) := by
      have hcl : s.part.engine ≠ .closing := fun hc => by rw [Part.guarding_of_engine hc rfl] at hg; cases hg
      by_cases he : s.part.engine = .serving <;> simp [Part.marksKept, he, hcl]
    rw [hch]
    simp only [Part.processed, Part.envelopeAt, ArmPart.noted, hfig, List.nil_append, Part.acts_figures, Part.acts_arm]
    rfl

end Sys2Proof.Machine

/-! SUPPORT. Frame notices and the clearance evaluation at the end of a frame (R71, R76 to R79, R95). -/

namespace Sys2Proof.Machine

/-! ## Clearance as an effect (R77 to R79) -/

section
variable (p : Part) (x : Arm)

theorem Part.lowerClearance_eq (c : Nat) : ∃ k, p.lowerClearance x c =
    p.acts x (((p.arm x).lowered c).noted k) 0 [] := by
  unfold Part.lowerClearance
  split
  · next h =>
    refine ⟨p.marksKept, ?_⟩
    rw [Part.updMonitor_eq, Part.updArm_eq_acts, Part.markChanged_eq]
    simp only [Part.acts_arm, Part.acts_acts, Part.acts_marksKept, BitVec.or_self, List.append_nil]
    rw [ArmPart.lowered, Nat.min_eq_right (by omega)]
  · next h =>
    refine ⟨false, ?_⟩
    rw [ArmPart.noted_false, ArmPart.lowered, Nat.min_eq_left (by omega)]
    exact (p.acts_self x).symm

theorem Part.uncap_eq : p.uncap x = p.acts x ((p.arm x).lifted.due (p.marksKept && (p.arm x).monitor.capped)) 0 [] := by
  unfold Part.uncap
  cases hc : (p.arm x).monitor.capped
  · rw [if_neg (by simp), Bool.and_false, ArmPart.due_false, ArmPart.lifted, if_neg (by simp [hc])]
    exact (p.acts_self x).symm
  · rw [if_pos rfl, Part.updMonitor_eq, Part.updArm_eq_acts, Part.updLink_eq, Part.updArm_eq_acts, Part.markDue_eq,
      ArmPart.lifted, if_pos hc]
    simp

theorem Part.cap_eq : p.cap x =
    p.acts x (((p.arm x).cappedAt p.figures.creep).due p.marksKept) (causeBit .close) [] := by
  unfold Part.cap
  rw [Part.updMonitor_eq, Part.updArm_eq_acts, Part.updLink_eq, Part.updArm_eq_acts, Part.acts_setCause, Part.markDue_eq]
  simp [ArmPart.cappedAt]

end

/-! What the functions of an arm's share make of its view. -/

theorem ArmPart.lowered_view (r : ArmPart) (c : Nat) : (r.lowered c).view = r.view.lowered c := rfl

theorem ArmPart.lifted_view (r : ArmPart) : r.lifted.view = r.view.lifted := by
  unfold ArmPart.lifted
  cases hc : r.monitor.capped
  · rw [if_neg (by simp), if_neg (by simp [ArmPart.view, hc])]
  · rw [if_pos rfl, if_pos (by simp [ArmPart.view, hc])]
    rfl

theorem ArmPart.cappedAt_view (r : ArmPart) (v : Nat) : (r.cappedAt v).view = r.view.cappedAt v := rfl

/-- Views of the part with both arms replaced. -/
theorem Part.withArms_view_congr (p : Part) (x : Arm) {r r' u u' : ArmPart} (f g : Word) (hr : r.view = r'.view)
    (hu : u.view = u'.view) : ((p.withArm x r f).withArm x.other u g).view =
      ((p.withArm x r' f).withArm x.other u' g).view := by
  cases x <;> simp [Part.withArm, Part.updArm, Part.view, hr, hu, Arm.other]

theorem Part.withArm_other_self (p : Part) (x : Arm) (r : ArmPart) (f : Word) :
    (p.withArm x r f).withArm x.other (p.arm x.other) 0 = p.withArm x r f := by
  cases x <;> simp [Part.withArm, Part.updArm, Arm.other]

theorem ArmPart.lifted_chain (r : ArmPart) : r.lifted.chain = r.chain := by
  unfold ArmPart.lifted
  split <;> rfl

/-! ## The end of a frame (R71) -/

/-- What the clearance `c` makes of x's share and of the other arm's, and the flags it sets (R77 to R79). -/
def Part.cleared (p : Part) (u o : ArmPart) (c : Nat) : ArmPart × ArmPart × Word :=
  if p.figures.uncapGap ≤ c then ((u.lowered c).lifted, (o.lowered c).lifted, 0)
  else if c < p.figures.capGap ∧ u.guard.state.inService = true ∧ u.monitor.capped = false then
    ((u.lowered c).cappedAt p.figures.creep, o.lowered c, causeBit .close)
  else (u.lowered c, o.lowered c, 0)

/-- An arm whose frame is finished. -/
def ArmPart.finished (r : ArmPart) : ArmPart := { r with monitor := { r.monitor with evaluationOwed := false } }

/-- What the end of a frame makes of x's share, `u` before it, and of the other arm's. -/
def Part.ended (p : Part) (x : Arm) (u : ArmPart) : ArmPart × ArmPart × Word :=
  let o := p.arm x.other
  if u.monitor.evaluationOwed = true ∧ u.notices = [] then
    match u.finished.monitor.knownBox, o.monitor.knownBox with
    | some b, some d => p.cleared u.finished o (clearance b d)
    | _, _ => (u.finished, o, 0)
  else (u, o, 0)

section
variable (p : Part) (x : Arm)

theorem Part.frameEnd_eq (u : ArmPart) (flags : Word) : p.frameEnd x u flags =
    (p.withArm x (p.ended x u).1 (flags ||| (p.ended x u).2.2)).withArm x.other (p.ended x u).2.1 0 := by
  have h0 : flags ||| (0 : Word) = flags := BitVec.or_zero
  have alone : ∀ v : ArmPart, p.withArm x v flags =
      (p.withArm x v (flags ||| 0)).withArm x.other (p.arm x.other) 0 := fun v => by
    rw [h0, Part.withArm_other_self]
  unfold Part.frameEnd Part.ended
  dsimp only
  split
  · change (match u.finished.monitor.knownBox, (p.arm x.other).monitor.knownBox with
      | some b, some d => _
      | _, _ => _) = _
    unfold Part.cleared
    cases u.finished.monitor.knownBox with
    | none => exact alone _
    | some b =>
      cases (p.arm x.other).monitor.knownBox with
      | none => exact alone _
      | some d =>
        dsimp only
        by_cases hu : p.figures.uncapGap ≤ clearance b d
        · rw [if_pos hu, if_pos hu]
          dsimp only
          rw [h0]
          rfl
        · rw [if_neg hu, if_neg hu]
          by_cases hc : clearance b d < p.figures.capGap ∧ u.guard.state.inService = true ∧ u.monitor.capped = false
          · rw [if_pos hc, if_pos (show _ ∧ u.finished.guard.state.inService = true ∧ u.finished.monitor.capped = false
              from hc)]
            rfl
          · rw [if_neg hc, if_neg (show ¬ (_ ∧ u.finished.guard.state.inService = true ∧
              u.finished.monitor.capped = false) from hc)]
            dsimp only
            rw [h0]
            rfl
  · exact alone _

/-- What the end of a frame makes of views. -/
theorem Part.ended_view {u v : ArmPart} (h : u.view = v.view) : (p.ended x u).1.view = (p.ended x v).1.view ∧
    (p.ended x u).2 = (p.ended x v).2 := by
  have hm : u.monitor = v.monitor := (congrArg ArmPart.monitor h :)
  have hn : u.notices = v.notices := (congrArg ArmPart.notices h :)
  have hg : u.guard.state = v.guard.state := (congrArg (fun r : ArmPart => r.guard.state) h :)
  have hf : u.finished.view = v.finished.view :=
    (congrArg ArmPart.finished h :)
  have hl : ∀ c, (u.finished.lowered c).view = (v.finished.lowered c).view := fun c => congrArg (ArmPart.lowered · c) hf
  unfold Part.ended
  dsimp only
  rw [hm, hn, show u.finished.monitor = v.finished.monitor by rw [ArmPart.finished, ArmPart.finished, hm]]
  split
  · split
    · unfold Part.cleared
      rw [show u.finished.guard.state = v.finished.guard.state from hg,
        show u.finished.monitor = v.finished.monitor by rw [ArmPart.finished, ArmPart.finished, hm]]
      split
      · exact ⟨by rw [ArmPart.lifted_view, hl, ← ArmPart.lifted_view], rfl⟩
      · split
        · exact ⟨by rw [ArmPart.cappedAt_view, hl, ← ArmPart.cappedAt_view], rfl⟩
        · exact ⟨hl _, rfl⟩
    · exact ⟨hf, rfl⟩
  · exact ⟨h, rfl⟩

theorem Part.frameEnd_view_congr {u v : ArmPart} (flags : Word) (h : u.view = v.view) :
    (p.frameEnd x u flags).view = (p.frameEnd x v flags).view := by
  obtain ⟨hx, hy⟩ := p.ended_view x h
  rw [Part.frameEnd_eq, Part.frameEnd_eq, hy]
  exact p.withArms_view_congr x _ _ hx rfl

/-- The marks that the end of a frame may set. -/
def ArmPart.MarkedFrom (u v : ArmPart) : Prop :=
  u.chain.blockQueued = v.chain.blockQueued ∧ (v.chain.publishDue = true → u.chain.publishDue = true)

/-- The clearance evaluation after an effect on x. -/
theorem Part.actOnClearance_eq (u : ArmPart) (flags : Word) (ops : List MemOp) (c : Nat) : ∃ u' o',
    (p.acts x u flags ops).actOnClearance x c =
      (p.acts x u' (flags ||| (p.cleared u (p.arm x.other) c).2.2) ops).acts x.other o' 0 [] ∧
    u'.view = (p.cleared u (p.arm x.other) c).1.view ∧ o'.view = (p.cleared u (p.arm x.other) c).2.1.view ∧
    u'.MarkedFrom u ∧ o'.chain.blockQueued = (p.arm x.other).chain.blockQueued ∧
    ((p.arm x.other).monitor.capped = false → o'.chain.publishDue = (p.arm x.other).chain.publishDue) := by
  obtain ⟨j, hj⟩ := (p.acts x u flags ops).lowerClearance_eq x c
  rw [Part.acts_arm, Part.acts_acts] at hj
  obtain ⟨k, hk⟩ := (p.acts x ((u.lowered c).noted j) (flags ||| 0) (ops ++ [])).lowerClearance_eq x.other c
  rw [Part.acts_arm_other] at hk
  unfold Part.actOnClearance
  dsimp only
  rw [hj, hk]
  have h0 : flags ||| (0 : Word) = flags := BitVec.or_zero
  generalize hA : (u.lowered c).noted j = A
  generalize hB : ((p.arm x.other).lowered c).noted k = B
  have hAv : A.view = (u.lowered c).view := by rw [← hA]; rfl
  have hBv : B.view = ((p.arm x.other).lowered c).view := by rw [← hB]; rfl
  have hAm : A.monitor.capped = u.monitor.capped ∧ A.guard.state = u.guard.state := by rw [← hA]; exact ⟨rfl, rfl⟩
  have hBm : B.monitor.capped = (p.arm x.other).monitor.capped := by rw [← hB]; rfl
  have hAc : A.chain.blockQueued = u.chain.blockQueued ∧ A.chain.publishDue = u.chain.publishDue := by
    rw [← hA]; exact ⟨rfl, rfl⟩
  have hBc : B.chain.blockQueued = (p.arm x.other).chain.blockQueued ∧
      B.chain.publishDue = (p.arm x.other).chain.publishDue := by rw [← hB]; exact ⟨rfl, rfl⟩
  generalize hD : (p.acts x A (flags ||| 0) (ops ++ [])).acts x.other B 0 [] = D
  have hDf : D.figures = p.figures := by rw [← hD, Part.acts_figures, Part.acts_figures]
  have hDx : D.arm x = A := by rw [← hD, Part.acts_other_arm, Part.acts_arm]
  unfold Part.cleared
  rw [hDf, hDx, hAm.1, hAm.2]
  by_cases hu : p.figures.uncapGap ≤ c
  · rw [if_pos hu, if_pos hu]
    refine ⟨A.lifted.due (D.marksKept && A.monitor.capped),
      B.lifted.due ((D.uncap x).marksKept && B.monitor.capped), ?_, ?_, ?_, ⟨?_, ?_⟩, ?_, fun hcap => ?_⟩
    · rw [Part.uncap_eq, Part.uncap_eq D x, hDx, ← hD, Part.acts_swap]
      simp
    · exact (ArmPart.lifted_view A).trans ((congrArg ArmPart.lifted hAv).trans (ArmPart.lifted_view _).symm)
    · exact (ArmPart.lifted_view B).trans ((congrArg ArmPart.lifted hBv).trans (ArmPart.lifted_view _).symm)
    · show A.lifted.chain.blockQueued = _
      rw [A.lifted_chain, hAc.1]
    · intro hp
      show (A.lifted.chain.publishDue || _) = true
      rw [A.lifted_chain, hAc.2, hp]
      rfl
    · show B.lifted.chain.blockQueued = _
      rw [B.lifted_chain, hBc.1]
    · rw [hBm, hcap, Bool.and_false, ArmPart.due_false, B.lifted_chain, hBc.2]
  · rw [if_neg hu, if_neg hu]
    by_cases hc : c < p.figures.capGap ∧ u.guard.state.inService = true ∧ u.monitor.capped = false
    · have hc' : c < p.figures.capGap ∧ u.guard.state.inService = true ∧ (!u.monitor.capped) = true := by
        simpa using hc
      rw [if_pos hc, if_pos hc']
      refine ⟨(A.cappedAt p.figures.creep).due D.marksKept, B, ?_, ?_, hBv, ⟨hAc.1, fun hp => ?_⟩, hBc.1,
        fun _ => hBc.2⟩
      · rw [Part.cap_eq, hDx, hDf, ← hD, Part.acts_swap]
        simp
      · exact (ArmPart.cappedAt_view A _).trans (congrArg (ArmPart.cappedAt · p.figures.creep) hAv)
      · show (A.chain.publishDue || _) = true
        rw [hAc.2, hp]
        rfl
    · have hc' : ¬ (c < p.figures.capGap ∧ u.guard.state.inService = true ∧ (!u.monitor.capped) = true) := by
        simpa using hc
      rw [if_neg hc, if_neg hc']
      exact ⟨A, B, by rw [← hD, List.append_nil], hAv, hBv, ⟨hAc.1, fun hp => hAc.2.trans hp⟩, hBc.1, fun _ => hBc.2⟩

/-- The end of a frame after an effect on x that leaves freshness to run. -/
theorem Part.settleEvaluation_eq (u : ArmPart) (flags : Word) (ops : List MemOp)
    (hfresh : u.monitor.evaluationOwed = true → u.notices = [] →
      timerDue p.now u.monitor.staleTimer = false ∧ timerDue p.now u.monitor.lossTimer = false) : ∃ u' o',
    (p.acts x u flags ops).settleEvaluation x =
      (p.acts x u' (flags ||| (p.ended x u).2.2) ops).acts x.other o' 0 [] ∧
    u'.view = (p.ended x u).1.view ∧ o'.view = (p.ended x u).2.1.view ∧ u'.MarkedFrom u ∧
    o'.chain.blockQueued = (p.arm x.other).chain.blockQueued ∧
    (u.monitor.evaluationOwed = false ∨ (p.arm x.other).monitor.capped = false →
      o'.chain.publishDue = (p.arm x.other).chain.publishDue) := by
  have hno : ∀ v : ArmPart, v.MarkedFrom v := fun v => ⟨rfl, id⟩
  have alone : ∀ (v : ArmPart), p.acts x v flags ops =
      (p.acts x v (flags ||| 0) ops).acts x.other (p.arm x.other) 0 [] := fun v => by
    have h0 : flags ||| (0 : Word) = flags := BitVec.or_zero
    have := (p.acts x v flags ops).acts_self x.other
    rw [Part.acts_arm_other] at this
    rw [h0]
    exact this.symm
  unfold Part.settleEvaluation Part.ended
  rw [Part.acts_arm]
  dsimp only
  by_cases ho : u.monitor.evaluationOwed = true ∧ u.notices = []
  · rw [if_pos ho, if_pos ho]
    obtain ⟨hst, hlo⟩ := hfresh ho.1 ho.2
    have hup : ((p.acts x u flags ops).updMonitor x fun m => { m with evaluationOwed := false }) =
        p.acts x u.finished flags ops := by
      rw [Part.updMonitor_eq, Part.updArm_eq_acts]
      simp [ArmPart.finished]
    have hpass : (p.acts x u.finished flags ops).expirePassed x = p.acts x u.finished flags ops := by
      unfold Part.expirePassed
      simp only [Part.acts_now, Part.acts_arm]
      rw [show u.finished.monitor.staleTimer = u.monitor.staleTimer from rfl, hst]
      simp only [Bool.false_eq_true, if_false, Part.acts_arm, Part.acts_now]
      rw [show u.finished.monitor.lossTimer = u.monitor.lossTimer from rfl, hlo]
      rfl
    rw [hup, hpass]
    unfold Part.evaluateClearance
    rw [Part.acts_arm, Part.acts_arm_other]
    cases u.finished.monitor.knownBox with
    | none => exact ⟨u.finished, p.arm x.other, alone _, rfl, rfl, hno _, rfl, fun _ => rfl⟩
    | some b =>
      cases (p.arm x.other).monitor.knownBox with
      | none => exact ⟨u.finished, p.arm x.other, alone _, rfl, rfl, hno _, rfl, fun _ => rfl⟩
      | some d =>
        obtain ⟨u', o', he, hu, hv, hm, hq, hp⟩ := p.actOnClearance_eq x u.finished flags ops (clearance b d)
        exact ⟨u', o', he, hu, hv, hm, hq, fun hcap => hp (hcap.resolve_left (by rw [ho.1]; simp))⟩
  · rw [if_neg ho, if_neg ho]
    exact ⟨u, p.arm x.other, alone _, rfl, rfl, hno _, rfl, fun _ => rfl⟩

end

/-! ## The end of a step after effects on both arms -/

/-- Where the interface carries operations, the end of a step adds the status blocks that are due. -/
theorem Part.settle_acts_two {p : Part} {x : Arm} {u o : ArmPart} {flags : Word} {ops : List MemOp} (hs : p.steady)
    (hc : p.carries) (b : Part) :
    (Part.settle b ((p.acts x u flags ops).acts x.other o 0 [])).view =
      ((p.withArm x u flags).withArm x.other o 0).view ∧
    (Part.settle b ((p.acts x u flags ops).acts x.other o 0 [])).ops = p.ops ++ ops ++
      (((p.acts x u flags ops).acts x.other o 0 []).dueOps .a ++
        ((p.acts x u flags ops).acts x.other o 0 []).dueOps .b) := by
  obtain ⟨hv, ho⟩ := Part.settle_carries b ((p.acts x u flags ops).acts x.other o 0 [])
    (by unfold Part.carries at hc ⊢; simpa using hc) fun he => .inl (by
      simpa using hs.2.1.closing (by simpa using he))
  refine ⟨hv.trans (by cases x <;> rfl), ?_⟩
  rw [ho, List.append_assoc]
  simp [Part.ops]

/-- The status blocks of a step whose other arm has come to owe none. -/
theorem Part.dueOps_two {p : Part} {x : Arm} {u o : ArmPart} {flags : Word} {ops : List MemOp} (hs : p.settledLaw)
    (hq : o.chain.blockQueued = (p.arm x.other).chain.blockQueued)
    (hp : o.chain.publishDue = (p.arm x.other).chain.publishDue) :
    ((p.acts x u flags ops).acts x.other o 0 []).dueOps .a ++ ((p.acts x u flags ops).acts x.other o 0 []).dueOps .b =
      if p.engine = .serving ∧ u.chain.publishDue = true ∧ u.chain.blockQueued = false then [.statusWrite x] else [] := by
  generalize hd : (p.acts x u flags ops).acts x.other o 0 [] = d
  have he : d.engine = p.engine := by rw [← hd, Part.acts_engine, Part.acts_engine]
  have hx : d.arm x = u := by rw [← hd, Part.acts_other_arm, Part.acts_arm]
  have hy : d.arm x.other = o := by rw [← hd, Part.acts_arm]
  have hother : d.dueOps x.other = [] := by
    have := hs.dueOps x.other
    unfold Part.dueOps at this ⊢
    rw [he, hy, hp, hq]
    exact this
  rw [append_arms_of_nil (f := d.dueOps) hother, Part.dueOps, he, hx]

/-! ## A frame notice (R95, R71) -/

/-- An arm whose oldest frame notice has been taken. -/
def ArmPart.noticing (r : ArmPart) (rest : List Notice) : ArmPart := { r with notices := rest }

/-- A notice that leaves x's share `u`, and the end of its frame where it is the last one. -/
theorem frameNotice_step {s : State} {x : Arm} {n : Notice} {rest : List Notice} {u : ArmPart} {flags : Word}
    {ops : List MemOp} (h : s.part.steady) (hc : s.part.carries) (hg : s.part.guarding = true)
    (hn : (s.part.arm x).notices = n :: rest)
    (ht : (s.part.acts x ((s.part.arm x).noticing rest) 0 []).takeNotice x n = s.part.acts x u flags ops)
    (hfresh : u.monitor.evaluationOwed = true → u.notices = [] →
      timerDue s.part.now u.monitor.staleTimer = false ∧ timerDue s.part.now u.monitor.lossTimer = false) :
    ∃ t more, exec (.frameNotice x) s = .next t ∧ t.pending = s.pending ∧ t.part.ops = s.part.ops ++ ops ++ more ∧
      (s.part.engine = .serving → u.chain.publishDue = true →
        u.chain.blockQueued = (s.part.arm x).chain.blockQueued →
        u.monitor.evaluationOwed = false ∨ (s.part.arm x.other).monitor.capped = false →
        more = s.part.statusOps x) ∧ t.part.view = (s.part.frameEnd x u flags).view := by
  have hnext : s.part.nextNotice x = (s.part.acts x u flags ops).settleEvaluation x := by
    unfold Part.nextNotice
    rw [hn]
    dsimp only
    rw [Part.updArm_eq_acts, show ({ s.part.arm x with notices := rest } : ArmPart) = (s.part.arm x).noticing rest from rfl,
      ht, Part.acts_guarding, if_pos hg]
  obtain ⟨u', o', he, hu, ho, hm, hq, hp⟩ := s.part.settleEvaluation_eq x u flags ops hfresh
  obtain ⟨hv, hops⟩ := Part.settle_acts_two (x := x) (u := u') (o := o') (flags := flags ||| (s.part.ended x u).2.2)
    (ops := ops) h hc s.part
  generalize hmore : (Part.dueOps _ .a ++ Part.dueOps _ .b) = more at hops
  have hstep := hnext.trans he
  refine ⟨_, more, onPart_step s (fun q => q.nextNotice x) h.1, rfl, ?_, fun hs hdue hqu hcap => ?_, ?_⟩
  · rw [hstep]
    exact hops
  · rw [← hmore, Part.dueOps_two h.2.1 hq (hp hcap), hm.1, hm.2 hdue, hqu, hs, Part.statusOps]
    cases (s.part.arm x).chain.blockQueued <;> rfl
  · rw [hstep, Part.frameEnd_eq]
    exact hv.trans (s.part.withArms_view_congr x _ _ hu ho)

end Sys2Proof.Machine

/-! PROOFS. Frame notices at the guard (O44, O47). -/

namespace Sys2Proof.Machine

/-! ## Escalations as effects (R98, R99, R104, R116) -/

/-- An arm's share with another chain. -/
def ArmPart.chained (r : ArmPart) (c : Chain) : ArmPart := { r with chain := c }

theorem ArmPart.escalated_chained (r : ArmPart) (c : Chain) (cause : StopCause) :
    (r.chained c).escalated cause = (r.escalated cause).chained c := by
  unfold ArmPart.escalated
  dsimp only
  by_cases h : r.test.phase = .braking
  · rw [if_pos h, if_pos (show (r.chained c).test.phase = .braking from h)]
    rfl
  · rw [if_neg h, if_neg (show ¬ (r.chained c).test.phase = .braking from h)]
    rfl

theorem ArmPart.escalated_chain (r : ArmPart) (cause : StopCause) : (r.escalated cause).chain = r.chain := by
  unfold ArmPart.escalated
  dsimp only
  split <;> rfl

/-- What an answer to the open slot leaves of an arm. -/
def ArmPart.answering (r : ArmPart) : ArmPart := { r with chain := { r.chain with answered := true } }

theorem ArmPart.escalated_answering (r : ArmPart) (cause : StopCause) :
    r.answering.escalated cause = (r.escalated cause).answering := by
  refine (r.escalated_chained _ cause).trans ?_
  unfold ArmPart.answering
  rw [r.escalated_chain]
  rfl

/-- The abort of a test by an escalation. -/
def TestUnit.aborted (u : TestUnit) (cause : StopCause) : TestResult where
  verdict := .testAborted
  stopCause := cause
  v0 := u.v0
  distance := 0
  elapsed := 0
  reaction := 0
  braking := 0
  measured := 0
  alrn := u.alrn

section
variable (p : Part) (x : Arm) (cause : StopCause)

/-- An arm in service without a test is stopped. -/
theorem Part.escalate_stops (hs : (p.arm x).guard.state.inService = true) (ht : (p.arm x).test.phase = .idle) :
    p.escalate x cause =
      p.acts x (((p.arm x).escalated cause).due p.marksKept) (causeBit (armCause x)) [] := by
  have he : p.escalate x cause = p.enterStopped x cause := by
    obtain ⟨-, e⟩ | ⟨h, -⟩ | ⟨h, -⟩ := p.escalate_cases x cause
    · exact e
    · rw [h] at hs; cases hs
    · rcases h with h | h <;> rw [h] at hs <;> cases hs
  rw [he, Part.enterStopped_eq]
  simp [Part.abortReplies, Part.stopFlags, Part.abortOps, ht]

/-- An arm in service is stopped with its test. -/
theorem Part.escalate_aborts {slot : Nat} (hs : (p.arm x).guard.state.inService = true)
    (ht : (p.arm x).test.phase = .braking) (hq : (p.arm x).test.slot = some slot) (he : p.engine = .serving)
    (ho : (p.arm x).chain.openSlot = some slot) : p.escalate x cause =
      p.acts x ((((p.arm x).escalated cause).due true).replied true) (causeBit .test ||| causeBit (armCause x))
        (answerOps x slot p.now .testAborted (.test ((p.arm x).test.aborted cause))) := by
  have hen : p.escalate x cause = p.enterStopped x cause := by
    obtain ⟨-, e⟩ | ⟨h, -⟩ | ⟨h, -⟩ := p.escalate_cases x cause
    · exact e
    · rw [h] at hs; cases hs
    · rcases h with h | h <;> rw [h] at hs <;> cases hs
  have ha : p.answerable x slot = true := (p.answerable_iff x slot).mpr ⟨he, ho⟩
  have hk : p.marksKept = true := by simp [Part.marksKept, he]
  rw [hen, Part.enterStopped_eq, Part.abortReplies, Part.stopFlags, Part.abortOps, ht, if_pos rfl, if_pos rfl,
    Part.testAnswered, Part.testOps, hq, hk, BitVec.or_comm]
  simp [ha, Part.resultOps, unmeasured, TestUnit.aborted]

/-- An admission fails with the escalation as its cause. -/
theorem Part.failAdmission_answers (f : AdmissionFailure) {prior : GuardState} {slot : Nat}
    (hp : (p.arm x).guard.prior = some prior) (hq : (p.arm x).guard.admissionSlot = some slot) (he : p.engine = .serving)
    (ho : (p.arm x).chain.openSlot = some slot) : p.failAdmission x f =
      p.acts x ((((p.arm x).admissionEnded prior f.stopCause).due true).replied true) (causeBit (armCause x))
        (answerOps x slot p.now .admitFailed
          (.readmit .offline noReasons 0 prior f.code (p.arm x).guard.count false)) := by
  have ha : p.answerable x slot = true := (p.answerable_iff x slot).mpr ⟨he, ho⟩
  have hk : p.marksKept = true := by simp [Part.marksKept, he]
  rw [Part.failAdmission_eq, Part.admissionAnswered, Part.failOps, hq, hp, hk]
  simp [ha, Part.resultOps, Guard.admitFailedFigures, hp]

theorem Part.escalate_fails {prior : GuardState} {slot : Nat} (hs : (p.arm x).guard.state = .admitting)
    (hp : (p.arm x).guard.prior = some prior) (hq : (p.arm x).guard.admissionSlot = some slot) (he : p.engine = .serving)
    (ho : (p.arm x).chain.openSlot = some slot) : p.escalate x cause =
      p.acts x ((((p.arm x).admissionEnded prior (some cause)).due true).replied true) (causeBit (armCause x))
        (answerOps x slot p.now .admitFailed
          (.readmit .offline noReasons 0 prior cause.code (p.arm x).guard.count false)) := by
  have hf : p.escalate x cause = p.failAdmission x (.escalation cause) := by
    unfold Part.escalate
    rw [hs]
  rw [hf, p.failAdmission_answers x (.escalation cause) hp hq he ho]
  rfl

/-! ## STALE leaves the set (R95) -/

/-- STALE leaves the set of an arm that is not HELD. -/
theorem Part.removeStale_resting (v : ArmPart) (f : Word) (ops : List MemOp) (hs : v.guard.state ≠ .held) :
    ∃ k, (p.acts x v f ops).removeReason x .stale = p.acts x (v.unstale.due k)
      (f ||| if v.guard.reasons.stale = true then causeBit (armCause x) else 0) ops := by
  cases hst : v.guard.reasons.stale
  · refine ⟨false, ?_⟩
    rw [Part.removeReason_absent _ _ _ (by rw [Part.acts_arm]; exact hst), if_neg (by simp), ArmPart.due_false]
    have hu : v.unstale = v := by
      unfold ArmPart.unstale
      rw [← hst]
    have h0 : f ||| (0 : Word) = f := BitVec.or_zero
    rw [hu, h0]
  · refine ⟨p.marksKept, ?_⟩
    rw [Part.removeReason_staying _ _ _ (by rw [Part.acts_arm]; exact hst) (by rw [Part.acts_arm]; exact fun h => hs h.1),
      if_pos rfl, Part.acts_arm, Part.acts_acts, List.append_nil, Part.acts_marksKept]
    rfl

end

/-! ## What the guard makes of a drive state (R95, R96, R97) -/

/-- A guard whose hold the drive acknowledges, if it awaits that. -/
def Guard.acked (g : Guard) (d : DriveState) : Guard :=
  if g.phase = .awaiting ∧ (d = .holding ∨ d = .standstill) then { g with phase := .acknowledged, ackTimer := none } else g

/-- An arm's share with another guard. -/
def ArmPart.guarded (r : ArmPart) (g : Guard) : ArmPart := { r with guard := g }

section
variable (p : Part) (x : Arm) (n : Notice)

theorem Part.actOnNotice_resting (h : (p.arm x).guard.state = .offline ∨ (p.arm x).guard.state = .stopped) :
    p.actOnNotice x n = p := by
  unfold Part.actOnNotice
  rcases h with h | h <;> simp only [h]

theorem Part.actOnNotice_running (h : (p.arm x).guard.state = .running) (hd : n.drive ≠ .fault) :
    p.actOnNotice x n = p := by
  unfold Part.actOnNotice
  cases hn : n.drive <;> simp_all

theorem Part.actOnNotice_fault (h : (p.arm x).guard.state.inService = true) (hd : n.drive = .fault) :
    p.actOnNotice x n = p.escalate x .driveFault := by
  unfold Part.actOnNotice
  cases hs : (p.arm x).guard.state <;> simp_all [GuardState.inService]

theorem Part.actOnNotice_failing (h : (p.arm x).guard.state = .admitting) (hd : n.drive = .fault) :
    p.actOnNotice x n = p.failAdmission x (.escalation .driveFault) := by
  unfold Part.actOnNotice
  simp only [h, hd]

theorem Part.actOnNotice_disobeying (h : (p.arm x).guard.state = .held)
    (hd : (p.arm x).guard.phase = .acknowledged ∧ n.drive = .moving ∧ p.figures.stillSpeed < n.speed) :
    p.actOnNotice x n = p.escalate x .disobeyed := by
  obtain ⟨hp, hm, hv⟩ := hd
  unfold Part.actOnNotice
  simp only [h, hm, hp, hv, true_and, if_true]

/-- A HELD arm that obeys. -/
theorem Part.actOnNotice_obeying (h : (p.arm x).guard.state = .held) (hf : n.drive ≠ .fault)
    (hd : ¬ ((p.arm x).guard.phase = .acknowledged ∧ n.drive = .moving ∧ p.figures.stillSpeed < n.speed)) :
    ∃ k, p.actOnNotice x n = p.acts x (((p.arm x).guarded ((p.arm x).guard.acked n.drive)).due k) 0 [] := by
  have same : ∀ g, g = (p.arm x).guard → p = p.acts x (((p.arm x).guarded g).due false) 0 [] := fun g hg => by
    rw [hg, ArmPart.due_false]
    exact (p.acts_self x).symm
  have acks : (p.arm x).guard.phase = .awaiting → ((p.updGuard x fun g =>
      { g with phase := .acknowledged, ackTimer := none }).markDue x) = p.acts x (((p.arm x).guarded
        { (p.arm x).guard with phase := .acknowledged, ackTimer := none }).due p.marksKept) 0 [] := fun _ => by
    rw [Part.updGuard_eq, Part.updArm_eq_acts, Part.markDue_eq]
    simp only [Part.acts_arm, Part.acts_acts, Part.acts_marksKept, BitVec.or_self, List.append_nil]
    rfl
  have moving : n.drive = .moving → p.actOnNotice x n = p := fun hm => by
    unfold Part.actOnNotice
    simp only [h, hm]
    exact if_neg fun hc => hd ⟨hc.1, hm, hc.2⟩
  have resting : n.drive = .holding ∨ n.drive = .standstill → p.actOnNotice x n = if (p.arm x).guard.phase = .awaiting then
      (p.updGuard x fun g => { g with phase := .acknowledged, ackTimer := none }).markDue x else p := fun hr => by
    unfold Part.actOnNotice
    rcases hr with hr | hr <;> simp only [h, hr]
  unfold Guard.acked
  by_cases hr : n.drive = .holding ∨ n.drive = .standstill
  · rw [resting hr]
    by_cases ha : (p.arm x).guard.phase = .awaiting
    · rw [if_pos ha, if_pos ⟨ha, hr⟩]
      exact ⟨_, acks ha⟩
    · rw [if_neg ha, if_neg fun hc => ha hc.1]
      exact ⟨false, same _ rfl⟩
  · have hm : n.drive = .moving := by
      cases hn : n.drive with
      | moving => rfl
      | holding => exact absurd (.inl hn) hr
      | standstill => exact absurd (.inr hn) hr
      | fault => exact absurd hn hf
    rw [moving hm, if_neg fun hc => hr hc.2]
    exact ⟨false, same _ rfl⟩

end

end Sys2Proof.Machine

/-! PROOFS. Frame notices (O44, O47). -/

namespace Sys2Proof.Machine

/-! ## A notice as an effect, seen through the view -/

/-- The frame in progress and its freshness are those of `r`. -/
def ArmPart.SameFrame (u r : ArmPart) : Prop :=
  u.notices = r.notices ∧ u.monitor.evaluationOwed = r.monitor.evaluationOwed ∧
    u.monitor.staleTimer = r.monitor.staleTimer ∧ u.monitor.lossTimer = r.monitor.lossTimer

theorem ArmPart.escalated_sameFrame (r : ArmPart) (cause : StopCause) : (r.escalated cause).SameFrame r := by
  unfold ArmPart.escalated
  dsimp only
  split <;> exact ⟨rfl, rfl, rfl, rfl⟩

/-- The freshness of the frame that the notices `rest` leave at its end has not run out. -/
def Part.freshAt (p : Part) (r : ArmPart) : Prop :=
  r.monitor.evaluationOwed = true → r.notices = [] →
    timerDue p.now r.monitor.staleTimer = false ∧ timerDue p.now r.monitor.lossTimer = false

theorem Part.takeNotice_guarding {p : Part} (h : p.guarding = true) (x : Arm) (n : Notice) :
    p.takeNotice x n = (p.actOnNotice x n).removeReason x .stale := if_pos h

section
variable {s : State} {x : Arm} {n : Notice} {rest : List Notice} {u v : ArmPart} {flags : Word} {ops : List MemOp}
  (h : s.part.steady) (hc : s.part.carries) (hg : s.part.guarding = true) (hn : (s.part.arm x).notices = n :: rest)
  (hfresh : s.part.freshAt ((s.part.arm x).noticing rest)) (hu : u.SameFrame ((s.part.arm x).noticing rest))
  (ht : ((s.part.acts x ((s.part.arm x).noticing rest) 0 []).actOnNotice x n).removeReason x .stale =
    s.part.acts x v flags ops)
  (hv : v.view = u.view)
include h hc hg hn hfresh hu ht hv

/-- What a notice and the end of its frame show. -/
theorem frameNotice_ends : ∃ t more, exec (.frameNotice x) s = .next t ∧ t.pending = s.pending ∧
    t.part.ops = s.part.ops ++ ops ++ more ∧
    (s.part.engine = .serving → v.chain.publishDue = true → v.chain.blockQueued = (s.part.arm x).chain.blockQueued →
      (s.part.arm x).monitor.evaluationOwed = false ∨ (s.part.arm x.other).monitor.capped = false →
      more = s.part.statusOps x) ∧ t.part.view = (s.part.frameEnd x u flags).view := by
  obtain ⟨hnot, hown, hst, hlo⟩ := hu
  have hm : v.monitor = u.monitor := (congrArg ArmPart.monitor hv :)
  have hvn : v.notices = u.notices := (congrArg ArmPart.notices hv :)
  obtain ⟨t, more, hx, hp, ho, hmore, hview⟩ := frameNotice_step h hc hg hn
    ((Part.takeNotice_guarding (by rw [Part.acts_guarding]; exact hg) x n).trans ht) (by
      rw [hm, hvn, hnot, hown, hst, hlo]
      exact hfresh)
  refine ⟨t, more, hx, hp, ho, fun hs hd hq hcap => hmore hs hd hq ?_, hview.trans
    (s.part.frameEnd_view_congr x flags hv)⟩
  rw [hm, hown]
  exact hcap

end

/-- A notice that leaves the guard where it is, with no frame to end. -/
theorem frameNotice_exact {s : State} {x : Arm} {n : Notice} {rest : List Notice} {u : ArmPart} (h : s.part.steady)
    (hn : (s.part.arm x).notices = n :: rest)
    (ht : (s.part.acts x ((s.part.arm x).noticing rest) 0 []).takeNotice x n = s.part.acts x u 0 [])
    (ho : s.part.guarding = false ∨ u.monitor.evaluationOwed = false)
    (hg : u.guard.state = (s.part.arm x).guard.state) (ha : u.guard.stopAsserted = (s.part.arm x).guard.stopAsserted)
    (hc : u.chain = (s.part.arm x).chain) :
    exec (.frameNotice x) s = .next { s with part := s.part.withArm x u 0 } := by
  refine onPart_withArm (f := fun q => q.nextNotice x) h hg ha (by rw [hc]) (by rw [hc]) ?_
  unfold Part.nextNotice
  rw [hn]
  dsimp only
  rw [Part.updArm_eq_acts, show ({ s.part.arm x with notices := rest } : ArmPart) = (s.part.arm x).noticing rest from rfl,
    ht, Part.acts_guarding, Part.withArm_eq_acts]
  rcases ho with ho | ho
  · rw [ho]
    rfl
  · split
    · refine if_neg ?_
      rw [Part.acts_arm, ho]
      simp
    · rfl

/-! ## The cases of a notice (O47) -/

theorem Guard.acked_rest (g : Guard) (d : DriveState) : (g.acked d).state = g.state ∧ (g.acked d).reasons = g.reasons := by
  unfold Guard.acked
  split <;> exact ⟨rfl, rfl⟩

theorem or_again (f a : Word) (c : Prop) [Decidable c] : f ||| a ||| (if c then a else 0) = f ||| a := by
  split
  · rw [BitVec.or_assoc, BitVec.or_self]
  · exact BitVec.or_zero

section
variable {s : State} {x : Arm} {n : Notice} {rest : List Notice} (h : s.part.steady) (hc : s.part.carries)
  (hg : s.part.guarding = true) (hn : (s.part.arm x).notices = n :: rest)
  (hfresh : s.part.freshAt ((s.part.arm x).noticing rest))

/-- The part as x's guard acts on the oldest notice. -/
abbrev Part.noticed (p : Part) (x : Arm) (rest : List Notice) : Part := p.acts x ((p.arm x).noticing rest) 0 []

theorem Part.noticed_acts (p : Part) (x : Arm) (rest : List Notice) (r : ArmPart) (f : Word) (o : List MemOp) :
    (p.noticed x rest).acts x r f o = p.acts x r f o := by
  rw [Part.acts_acts, show (0 : Word) ||| f = f from BitVec.zero_or, List.nil_append]

include h hc hg hn hfresh

/-- A notice that moves nothing. -/
theorem frameNotice_stays
    (ht : ((s.part.noticed x rest).actOnNotice x n).removeReason x .stale = s.part.noticed x rest) :
    (∃ t, exec (.frameNotice x) s = .next t ∧ t.pending = s.pending ∧
      t.part.view = (s.part.frameEnd x ((s.part.arm x).noticing rest) 0).view) ∧
    ((s.part.arm x).monitor.evaluationOwed = false →
      exec (.frameNotice x) s = .next { s with part := s.part.withArm x ((s.part.arm x).noticing rest) 0 }) := by
  obtain ⟨t, more, hx, hp, -, -, hv⟩ := frameNotice_ends h hc hg hn hfresh ⟨rfl, rfl, rfl, rfl⟩ ht rfl
  exact ⟨⟨t, hx, hp, hv⟩, fun ho => frameNotice_exact h hn
    ((Part.takeNotice_guarding (by rw [Part.acts_guarding]; exact hg) x n).trans ht) (.inr ho) rfl rfl rfl⟩

/-- A notice that stops an arm in service. -/
theorem frameNotice_stops {cause : StopCause} (hs : (s.part.arm x).guard.state.inService = true)
    (ht : (s.part.noticed x rest).actOnNotice x n = (s.part.noticed x rest).escalate x cause) :
    ((s.part.arm x).test.phase = .idle → ∃ t, exec (.frameNotice x) s = .next t ∧ t.pending = s.pending ∧
      t.part.view = (s.part.frameEnd x (((s.part.arm x).noticing rest).escalated cause).unstale
        (causeBit (armCause x))).view) ∧
    ∀ slot, s.part.engine = .serving → (s.part.arm x).test.phase = .braking → (s.part.arm x).test.slot = some slot →
      (s.part.arm x).chain.openSlot = some slot →
      ∃ t more, exec (.frameNotice x) s = .next t ∧ t.pending = s.pending ∧
        t.part.ops = s.part.ops ++ answerOps x slot s.part.now .testAborted
          (.test ((s.part.arm x).test.aborted cause)) ++ more ∧
        ((s.part.arm x).monitor.evaluationOwed = false ∨ (s.part.arm x.other).monitor.capped = false →
          more = s.part.statusOps x) ∧
        t.part.view = (s.part.frameEnd x (((s.part.arm x).noticing rest).answering.escalated cause).unstale
          (causeBit .test ||| causeBit (armCause x))).view := by
  have hx := s.part.acts_arm x ((s.part.arm x).noticing rest) 0 []
  have hfr := ((s.part.arm x).noticing rest).escalated_sameFrame cause
  have hst := ((s.part.arm x).noticing rest).escalated_state cause
  have out : (((s.part.arm x).noticing rest).escalated cause).guard.state ≠ .held := fun hh => by
    rw [hst] at hh; cases hh
  refine ⟨fun hi => ?_, fun slot he hb hsl ho => ?_⟩
  · rw [Part.escalate_stops _ x cause (by rw [hx]; exact hs) (by rw [hx]; exact hi), hx, Part.noticed_acts] at ht
    obtain ⟨k, hk⟩ := s.part.removeStale_resting x ((((s.part.arm x).noticing rest).escalated cause).due
      (s.part.noticed x rest).marksKept) (causeBit (armCause x)) [] out
    obtain ⟨t, more, he, hp, -, -, hv⟩ := frameNotice_ends (u := (((s.part.arm x).noticing rest).escalated cause).unstale)
      h hc hg hn hfresh hfr ((congrArg (fun q : Part => q.removeReason x .stale) ht).trans hk) rfl
    have hflags := or_again 0 (causeBit (armCause x))
    rw [show (0 : Word) ||| causeBit (armCause x) = causeBit (armCause x) from BitVec.zero_or] at hflags
    rw [hflags] at hv
    exact ⟨t, he, hp, hv⟩
  · rw [Part.escalate_aborts _ x cause (slot := slot) (by rw [hx]; exact hs) (by rw [hx]; exact hb) (by rw [hx]; exact hsl)
      (by rw [Part.acts_engine]; exact he) (by rw [hx]; exact ho), hx, Part.noticed_acts, Part.acts_now] at ht
    obtain ⟨k, hk⟩ := s.part.removeStale_resting x (((((s.part.arm x).noticing rest).escalated cause).due true).replied
      true) (causeBit .test ||| causeBit (armCause x)) (answerOps x slot s.part.now .testAborted
        (.test (((s.part.arm x).noticing rest).test.aborted cause))) out
    rw [or_again] at hk
    obtain ⟨t, more, he', hp, hops, hmore, hv⟩ := frameNotice_ends
      (u := (((s.part.arm x).noticing rest).answering.escalated cause).unstale)
      h hc hg hn hfresh (((s.part.arm x).noticing rest).answering.escalated_sameFrame cause)
      ((congrArg (fun q : Part => q.removeReason x .stale) ht).trans hk) (by
        rw [ArmPart.escalated_answering]
        simp [ArmPart.view, ArmPart.unstale, ArmPart.due, ArmPart.replied, ArmPart.answering])
    refine ⟨t, more, he', hp, hops, fun hcap => hmore he ?_ ?_ hcap, hv⟩
    · show (((((s.part.arm x).noticing rest).escalated cause).chain.publishDue || true) || k) = true
      simp
    · show (((s.part.arm x).noticing rest).escalated cause).chain.blockQueued = _
      rw [ArmPart.escalated_chain]
      rfl

/-- A notice of a drive fault fails an admission. -/
theorem frameNotice_fails {prior : GuardState} {slot : Nat} (he : s.part.engine = .serving)
    (hs : (s.part.arm x).guard.state = .admitting) (hd : n.drive = .fault)
    (hp : (s.part.arm x).guard.prior = some prior) (hpr : prior = .offline ∨ prior = .stopped)
    (hq : (s.part.arm x).guard.admissionSlot = some slot) (ho : (s.part.arm x).chain.openSlot = some slot) :
    ∃ t more, exec (.frameNotice x) s = .next t ∧ t.pending = s.pending ∧
      t.part.ops = s.part.ops ++ answerOps x slot s.part.now .admitFailed
        (.readmit .offline noReasons 0 prior 4 (s.part.arm x).guard.count false) ++ more ∧
      ((s.part.arm x).monitor.evaluationOwed = false ∨ (s.part.arm x.other).monitor.capped = false →
        more = s.part.statusOps x) ∧
      t.part.view = (s.part.frameEnd x
        (((s.part.arm x).noticing rest).answering.admissionEnded prior (some .driveFault)).unstale
        (causeBit (armCause x))).view := by
  have hx := s.part.acts_arm x ((s.part.arm x).noticing rest) 0 []
  have ht := (s.part.noticed x rest).actOnNotice_failing x n (by rw [hx]; exact hs) hd
  rw [Part.failAdmission_answers _ x _ (prior := prior) (slot := slot) (by rw [hx]; exact hp) (by rw [hx]; exact hq)
    (by rw [Part.acts_engine]; exact he) (by rw [hx]; exact ho), hx, Part.noticed_acts, Part.acts_now] at ht
  have out : prior ≠ .held := by rcases hpr with rfl | rfl <;> simp
  obtain ⟨k, hk⟩ := s.part.removeStale_resting x (((((s.part.arm x).noticing rest).admissionEnded prior
    (some .driveFault)).due true).replied true) (causeBit (armCause x)) (answerOps x slot s.part.now .admitFailed
      (.readmit .offline noReasons 0 prior 4 (s.part.arm x).guard.count false)) out
  have hflags := or_again 0 (causeBit (armCause x))
  rw [show (0 : Word) ||| causeBit (armCause x) = causeBit (armCause x) from BitVec.zero_or] at hflags
  rw [hflags] at hk
  obtain ⟨t, more, he', hpend, hops, hmore, hv⟩ := frameNotice_ends
    (u := (((s.part.arm x).noticing rest).answering.admissionEnded prior (some .driveFault)).unstale)
    h hc hg hn hfresh ⟨rfl, rfl, rfl, rfl⟩ ((congrArg (fun q : Part => q.removeReason x .stale) ht).trans hk)
    (by rw [ArmPart.replied_true]; rfl)
  refine ⟨t, more, he', hpend, hops, fun hcap => hmore he ?_ rfl hcap, hv⟩
  show (((s.part.arm x).chain.publishDue || true) || k) = true
  simp

/-- A notice of a HELD arm that obeys. -/
theorem frameNotice_obeys (hs : (s.part.arm x).guard.state = .held) (hd : n.drive ≠ .fault)
    (ho : ¬ ((s.part.arm x).guard.phase = .acknowledged ∧ n.drive = .moving ∧ s.part.figures.stillSpeed < n.speed)) :
    let r := (s.part.arm x).noticing rest
    let ends := fun (u : ArmPart) (flags : Word) => ∃ t, exec (.frameNotice x) s = .next t ∧ t.pending = s.pending ∧
      t.part.view = (s.part.frameEnd x u flags).view
    (r.guard.reasons.stale = false → ends (r.guarded (r.guard.acked n.drive)) 0) ∧
    (r.guard.reasons = { noReasons with stale := true } → ends (r.resumed .stale) (causeBit (armCause x))) ∧
    (r.guard.reasons.stale = true → r.guard.reasons ≠ { noReasons with stale := true } →
      ends (r.guarded (r.guard.acked n.drive)).unstale (causeBit (armCause x))) := by
  intro r ends
  have hx := s.part.acts_arm x r 0 []
  obtain ⟨k, hk⟩ := (s.part.noticed x rest).actOnNotice_obeying x n (by rw [hx]; exact hs) hd (by
    rw [hx, Part.acts_figures]; exact ho)
  rw [hx, Part.noticed_acts] at hk
  obtain ⟨hst, hre⟩ := r.guard.acked_rest n.drive
  have hfr : (r.guarded (r.guard.acked n.drive)).SameFrame r := ⟨rfl, rfl, rfl, rfl⟩
  generalize hw : (r.guarded (r.guard.acked n.drive)).due k = w at hk
  have hwv : w.view = (r.guarded (r.guard.acked n.drive)).view := by rw [← hw]; rfl
  have hwg : w.guard = r.guard.acked n.drive := by rw [← hw]; rfl
  have hwx : (s.part.acts x w 0 []).arm x = w := s.part.acts_arm x w 0 []
  have take := congrArg (fun q : Part => q.removeReason x .stale) hk
  have removes : ∀ v, (s.part.acts x w 0 []).removeReason x .stale = (s.part.acts x w 0 []).acts x v
      (causeBit (armCause x)) [] → ((s.part.noticed x rest).actOnNotice x n).removeReason x .stale =
        s.part.acts x v (causeBit (armCause x)) [] := fun v e => by
    rw [Part.acts_acts, show (0 : Word) ||| causeBit (armCause x) = causeBit (armCause x) from BitVec.zero_or,
      List.append_nil] at e
    exact take.trans e
  refine ⟨fun hno => ?_, fun honly => ?_, fun hyes hmore => ?_⟩
  · obtain ⟨t, more, he, hp, -, -, hv⟩ := frameNotice_ends h hc hg hn hfresh hfr
      (take.trans (Part.removeReason_absent _ x .stale (by rw [hwx, hwg, hre]; exact hno))) hwv
    exact ⟨t, he, hp, hv⟩
  · have e := removes _ (Part.removeReason_last _ x .stale (by rw [hwx, hwg, hre, honly]; rfl)
      (by rw [hwx, hwg, hst]; exact hs) (by rw [hwx, hwg, hre, honly]; rfl))
    obtain ⟨t, more, he, hp, -, -, hv⟩ := frameNotice_ends (u := r.resumed .stale) h hc hg hn hfresh
      ⟨rfl, rfl, rfl, rfl⟩ e (by
        rw [hwx, ArmPart.due_view, ← hw]
        unfold Guard.acked
        split <;> rfl)
    exact ⟨t, he, hp, hv⟩
  · have hput : r.guard.reasons.put false .stale ≠ noReasons := fun hput => hmore (by
      have hb := congrArg (fun q : Reasons => q.put true .stale) hput
      rw [show (r.guard.reasons.put false .stale).put true .stale = r.guard.reasons.put true .stale from rfl,
        Reasons.put_of_has _ true .stale hyes] at hb
      exact hb)
    have e := removes _ (Part.removeReason_staying _ x .stale (by rw [hwx, hwg, hre]; exact hyes)
      (by rw [hwx, hwg, hre]; exact fun hh => hput hh.2))
    obtain ⟨t, more, he, hp, -, -, hv⟩ := frameNotice_ends (u := (r.guarded (r.guard.acked n.drive)).unstale) h hc hg hn
      hfresh ⟨rfl, rfl, rfl, rfl⟩ e (by rw [hwx, ArmPart.due_view, ← hw]; rfl)
    exact ⟨t, he, hp, hv⟩

end

/-- Settles O47. -/
theorem frameNoticeDrivesTheGuard : Obligations.FrameNoticeDrivesTheGuard := by
  unfold Obligations.FrameNoticeDrivesTheGuard
  intro s x h
  dsimp only
  refine ⟨fun hn => onPart_unchanged s _ h (by simp only [Part.nextNotice, hn]), fun n rest hn => ⟨fun hg => ?_,
    fun hg hc hfresh => ?_⟩⟩
  · exact frameNotice_exact (u := (s.part.arm x).noticing rest) h hn
      (if_neg (by rw [Part.acts_guarding, hg]; simp)) (.inl hg) rfl rfl rfl
  have hfresh : s.part.freshAt ((s.part.arm x).noticing rest) := hfresh
  have hx := s.part.acts_arm x ((s.part.arm x).noticing rest) 0 []
  have absent : (s.part.arm x).guard.reasons.stale = false →
      (s.part.noticed x rest).removeReason x .stale = s.part.noticed x rest := fun hno =>
    Part.removeReason_absent _ x .stale (by rw [hx]; exact hno)
  refine ⟨fun hs hno hd => ?_, fun hs hd ho => frameNotice_obeys h hc hg hn hfresh hs hd ho, fun hs hd => ?_,
    fun hs hd => ?_, fun prior slot he hs hd hp hpr hq ho => frameNotice_fails h hc hg hn hfresh he hs hd hp hpr hq ho,
    fun hs => ⟨fun hno => ?_, fun hyes => ?_⟩⟩
  · refine frameNotice_stays h hc hg hn hfresh ?_
    rw [Part.actOnNotice_running _ x n (by rw [hx]; exact hs) hd, absent hno]
  · exact frameNotice_stops h hc hg hn hfresh (by rw [hs]; rfl)
      (Part.actOnNotice_disobeying _ x n (by rw [hx]; exact hs) (by rw [hx, Part.acts_figures]; exact hd))
  · exact frameNotice_stops h hc hg hn hfresh hs (Part.actOnNotice_fault _ x n (by rw [hx]; exact hs) hd)
  · refine frameNotice_stays h hc hg hn hfresh ?_
    rw [Part.actOnNotice_resting _ x n (by rw [hx]; exact hs), absent hno]
  · obtain ⟨k, hk⟩ := s.part.removeStale_resting x ((s.part.arm x).noticing rest) 0 [] (fun hh => by
      rw [show ((s.part.arm x).noticing rest).guard = (s.part.arm x).guard from rfl] at hh
      rcases hs with hs | hs <;> rw [hs] at hh <;> cases hh)
    rw [if_pos (show ((s.part.arm x).noticing rest).guard.reasons.stale = true from hyes),
      show (0 : Word) ||| causeBit (armCause x) = causeBit (armCause x) from BitVec.zero_or] at hk
    have hrest := Part.actOnNotice_resting (s.part.noticed x rest) x n (by rw [hx]; exact hs)
    obtain ⟨t, more, he, hp, -, -, hv⟩ := frameNotice_ends (u := ((s.part.arm x).noticing rest).unstale) h hc hg hn hfresh
      ⟨rfl, rfl, rfl, rfl⟩ ((congrArg (fun q : Part => q.removeReason x .stale) hrest).trans hk) rfl
    exact ⟨t, he, hp, hv⟩

end Sys2Proof.Machine

/-! PROOFS. Clearance, freshness and escalations (O42 to O44). -/

namespace Sys2Proof.Machine

/-! ## The clearance evaluation behind a notice (O44) -/

theorem Monitor.knownBox_eq {m : Monitor} {e : Envelope} (hk : m.known = true) (he : m.envelope = some e) :
    m.knownBox = some e.box := by
  simp [Monitor.knownBox, hk, he]

/-- Settles O44. -/
theorem clearanceCapsAndUncaps : Obligations.ClearanceCapsAndUncaps := by
  unfold Obligations.ClearanceCapsAndUncaps
  intro s x n e d h hc
  dsimp only
  intro hg hn hd hs hst ho hfs hfl hk he hok hoe hgap
  have hx := s.part.acts_arm x ((s.part.arm x).noticing []) 0 []
  have ht : ((s.part.noticed x []).actOnNotice x n).removeReason x .stale =
      s.part.acts x ((s.part.arm x).noticing []) 0 [] := by
    rw [Part.actOnNotice_running _ x n (by rw [hx]; exact hs) (by rw [hd]; simp),
      Part.removeReason_absent _ x .stale (by rw [hx]; exact hst)]
  obtain ⟨t, more, hex, hp, -, -, hv⟩ := frameNotice_ends h hc hg hn (fun _ _ => ⟨hfs, hfl⟩) ⟨rfl, rfl, rfl, rfl⟩ ht rfl
  refine ⟨t, hex, hp, hv.trans ?_⟩
  have hend : s.part.ended x ((s.part.arm x).noticing []) =
      s.part.cleared ((s.part.arm x).noticing []).finished (s.part.arm x.other) (clearance e.box d.box) := by
    unfold Part.ended
    dsimp only
    rw [if_pos ⟨ho, rfl⟩, show ((s.part.arm x).noticing []).finished.monitor.knownBox = some e.box from
      Monitor.knownBox_eq hk he, Monitor.knownBox_eq hok hoe]
  rw [Part.frameEnd_eq, hend]
  have h0 : (0 : Word) ||| 0 = 0 := BitVec.or_self
  have hclose : (0 : Word) ||| causeBit .close = causeBit .close := BitVec.zero_or
  unfold Part.cleared
  by_cases hu : s.part.figures.uncapGap ≤ clearance e.box d.box
  · rw [if_pos hu, if_pos hu]
    dsimp only
    rw [h0]
    rfl
  · rw [if_neg hu, if_neg hu]
    have hserv : (s.part.arm x).guard.state.inService = true := by rw [hs]; rfl
    by_cases hcap : clearance e.box d.box < s.part.figures.capGap ∧ (s.part.arm x).monitor.capped = false
    · rw [if_pos hcap, if_pos (show _ ∧ ((s.part.arm x).noticing []).finished.guard.state.inService = true ∧
        ((s.part.arm x).noticing []).finished.monitor.capped = false from ⟨hcap.1, hserv, hcap.2⟩)]
      dsimp only
      rw [hclose]
      rfl
    · rw [if_neg hcap, if_neg (show ¬ (_ ∧ ((s.part.arm x).noticing []).finished.guard.state.inService = true ∧
        ((s.part.arm x).noticing []).finished.monitor.capped = false) from fun hh => hcap ⟨hh.1, hh.2.2⟩)]
      dsimp only
      rw [h0]
      rfl

/-! ## Freshness that runs out (O42) -/

/-- An arm whose stale timer has expired (R73). -/
def ArmPart.staled (r : ArmPart) : ArmPart :=
  { r with monitor := { r.monitor with staleTimer := none, stale := true, restart := true } }

/-- An arm whose loss timer has expired (R74). -/
def ArmPart.unseen (r : ArmPart) : ArmPart := { r with monitor := { r.monitor with lossTimer := none, known := false } }

section
variable (p : Part) (x : Arm)

theorem Part.expireStale_eq : p.expireStale x = match (p.arm x).guard.state with
    | .running => (p.acts x (p.arm x).staled 0 []).addReason x .stale
    | .held => (p.acts x (p.arm x).staled 0 []).addReason x .stale
    | .admitting => (p.acts x (p.arm x).staled 0 []).updGuard x fun g => { g with count := 0 }
    | .offline => p.acts x (p.arm x).staled 0 []
    | .stopped => p.acts x (p.arm x).staled 0 [] := by
  have hup : (p.updMonitor x fun m => { m with staleTimer := none, stale := true, restart := true }) =
      p.acts x (p.arm x).staled 0 [] := by rw [Part.updMonitor_eq, Part.updArm_eq_acts]; rfl
  unfold Part.expireStale
  dsimp only
  rw [hup, Part.acts_arm, show (p.arm x).staled.guard = (p.arm x).guard from rfl] <;>
    cases (p.arm x).guard.state <;> rfl

/-- The stale timer of a RUNNING arm: it holds for STALE. -/
theorem Part.expireStale_running (hs : (p.arm x).guard.state = .running) (hn : (p.arm x).guard.reasons.stale = false) :
    p.expireStale x = p.acts x ((p.holdsArm (p.arm x).staled .stale).due p.marksKept) (causeBit (armCause x)) [] := by
  have e := p.expireStale_eq x
  rw [hs] at e
  rw [e, Part.addReason_running _ x .stale (by rw [Part.acts_arm]; exact hn) (by rw [Part.acts_arm]; exact hs)]
  simp [Part.holdsArm]

theorem Part.expireStale_held (hs : (p.arm x).guard.state = .held) (hn : (p.arm x).guard.reasons.stale = false) :
    p.expireStale x = p.acts x (((p.arm x).staled.withReason true .stale).due p.marksKept) (causeBit (armCause x)) [] := by
  have e := p.expireStale_eq x
  have hne : (p.arm x).staled.guard.state ≠ .running := fun hh => by
    rw [show (p.arm x).staled.guard = (p.arm x).guard from rfl, hs] at hh; cases hh
  rw [hs] at e
  rw [e, Part.addReason_staying _ x .stale (by rw [Part.acts_arm]; exact hn) (by rw [Part.acts_arm]; exact hne)]
  simp

theorem Part.expireStale_admitting (hs : (p.arm x).guard.state = .admitting) : p.expireStale x =
    p.acts x ((p.arm x).staled.guarded { (p.arm x).guard with count := 0 }) 0 [] := by
  have e := p.expireStale_eq x
  rw [hs] at e
  rw [e, Part.updGuard_eq, Part.updArm_eq_acts, Part.acts_acts, Part.acts_arm]
  rfl

theorem Part.expireStale_resting (hs : (p.arm x).guard.state = .offline ∨ (p.arm x).guard.state = .stopped) :
    p.expireStale x = p.acts x (p.arm x).staled 0 [] := by
  have e := p.expireStale_eq x
  rcases hs with hs | hs <;> rw [hs] at e <;> exact e

end

/-- Without both envelopes there is no clearance to evaluate (R76). -/
theorem Part.evaluateClearance_unknown {p : Part} {x : Arm}
    (h : (p.arm x).monitor.known = false ∨ (p.arm x.other).monitor.known = false) : p.evaluateClearance x = p := by
  unfold Part.evaluateClearance Monitor.knownBox
  rcases h with h | h <;> rw [h]
  · rfl
  · split
    · next hno => cases hno
    · rfl

/-- At the end of a frame whose freshness is spent a RUNNING arm holds for STALE. -/
theorem Part.spent_holds {p : Part} {x : Arm} {r : ArmPart} (hs : r.guard.state = .running)
    (hst : r.guard.reasons.stale = false) (hd : timerDue p.now r.monitor.staleTimer = true) : (p.acts x r 0 []).expirePassed x =
      if timerDue p.now r.monitor.lossTimer = true then
        (p.acts x ((p.holdsArm r.staled .stale).due p.marksKept) (causeBit (armCause x)) []).expireLoss x
      else p.acts x ((p.holdsArm r.staled .stale).due p.marksKept) (causeBit (armCause x)) [] := by
  have hrx := p.acts_arm x r 0 []
  have hrun := (p.acts x r 0 []).expireStale_running x (by rw [hrx]; exact hs) (by rw [hrx]; exact hst)
  rw [hrx, Part.acts_acts, show (0 : Word) ||| causeBit (armCause x) = causeBit (armCause x) from BitVec.zero_or,
    List.append_nil] at hrun
  have hheld : (p.acts x r 0 []).holdsArm r.staled .stale = p.holdsArm r.staled .stale := by
    unfold Part.holdsArm
    rw [Part.acts_now, Part.acts_figures]
  rw [hheld, Part.acts_marksKept] at hrun
  unfold Part.expirePassed
  dsimp only
  rw [hrx, Part.acts_now, hd, if_pos rfl, hrun, Part.acts_arm, Part.acts_now]
  rfl

/-- A RUNNING arm's last notice of a frame whose freshness is spent: what the frame's end finds. -/
theorem Part.nextNotice_spent {p : Part} {x : Arm} {n : Notice} (hg : p.guarding = true)
    (hn : (p.arm x).notices = [n]) (hd : n.drive ≠ .fault) (hs : (p.arm x).guard.state = .running)
    (hst : (p.arm x).guard.reasons.stale = false) (ho : (p.arm x).monitor.evaluationOwed = true) :
    p.nextNotice x = ((p.acts x ((p.arm x).noticing []).finished 0 []).expirePassed x).evaluateClearance x := by
  have hx := p.acts_arm x ((p.arm x).noticing []) 0 []
  have ht : (p.noticed x []).takeNotice x n = p.noticed x [] := by
    rw [Part.takeNotice_guarding (by rw [Part.acts_guarding]; exact hg),
      Part.actOnNotice_running _ x n (by rw [hx]; exact hs) hd,
      Part.removeReason_absent _ x .stale (by rw [hx]; exact hst)]
  unfold Part.nextNotice
  rw [hn]
  dsimp only
  rw [Part.updArm_eq_acts, show ({ p.arm x with notices := [] } : ArmPart) = (p.arm x).noticing [] from rfl, ht,
    if_pos (by rw [Part.acts_guarding]; exact hg), Part.settleEvaluation, hx, if_pos ⟨ho, rfl⟩, Part.updMonitor_eq,
    Part.updArm_eq_acts, Part.acts_acts, hx]
  rfl

/-- Settles O42. -/
theorem staleExpiryHoldsTheArm : Obligations.StaleExpiryHoldsTheArm := by
  unfold Obligations.StaleExpiryHoldsTheArm
  intro s x h hc
  dsimp only
  refine ⟨fun hno => onPart_unchanged s _ h (if_neg ?_), fun n hg hn hd hs hst ho hfs hfl hk => ?_,
    fun hg ho hd hst => ?_⟩
  · rintro ⟨hg, ho, hd⟩
    rcases hno with hno | hno | hno
    · rw [hno] at hg; cases hg
    · rw [hno] at ho; cases ho
    · rw [hno] at hd; cases hd
  · have hnext := Part.nextNotice_spent hg hn hd hs hst ho
    rw [Part.spent_holds (r := ((s.part.arm x).noticing []).finished) hs hst hfs, if_neg (by
      rw [show ((s.part.arm x).noticing []).finished.monitor.lossTimer = (s.part.arm x).monitor.lossTimer from rfl, hfl]
      simp), Part.evaluateClearance_unknown (.inr (by rw [Part.acts_arm_other]; exact hk))] at hnext
    exact onPart_acts_view (f := fun q => q.nextNotice x) s h hc hnext rfl
  · have hexp : s.part.staleExpires x = s.part.expireStale x := if_pos ⟨hg, by rw [ho]; rfl, hd⟩
    cases hs : (s.part.arm x).guard.state with
    | running => exact onPart_acts_view s h hc (hexp.trans (s.part.expireStale_running x hs hst)) rfl
    | held => exact onPart_acts_view s h hc (hexp.trans (s.part.expireStale_held x hs hst)) (by rw [← hs]; rfl)
    | admitting => exact onPart_acts_view s h hc (hexp.trans (s.part.expireStale_admitting x hs)) (by rw [← hs]; rfl)
    | offline => exact onPart_acts_view s h hc (hexp.trans (s.part.expireStale_resting x (.inl hs))) rfl
    | stopped => exact onPart_acts_view s h hc (hexp.trans (s.part.expireStale_resting x (.inr hs))) rfl

end Sys2Proof.Machine

/-! PROOFS. Escalations and what ends an admission or a wait (O43, O50). -/

namespace Sys2Proof.Machine

/-! ## Escalations of a command (R98, R99) -/

/-- The status block that a step adds for an arm whose block has come to be due. -/
theorem Part.statusOps_due {p : Part} {x : Arm} {d q : Bool} (he : p.engine = .serving) (hd : d = true)
    (hq : q = (p.arm x).chain.blockQueued) :
    (if p.engine = .serving ∧ d = true ∧ q = false then [MemOp.statusWrite x] else []) = p.statusOps x := by
  rw [he, hd, hq]
  unfold Part.statusOps
  cases (p.arm x).chain.blockQueued <;> rfl

theorem ArmPart.escalated_noted (r : ArmPart) (k : Bool) (cause : StopCause) :
    (r.noted k).escalated cause = (r.escalated cause).noted k := by
  refine (r.escalated_chained _ cause).trans ?_
  unfold ArmPart.noted
  rw [r.escalated_chain]
  rfl

theorem ArmPart.escalated_view (r : ArmPart) (cause : StopCause) :
    (r.escalated cause).view = (r.view.escalated cause).view := by
  unfold ArmPart.escalated
  dsimp only
  by_cases h : r.test.phase = .braking
  · rw [if_pos h, if_pos (show r.view.test.phase = .braking from h)]
    rfl
  · rw [if_neg h, if_neg (show ¬ r.view.test.phase = .braking from h)]
    rfl

theorem ArmPart.escalated_view_congr {r u : ArmPart} {cause : StopCause} (h : r.view = u.view) :
    (r.escalated cause).view = (u.escalated cause).view := by
  rw [r.escalated_view, h, ← u.escalated_view]

theorem ArmPart.escalated_unknown (r : ArmPart) (cause : StopCause) :
    (r.escalated cause).monitor.known = r.monitor.known := by
  unfold ArmPart.escalated
  dsimp only
  split <;> rfl

section
variable {s : State} {x : Arm} {f : Part → Part} {u : ArmPart} {k : Bool} {flags : Word} {cause : StopCause}
  (h : s.part.steady) (hc : s.part.carries)
  (hf : f s.part = (s.part.acts x (u.noted k) flags []).escalate x cause)
include h hc hf

/-- A command whose escalation stops an arm without a test. -/
theorem escalation_stops (hs : u.guard.state.inService = true) (ht : u.test.phase = .idle) :
    ∃ t, onPart s (fun p => p.step f) = .next t ∧ t.pending = s.pending ∧
      t.part.view = (s.part.withArm x (u.escalated cause) (flags ||| causeBit (armCause x))).view := by
  have hx := s.part.acts_arm x (u.noted k) flags []
  rw [Part.escalate_stops _ x cause (by rw [hx]; exact hs) (by rw [hx]; exact ht), hx, Part.acts_acts, List.append_nil]
    at hf
  exact onPart_acts_view s h hc hf (by rw [ArmPart.due_view, ArmPart.escalated_noted, ArmPart.noted_view])

/-- A command whose escalation stops an arm with its test. -/
theorem escalation_aborts (hs : u.guard.state.inService = true) {slot : Nat} (he : s.part.engine = .serving)
    (ht : u.test.phase = .braking) (hq : u.test.slot = some slot) (ho : u.chain.openSlot = some slot)
    (hb : u.chain.blockQueued = (s.part.arm x).chain.blockQueued) :
    ∃ t, onPart s (fun p => p.step f) = .next t ∧ t.pending = s.pending ∧
      t.part.ops = s.part.ops ++ answerOps x slot s.part.now .testAborted (.test (u.test.aborted cause)) ++
        s.part.statusOps x ∧
      t.part.view = (s.part.withArm x (u.answering.escalated cause)
        (flags ||| causeBit .test ||| causeBit (armCause x))).view := by
  have hx := s.part.acts_arm x (u.noted k) flags []
  rw [Part.escalate_aborts _ x cause (slot := slot) (by rw [hx]; exact hs) (by rw [hx]; exact ht) (by rw [hx]; exact hq)
    (by rw [Part.acts_engine]; exact he) (by rw [hx]; exact ho), hx, Part.acts_acts, List.nil_append, Part.acts_now,
    ArmPart.escalated_noted] at hf
  obtain ⟨t, hex, hp, hv, hops⟩ := onPart_acts s h hc hf
  refine ⟨t, hex, hp, ?_, hv.trans ?_⟩
  · have hbq : ((((u.escalated cause).noted k).due true).replied true).chain.blockQueued =
        (s.part.arm x).chain.blockQueued := by
      show (u.escalated cause).chain.blockQueued = _
      rw [u.escalated_chain, hb]
    exact hops.trans (congrArg _ (Part.statusOps_due he (Bool.or_true _) hbq))
  · rw [BitVec.or_assoc]
    refine Part.withArm_view_congr _ _ _ ?_
    rw [ArmPart.escalated_answering, ArmPart.replied_true]
    rfl

/-- A command whose escalation fails an admission. -/
theorem escalation_fails {prior : GuardState} {slot : Nat} (he : s.part.engine = .serving)
    (hs : u.guard.state = .admitting) (hp : u.guard.prior = some prior) (hq : u.guard.admissionSlot = some slot)
    (ho : u.chain.openSlot = some slot) (hb : u.chain.blockQueued = (s.part.arm x).chain.blockQueued) :
    ∃ t, onPart s (fun p => p.step f) = .next t ∧ t.pending = s.pending ∧
      t.part.ops = s.part.ops ++ answerOps x slot s.part.now .admitFailed
        (.readmit .offline noReasons 0 prior cause.code u.guard.count false) ++ s.part.statusOps x ∧
      t.part.view = (s.part.withArm x (u.answering.admissionEnded prior (some cause))
        (flags ||| causeBit (armCause x))).view := by
  have hx := s.part.acts_arm x (u.noted k) flags []
  rw [Part.escalate_fails _ x cause (prior := prior) (slot := slot) (by rw [hx]; exact hs) (by rw [hx]; exact hp)
    (by rw [hx]; exact hq) (by rw [Part.acts_engine]; exact he) (by rw [hx]; exact ho), hx, Part.acts_acts,
    List.nil_append, Part.acts_now] at hf
  obtain ⟨t, hex, hpend, hv, hops⟩ := onPart_acts s h hc hf
  refine ⟨t, hex, hpend, ?_, hv.trans (Part.withArm_view_congr _ _ _ (by rw [ArmPart.replied_true]; rfl))⟩
  exact hops.trans (congrArg _ (Part.statusOps_due he (Bool.or_true _) hb))

end

theorem Part.expireLoss_eq (p : Part) (x : Arm) :
    p.expireLoss x = (p.acts x ((p.arm x).unseen.noted p.marksKept) 0 []).escalate x .loss := by
  unfold Part.expireLoss
  rw [Part.updMonitor_eq, Part.updArm_eq_acts, Part.markChanged_eq]
  simp only [Part.acts_arm, Part.acts_acts, Part.acts_marksKept, BitVec.or_self, List.append_nil]
  rfl

/-- The last notice of a frame whose loss time is past stops a RUNNING arm. -/
theorem frameNotice_loses {s : State} {x : Arm} {n : Notice} (h : s.part.steady) (hc : s.part.carries)
    (hg : s.part.guarding = true) (hn : (s.part.arm x).notices = [n]) (hd : n.drive ≠ .fault)
    (hs : (s.part.arm x).guard.state = .running) (hst : (s.part.arm x).guard.reasons.stale = false)
    (ht : (s.part.arm x).test.phase = .idle) (ho : (s.part.arm x).monitor.evaluationOwed = true)
    (hfs : timerDue s.part.now (s.part.arm x).monitor.staleTimer = true)
    (hfl : timerDue s.part.now (s.part.arm x).monitor.lossTimer = true) :
    ∃ t, exec (.frameNotice x) s = .next t ∧ t.pending = s.pending ∧ t.part.view = (s.part.withArm x
      ((s.part.holdsArm ((s.part.arm x).noticing []).finished.staled .stale).unseen.escalated .loss)
        (causeBit (armCause x))).view := by
  generalize hr : ((s.part.arm x).noticing []).finished = r
  have hnext := Part.nextNotice_spent hg hn hd hs hst ho
  rw [hr, Part.spent_holds (r := r) (by rw [← hr]; exact hs) (by rw [← hr]; exact hst) (by rw [← hr]; exact hfs),
    if_pos (by rw [← hr]; exact hfl), Part.expireLoss_eq, Part.acts_arm, Part.acts_acts, Part.acts_marksKept] at hnext
  have hrt : r.test.phase = .idle := by rw [← hr]; exact ht
  generalize hH : s.part.holdsArm r.staled .stale = H at hnext
  have hHs : H.guard.state = .held ∧ H.test.phase = .idle := by rw [← hH]; exact ⟨rfl, hrt⟩
  generalize hw : (H.due s.part.marksKept).unseen.noted s.part.marksKept = w at hnext
  have hwv : w.view = H.unseen.view := by rw [← hw]; rfl
  have hws : w.guard.state = .held ∧ w.test.phase = .idle ∧ w.monitor.known = false := by
    rw [← hw]; exact ⟨hHs.1, hHs.2, rfl⟩
  generalize hf : causeBit (armCause x) ||| 0 = flags at hnext
  have hfe : flags = causeBit (armCause x) := by rw [← hf]; exact BitVec.or_zero
  have hwx := s.part.acts_arm x w flags ([] ++ [])
  rw [Part.escalate_stops _ x .loss (by rw [hwx, hws.1]; rfl) (by rw [hwx]; exact hws.2.1), hwx, Part.acts_acts,
    Part.evaluateClearance_unknown (.inl (by
      rw [Part.acts_arm]
      exact (w.escalated_unknown .loss).trans hws.2.2)), hfe, BitVec.or_self] at hnext
  exact onPart_acts_view (f := fun q => q.nextNotice x) s h hc hnext
    ((ArmPart.due_view _ _).trans (ArmPart.escalated_view_congr hwv))

/-- Settles O43. -/
theorem escalationsStopTheArm : Obligations.EscalationsStopTheArm := by
  unfold Obligations.EscalationsStopTheArm
  intro s x h hc
  dsimp only
  have h0 : ∀ w : Word, (0 : Word) ||| w = w := fun w => BitVec.zero_or
  have loss : s.part.guarding = true → (s.part.arm x).monitor.evaluationOwed = false →
      timerDue s.part.now (s.part.arm x).monitor.lossTimer = true → s.part.lossExpires x =
        (s.part.acts x ((s.part.arm x).unseen.noted s.part.marksKept) 0 []).escalate x .loss := fun hg ho hd =>
    (if_pos ⟨hg, by rw [ho]; rfl, hd⟩).trans (s.part.expireLoss_eq x)
  have ack : s.part.guarding = true → (s.part.arm x).guard.state = .held → (s.part.arm x).guard.phase = .awaiting →
      timerDue s.part.now (s.part.arm x).guard.ackTimer = true → s.part.holdAckExpires x =
        (s.part.acts x ((s.part.arm x).noted false) 0 []).escalate x .holdAck := fun hg hs hp hd => by
    rw [ArmPart.noted_false, show s.part.acts x (s.part.arm x) 0 [] = s.part from s.part.acts_self x]
    exact if_pos ⟨hg, hs, hp, hd⟩
  have estop : (s.part.arm x).link.state = .active → (s.part.arm x).link.phase = .hunt → s.part.rxByte x 0xE7 false =
      (s.part.acts x ((s.part.arm x).noted false) (causeBit .link) []).escalate x .estop := fun ha hp => by
    rw [ArmPart.noted_false, ← s.part.setCause_eq_acts x]
    simp only [Part.rxByte, ha, hp, Bool.false_eq_true, if_false, Part.rxHunt_estop]
  have guards : s.part.engine = .serving → s.part.guarding = true := fun he => by
    unfold Part.guarding; rw [he]; rfl
  refine ⟨fun hno => onPart_unchanged s _ h (if_neg ?_), fun hg ho hd => ⟨fun hs => ?_, fun hs ht => ?_,
    fun hs slot he ht hq hop => ?_, fun prior slot he hs hp hpr hq hop => ?_⟩, fun n hg hn hd hs hst ht ho hfs hfl => ?_,
    fun hg hs hp hd ht => ?_, fun hs hp hd slot he ht hq hop => ?_, fun hno => onPart_unchanged s _ h (if_neg ?_),
    fun ha hp hs ht => ?_, fun ha hp => ⟨fun hs slot he ht hq hop => ?_, fun prior slot he hs hpr hpo hq hop => ?_⟩⟩
  · rintro ⟨hg, ho, hd⟩
    rcases hno with hno | hno | hno
    · rw [hno] at hg; cases hg
    · rw [hno] at ho; cases ho
    · rw [hno] at hd; cases hd
  · have hrest := Part.escalate_resting (s.part.acts x ((s.part.arm x).unseen.noted s.part.marksKept) 0 []) x .loss
      (by rw [Part.acts_arm]; exact hs)
    exact onPart_acts_view s h hc ((loss hg ho hd).trans hrest) rfl
  · have hstop := escalation_stops (f := fun q => q.lossExpires x) h hc (loss hg ho hd) hs ht
    rw [h0] at hstop
    exact hstop
  · exact escalation_aborts (f := fun q => q.lossExpires x) (u := (s.part.arm x).unseen) h hc (loss hg ho hd) hs he ht hq hop rfl
  · exact escalation_fails (f := fun q => q.lossExpires x) (u := (s.part.arm x).unseen) h hc (loss hg ho hd) he hs hp hq hop rfl
  · obtain ⟨t, hex, hp, hv⟩ := frameNotice_loses h hc hg hn hd hs hst ht ho hfs hfl
    exact ⟨t, hex, hp, hv⟩
  · have hstop := escalation_stops (f := fun q => q.holdAckExpires x) h hc (ack hg hs hp hd) (by rw [hs]; rfl) ht
    rw [h0] at hstop
    exact hstop
  · exact escalation_aborts (f := fun q => q.holdAckExpires x) (u := s.part.arm x) h hc (ack (guards he) hs hp hd) (by rw [hs]; rfl) he ht hq hop rfl
  · rintro ⟨hg, hs, hp, hd⟩
    rcases hno with hno | hno | hno
    · exact hno hs
    · exact hno hp
    · rw [hno] at hd; cases hd
  · exact escalation_stops (f := fun q => q.rxByte x 0xE7 false) (u := s.part.arm x) h hc (estop ha hp) hs ht
  · exact escalation_aborts (f := fun q => q.rxByte x 0xE7 false) (u := s.part.arm x) h hc (estop ha hp) hs he ht hq hop rfl
  · exact escalation_fails (f := fun q => q.rxByte x 0xE7 false) (u := s.part.arm x) h hc (estop ha hp) he hs hpr hq hop rfl

/-! ## The window of an admission and the wait timer (O50) -/

/-- Settles O50. -/
theorem windowsEndAdmissionsAndWaits : Obligations.WindowsEndAdmissionsAndWaits := by
  unfold Obligations.WindowsEndAdmissionsAndWaits
  intro s x h
  dsimp only
  refine ⟨fun hno => onPart_unchanged s _ h (if_neg ?_), fun prior slot he hc hs hd hp hpr hq ho => ?_, fun hw => ?_,
    fun w hw => ⟨fun hd => ?_, fun he hc hd ho => ?_⟩⟩
  · rintro ⟨hg, hs, hd⟩
    rcases hno with hno | hno | hno
    · exact hno hs
    · rw [hno] at hg; cases hg
    · rw [hno] at hd; cases hd
  · have hg : s.part.guarding = true := by unfold Part.guarding; rw [he]; rfl
    have hf : s.part.admitWindowExpires x = s.part.failAdmission x .window := if_pos ⟨hg, hs, hd⟩
    obtain ⟨t, hex, hpend, hv, hops⟩ := onPart_acts (f := fun q => q.admitWindowExpires x) s h hc
      (hf.trans (s.part.failAdmission_answers x .window hp hq he ho))
    refine ⟨t, hex, hpend, ?_, hv.trans (Part.withArm_view_congr _ _ _ (by rw [ArmPart.replied_true]; rfl))⟩
    exact hops.trans (congrArg _ (Part.statusOps_due he (Bool.or_true _) rfl))
  · exact onPart_unchanged s _ h (by simp only [Part.waitExpires, hw])
  · exact onPart_unchanged s _ h (by simp only [Part.waitExpires, hw, hd, Bool.false_eq_true, if_false])
  · have ha : s.part.answerable x w.slot = true := (s.part.answerable_iff x w.slot).mpr ⟨he, ho⟩
    have hf : s.part.waitExpires x = s.part.endWaiting x .expired := by
      simp only [Part.waitExpires, hw, hd, if_true]
    rw [s.part.endWaiting_eq x w .expired hw, ha, Part.resultOps, ha, if_pos rfl] at hf
    obtain ⟨t, hex, hpend, hv, hops⟩ := onPart_acts (f := fun q => q.waitExpires x) s h hc hf
    refine ⟨t, hex, hpend, ?_, hv.trans (Part.withArm_view_congr _ _ _ (by rw [ArmPart.replied_true]))⟩
    have hdue : (if s.part.engine = .serving ∧ (s.part.arm x).chain.publishDue = true ∧
        (s.part.arm x).chain.blockQueued = false then [MemOp.statusWrite x] else []) = [] := h.2.1.dueOps x
    exact hops.trans ((congrArg _ hdue).trans (List.append_nil _))

end Sys2Proof.Machine

/-! PROOFS. The halves of an admission frame (O48). -/

namespace Sys2Proof.Machine

/-! ## Halves that find a partner, and halves that wait (R102) -/

/-- A guard with other unpaired halves and another count. -/
def Guard.paired (g : Guard) (count : Nat) (l : List AdmissionHalf) : Guard := { g with count := count, unpaired := l }

section
variable (p : Part) (x : Arm) (k : AdmissionHalf)

/-- A half without a partner joins the unpaired ones. -/
theorem Part.takeHalf_waits (h : ∀ j ∈ (p.arm x).guard.unpaired, k.partners j = false) : p.takeHalf x k =
    p.acts x ((p.arm x).guarded ((p.arm x).guard.paired (p.arm x).guard.count ((p.arm x).guard.unpaired ++ [k]))) 0 [] := by
  have hd : (p.arm x).guard.unpaired.dropWhile (fun j => !k.partners j) = [] := by
    rw [← List.append_nil (p.arm x).guard.unpaired, List.dropWhile_append_of_pos fun j hj => by rw [h j hj]; rfl]
    rfl
  unfold Part.takeHalf
  dsimp only
  rw [hd, Part.updGuard_eq, Part.updArm_eq_acts]
  rfl

/-- A half whose partner waits: the frame's admission step, the partner and every earlier half gone. -/
theorem Part.takeHalf_pairs {earlier later : List AdmissionHalf} {j : AdmissionHalf} {d : DriveState} {r : Answer}
    (hu : (p.arm x).guard.unpaired = earlier ++ j :: later) (he : ∀ i ∈ earlier, k.partners i = false)
    (hj : k.partners j = true) (hf : pairedFigures k j = some (d, r)) : p.takeHalf x k =
      (p.acts x ((p.arm x).guarded ((p.arm x).guard.paired (p.arm x).guard.count later)) 0 []).admissionStep x d r := by
  have hd : (p.arm x).guard.unpaired.dropWhile (fun j => !k.partners j) = j :: later := by
    rw [hu, List.dropWhile_append_of_pos (fun i hi => by rw [he i hi]; rfl), List.dropWhile_cons_of_neg (by rw [hj]; simp)]
  unfold Part.takeHalf
  dsimp only
  rw [hd]
  dsimp only
  rw [hf, Part.updGuard_eq, Part.updArm_eq_acts]
  rfl

/-- An admission step below the count that succeeds counts. -/
theorem Part.admissionStep_counts {d : DriveState} {r : Answer}
    (h : countAfter (p.arm x).guard.count d r < p.figures.admitCount) : p.admissionStep x d r =
      p.acts x ((p.arm x).guarded ((p.arm x).guard.paired (countAfter (p.arm x).guard.count d r)
        (p.arm x).guard.unpaired)) 0 [] := by
  rw [Part.admissionStep_eq]
  dsimp only
  rw [if_neg (by omega), Part.updGuard_eq, Part.updArm_eq_acts]
  rfl

end

theorem countAfter_eq {d : DriveState} {r : Answer} (c : Nat) (hd : d ≠ .fault) :
    countAfter c d r = if r.foreign = true ∨ d = .moving then 0 else c + 1 := by
  unfold countAfter
  cases d with
  | fault => exact absurd rfl hd
  | moving => simp
  | holding => cases r.foreign <;> simp
  | standstill => cases r.foreign <;> simp

/-! The partner of an answer is the notice with its stamp, and the other way round. -/

theorem answer_partners_iff (a : Answer) (k : AdmissionHalf) :
    (AdmissionHalf.answer a).partners k = true ↔ ∃ n, k = .notice n ∧ n.seq = a.seq ∧ n.time = a.time := by
  cases k with
  | notice n =>
    rw [show (AdmissionHalf.answer a).partners (.notice n) = ((a.seq, a.time) == (n.seq, n.time)) from rfl, beq_iff_eq,
      Prod.mk.injEq]
    exact ⟨fun ⟨hs, ht⟩ => ⟨n, rfl, hs.symm, ht.symm⟩, fun ⟨m, hm, hs, ht⟩ => by cases hm; exact ⟨hs.symm, ht.symm⟩⟩
  | answer b => simp [AdmissionHalf.partners, AdmissionHalf.isNotice]

theorem notice_partners_iff (n : Notice) (k : AdmissionHalf) :
    (AdmissionHalf.notice n).partners k = true ↔ ∃ a, k = .answer a ∧ a.seq = n.seq ∧ a.time = n.time := by
  cases k with
  | answer a =>
    rw [show (AdmissionHalf.notice n).partners (.answer a) = ((n.seq, n.time) == (a.seq, a.time)) from rfl, beq_iff_eq,
      Prod.mk.injEq]
    exact ⟨fun ⟨hs, ht⟩ => ⟨a, rfl, hs.symm, ht.symm⟩, fun ⟨b, hb, hs, ht⟩ => by cases hb; exact ⟨hs.symm, ht.symm⟩⟩
  | notice b => simp [AdmissionHalf.partners, AdmissionHalf.isNotice]

theorem answer_alone {a : Answer} {l : List AdmissionHalf} (h : ∀ n, .notice n ∈ l → n.seq ≠ a.seq ∨ n.time ≠ a.time) :
    ∀ k ∈ l, (AdmissionHalf.answer a).partners k = false := fun k hk => by
  rw [← Bool.not_eq_true, answer_partners_iff]
  rintro ⟨n, rfl, hs, ht⟩
  exact (h n hk).elim (fun hne => hne hs) fun hne => hne ht

theorem notice_alone {n : Notice} {l : List AdmissionHalf} (h : ∀ a, .answer a ∈ l → a.seq ≠ n.seq ∨ a.time ≠ n.time) :
    ∀ k ∈ l, (AdmissionHalf.notice n).partners k = false := fun k hk => by
  rw [← Bool.not_eq_true, notice_partners_iff]
  rintro ⟨a, rfl, hs, ht⟩
  exact (h a hk).elim (fun hne => hne hs) fun hne => hne ht

/-! ## Admission answers -/

/-- An arm whose oldest admission answer has been taken. -/
def ArmPart.answered (r : ArmPart) (rest : List Answer) : ArmPart := { r with answers := rest }

theorem Part.nextAnswer_eq {p : Part} {x : Arm} {a : Answer} {rest : List Answer} (h : (p.arm x).answers = a :: rest) :
    p.nextAnswer x = (p.acts x ((p.arm x).answered rest) 0 []).takeAnswer x a := by
  unfold Part.nextAnswer
  rw [h]
  dsimp only
  rw [Part.updArm_eq_acts]
  rfl

theorem Part.actOnNotice_admitting {p : Part} {x : Arm} {n : Notice} (hs : (p.arm x).guard.state = .admitting)
    (hd : n.drive ≠ .fault) : p.actOnNotice x n = p.takeHalf x (.notice n) := by
  unfold Part.actOnNotice
  cases hn : n.drive with
  | fault => exact absurd hn hd
  | _ => simp only [hs]

section
variable {s : State} {x : Arm} {n : Notice} {rest : List Notice} (h : s.part.steady) (hc : s.part.carries)
  (hg : s.part.guarding = true) (hn : (s.part.arm x).notices = n :: rest)
  (hfresh : s.part.freshAt ((s.part.arm x).noticing rest)) (hs : (s.part.arm x).guard.state = .admitting)
  (hd : n.drive ≠ .fault)
include h hc hg hn hfresh hs hd

/-- A notice in ADMITTING that pairs or waits: STALE leaves the set as well. -/
theorem frameNotice_pairs {u : ArmPart} (ht : (s.part.noticed x rest).takeHalf x (.notice n) = s.part.acts x u 0 [])
    (hu : u.SameFrame ((s.part.arm x).noticing rest)) (hst : u.guard.state = .admitting)
    (hre : u.guard.reasons = (s.part.arm x).guard.reasons)
    (ha : u.guard.stopAsserted = (s.part.arm x).guard.stopAsserted) (hch : u.chain = (s.part.arm x).chain) :
    let ends := fun (v : ArmPart) (flags : Word) => ∃ t, exec (.frameNotice x) s = .next t ∧ t.pending = s.pending ∧
      t.part.view = (s.part.frameEnd x v flags).view
    ((s.part.arm x).guard.reasons.stale = false → ends u 0 ∧
      ((s.part.arm x).monitor.evaluationOwed = false →
        exec (.frameNotice x) s = .next { s with part := s.part.withArm x u 0 })) ∧
    ((s.part.arm x).guard.reasons.stale = true → ends u.unstale (causeBit (armCause x))) := by
  intro ends
  have hact : (s.part.noticed x rest).actOnNotice x n = s.part.acts x u 0 [] :=
    (Part.actOnNotice_admitting (by rw [Part.acts_arm]; exact hs) hd).trans ht
  have take := congrArg (fun q : Part => q.removeReason x .stale) hact
  refine ⟨fun hno => ?_, fun hyes => ?_⟩
  · have hrem := take.trans (Part.removeReason_absent _ x .stale (by rw [Part.acts_arm, hre]; exact hno))
    obtain ⟨t, more, he, hp, -, -, hv⟩ := frameNotice_ends h hc hg hn hfresh hu hrem rfl
    exact ⟨⟨t, he, hp, hv⟩, fun ho => frameNotice_exact h hn
      ((Part.takeNotice_guarding (by rw [Part.acts_guarding]; exact hg) x n).trans hrem) (.inr (hu.2.1.trans ho))
      (hst.trans hs.symm) ha hch⟩
  · obtain ⟨k, hk⟩ := s.part.removeStale_resting x u 0 [] (by rw [hst]; simp)
    rw [if_pos (by rw [hre]; exact hyes), show (0 : Word) ||| causeBit (armCause x) = causeBit (armCause x) from
      BitVec.zero_or] at hk
    obtain ⟨t, more, he, hp, -, -, hv⟩ := frameNotice_ends (u := u.unstale) h hc hg hn hfresh hu (take.trans hk) rfl
    exact ⟨t, he, hp, hv⟩

end

/-- Settles O48. -/
theorem admissionPairsHalvesAndCounts : Obligations.AdmissionPairsHalvesAndCounts := by
  unfold Obligations.AdmissionPairsHalvesAndCounts
  intro s x h
  dsimp only
  refine ⟨fun hn => onPart_unchanged s _ h (by simp only [Part.nextAnswer, hn]), fun a rest hn => ⟨fun hno => ?_,
    fun hg hs => ⟨fun halone => ?_, fun earlier n later hu hseq htime hd hbefore hcount => ?_⟩⟩,
    fun n rest hn hg hc hs hd hfresh => ⟨fun halone => ?_, fun earlier a later hu hseq htime hbefore hcount => ?_⟩⟩
  · have hx := s.part.acts_arm x ((s.part.arm x).answered rest) 0 []
    refine onPart_withArm (f := fun q => q.nextAnswer x) h rfl rfl rfl rfl ((Part.nextAnswer_eq hn).trans ?_)
    refine (if_neg ?_).trans (Part.withArm_eq_acts ..).symm
    rintro ⟨hg, hs⟩
    rw [Part.acts_guarding] at hg
    rw [hx] at hs
    rcases hno with hno | hno
    · rw [hno] at hg; cases hg
    · exact hno hs
  · have hx := s.part.acts_arm x ((s.part.arm x).answered rest) 0 []
    have htake := (s.part.acts x ((s.part.arm x).answered rest) 0 []).takeHalf_waits x (.answer a)
      (by rw [hx]; exact answer_alone halone)
    rw [hx, Part.acts_acts] at htake
    refine onPart_withArm (f := fun q => q.nextAnswer x) h rfl rfl rfl rfl ((Part.nextAnswer_eq hn).trans ?_)
    exact ((if_pos ⟨by rw [Part.acts_guarding]; exact hg, by rw [hx]; exact hs⟩).trans htake).trans
      (Part.withArm_eq_acts ..).symm
  · have hx := s.part.acts_arm x ((s.part.arm x).answered rest) 0 []
    have htake := (s.part.acts x ((s.part.arm x).answered rest) 0 []).takeHalf_pairs x (.answer a) (later := later)
      (by rw [hx]; exact hu) (answer_alone hbefore) ((answer_partners_iff a _).mpr ⟨n, rfl, hseq, htime⟩) rfl
    rw [Part.admissionStep_counts _ x (by
      rw [Part.acts_arm, hx, Part.acts_figures, Part.acts_figures, countAfter_eq _ hd]
      exact hcount)] at htake
    simp only [Part.acts_arm, Part.acts_acts, BitVec.or_self, List.append_nil] at htake
    rw [countAfter_eq _ hd] at htake
    refine onPart_withArm (f := fun q => q.nextAnswer x) h rfl rfl rfl rfl ((Part.nextAnswer_eq hn).trans ?_)
    exact ((if_pos ⟨by rw [Part.acts_guarding]; exact hg, by rw [hx]; exact hs⟩).trans htake).trans
      (Part.withArm_eq_acts ..).symm
  · have hx := s.part.acts_arm x ((s.part.arm x).noticing rest) 0 []
    have htake := (s.part.noticed x rest).takeHalf_waits x (.notice n) (by rw [hx]; exact notice_alone halone)
    rw [hx, Part.noticed_acts] at htake
    exact frameNotice_pairs h hc hg hn hfresh hs hd htake ⟨rfl, rfl, rfl, rfl⟩ hs rfl rfl rfl
  · have hx := s.part.acts_arm x ((s.part.arm x).noticing rest) 0 []
    have htake := (s.part.noticed x rest).takeHalf_pairs x (.notice n) (later := later) (by rw [hx]; exact hu)
      (notice_alone hbefore) ((notice_partners_iff n _).mpr ⟨a, rfl, hseq, htime⟩) rfl
    rw [Part.admissionStep_counts _ x (by
      rw [Part.acts_arm, hx, Part.acts_figures, Part.acts_figures, countAfter_eq _ hd]
      exact hcount)] at htake
    simp only [Part.acts_arm, Part.acts_acts, BitVec.or_self, List.append_nil] at htake
    rw [countAfter_eq _ hd] at htake
    exact frameNotice_pairs h hc hg hn hfresh hs hd htake ⟨rfl, rfl, rfl, rfl⟩ hs rfl rfl rfl

end Sys2Proof.Machine

/-! PROOFS. Stop tests (O52). -/

namespace Sys2Proof.Machine

/-! ## The result of a measured test (R113) -/

/-- A test's result as R113 gives it, in natural numbers: `way` is the distance of the reaction time. -/
def measuredNat (u : TestUnit) (g : ArmFigures) (f : Figures) : TestResult :=
  let d := distance u.p0 f.pos
  let way := u.v0 * g.reaction / 1000
  let am := if d ≤ way then 0 else u.v0 * u.v0 / (2 * (d - way))
  { verdict := if way < d ∧ am < 500 then .testDeficient else .testPassed, stopCause := .none, v0 := u.v0
    distance := d, elapsed := f.time - u.t0, reaction := way, braking := (d : Int) - (way : Int)
    measured := am, alrn := if d ≤ way then g.acfg else if am < 500 then 500 else min g.acfg am }

theorem measuredResult_eq (u : TestUnit) (g : ArmFigures) (f : Figures) :
    measuredResult u g f = measuredNat u g f := by
  unfold measuredResult measuredNat
  dsimp only
  generalize distance u.p0 f.pos = d
  generalize u.v0 * g.reaction / 1000 = way
  by_cases h : d ≤ way
  · have hb : (d : Int) - (way : Int) ≤ 0 := by omega
    have hw : ¬ way < d := by omega
    simp [h, hb, hw]
  · have hb : ¬ (d : Int) - (way : Int) ≤ 0 := by omega
    have hw : way < d := by omega
    have hs : ((d : Int) - (way : Int)).toNat = d - way := by omega
    simp [h, hb, hw, hs]

theorem measuredNat_deficient (u : TestUnit) (g : ArmFigures) (f : Figures) :
    (measuredNat u g f).verdict = .testDeficient ↔
      (measuredNat u g f).reaction < (measuredNat u g f).distance ∧ (measuredNat u g f).measured < 500 := by
  unfold measuredNat
  dsimp only
  exact ⟨fun h => Classical.byContradiction fun hn => (by rw [if_neg hn] at h; cases h), fun h => if_pos h⟩

/-! ## The end of a test as an effect (R114, R115) -/

/-- An arm's share with another stop test unit. -/
def ArmPart.tested (r : ArmPart) (u : TestUnit) : ArmPart := { r with test := u }

section
variable (p : Part) (x : Arm)

/-- The result of a test in an open slot is recorded and answered. -/
theorem Part.recordTest_answers (t : TestResult) {slot : Nat} (hq : (p.arm x).test.slot = some slot)
    (he : p.engine = .serving) (ho : (p.arm x).chain.openSlot = some slot) : p.recordTest x t =
      p.acts x ((((p.arm x).recorded t).due true).replied true) (causeBit .test)
        (answerOps x slot p.now t.verdict (.test t)) := by
  have ha : p.answerable x slot = true := (p.answerable_iff x slot).mpr ⟨he, ho⟩
  have hk : p.marksKept = true := by simp [Part.marksKept, he]
  rw [Part.recordTest_eq, Part.testAnswered, Part.testOps, hq, hk]
  simp [ha, Part.resultOps]

/-- An arm held for TEST that its test stops: TEST leaves the set. -/
theorem Part.stopsTested {d : ArmPart} {ops : List MemOp} (cause : StopCause) (hs : d.guard.state = .held)
    (hr : d.guard.reasons.test = true) (ht : d.test.phase = .idle) : ∃ k, ((p.acts x d (causeBit .test) ops).escalate x
      cause).removeReason x .test = p.acts x (((d.escalated cause).withReason false .test).due k)
        (causeBit .test ||| causeBit (armCause x)) ops := by
  have hx := p.acts_arm x d (causeBit .test) ops
  have hesc : (d.escalated cause).guard.reasons = d.guard.reasons := by
    unfold ArmPart.escalated
    dsimp only
    rw [if_neg (by rw [ht]; simp)]
  have hst := d.escalated_state cause
  refine ⟨p.marksKept, ?_⟩
  rw [Part.escalate_stops _ x cause (by rw [hx, hs]; rfl) (by rw [hx]; exact ht), hx, Part.acts_acts,
    Part.removeReason_staying _ x .test (by rw [Part.acts_arm]; exact hesc ▸ hr) (by
      rw [Part.acts_arm]
      rintro ⟨hh, -⟩
      cases hst.symm.trans hh), Part.acts_arm, Part.acts_acts, BitVec.or_assoc, BitVec.or_self, List.append_nil, List.append_nil]
  simp [ArmPart.due, ArmPart.withReason]

/-- A test of an arm held for it ends at its standstill frame: TEST leaves the set, or the arm is stopped (R114). -/
theorem Part.endTest_eq (f : Figures) {slot : Nat} {t : TestResult} (ht : measuredNat (p.arm x).test (p.figures.arm x) f = t)
    (hq : (p.arm x).test.slot = some slot) (he : p.engine = .serving) (ho : (p.arm x).chain.openSlot = some slot)
    (hs : (p.arm x).guard.state = .held) (hr : (p.arm x).guard.reasons.test = true) : ∃ k, p.endTest x f = p.acts x
      ((if t.verdict = .testDeficient then (((((p.arm x).recorded t).due true).replied true).escalated
          .testDeficient).withReason false .test
        else ((((p.arm x).recorded t).due true).replied true).without .test).due k)
      (causeBit .test ||| causeBit (armCause x)) (answerOps x slot p.now t.verdict (.test t)) := by
  have hrec := p.recordTest_answers x t hq he ho
  generalize hd : (((p.arm x).recorded t).due true).replied true = d at hrec
  have hds : d.guard.state = .held ∧ d.guard.reasons.test = true ∧ d.test.phase = .idle := by
    rw [← hd]; exact ⟨hs, hr, rfl⟩
  unfold Part.endTest
  dsimp only
  rw [measuredResult_eq, ht, hrec]
  by_cases hv : t.verdict = .testDeficient
  · rw [if_pos hv, if_pos hv]
    exact p.stopsTested x .testDeficient hds.1 hds.2.1 hds.2.2
  · rw [if_neg hv, if_neg hv]
    refine ⟨p.marksKept, ?_⟩
    rw [Part.removeReason_eq _ x .test (by rw [Part.acts_arm]; exact hds.2.1)]
    simp

/-- The test window closes on a test of an arm held for it (R115). -/
theorem Part.overrunTest_eq {slot : Nat} (hq : (p.arm x).test.slot = some slot) (he : p.engine = .serving)
    (ho : (p.arm x).chain.openSlot = some slot) (hs : (p.arm x).guard.state = .held)
    (hr : (p.arm x).guard.reasons.test = true) : ∃ k, p.overrunTest x = p.acts x
      ((((((((p.arm x).recorded (unmeasured .testOverrun .none (p.arm x).test.v0 500)).due true).replied true).escalated
        .testOverrun).withReason false .test).due k)) (causeBit .test ||| causeBit (armCause x))
      (answerOps x slot p.now .testOverrun (.test (unmeasured .testOverrun .none (p.arm x).test.v0 500))) := by
  have hrec := p.recordTest_answers x (unmeasured .testOverrun .none (p.arm x).test.v0 500) hq he ho
  unfold Part.overrunTest
  dsimp only
  rw [hrec]
  exact p.stopsTested x .testOverrun hs hr rfl

/-! ## Frame figures (R112) -/

variable {p x}

theorem Part.nextFigures_eq {f : Figures} {rest : List Figures} (h : (p.arm x).figures = f :: rest) :
    p.nextFigures x = (p.acts x { p.arm x with figures := rest } 0 []).takeFigures x f := by
  unfold Part.nextFigures
  rw [h]
  dsimp only
  rw [Part.updArm_eq_acts]

theorem Part.takeFigures_eq (f : Figures) (hg : p.guarding = true) : p.takeFigures x f =
    if (p.arm x).test.phase = .braking then
      (p.acts x ((p.arm x).tested { (p.arm x).test with seen := f }) 0 []).watchStop x f
    else p.acts x ((p.arm x).tested { (p.arm x).test with seen := f }) 0 [] := by
  have hup : (p.updTest x fun u => { u with seen := f }) =
      p.acts x ((p.arm x).tested { (p.arm x).test with seen := f }) 0 [] := by
    rw [Part.updTest_eq, Part.updArm_eq_acts]; rfl
  unfold Part.takeFigures
  rw [if_pos hg]
  dsimp only
  rw [hup, Part.acts_arm]
  rfl

theorem Part.updTest_acts (f : TestUnit → TestUnit) : p.updTest x f = p.acts x ((p.arm x).tested (f (p.arm x).test)) 0 [] := by
  rw [Part.updTest_eq, Part.updArm_eq_acts]; rfl

/-- The frames that a BRAKING unit counts as slow. -/
def Part.isSlow (p : Part) (f : Figures) : Prop :=
  (f.drive = .moving ∨ f.drive = .holding) ∧ f.speed ≤ p.figures.stillSpeed

theorem Part.watchStop_fast {f : Figures} (hd : f.drive ≠ .standstill) (hs : ¬ p.isSlow f) :
    p.watchStop x f = p.acts x ((p.arm x).tested { (p.arm x).test with slow := 0 }) 0 [] := by
  have fast : (f.drive = .moving ∨ f.drive = .holding) → p.slowFrame x f =
      p.acts x ((p.arm x).tested { (p.arm x).test with slow := 0 }) 0 [] := fun hm =>
    (if_pos (Nat.lt_of_not_le fun hle => hs ⟨hm, hle⟩)).trans (Part.updTest_acts _)
  unfold Part.watchStop
  cases hf : f.drive with
  | standstill => exact absurd hf hd
  | fault => exact Part.updTest_acts _
  | moving => exact fast (.inl hf)
  | holding => exact fast (.inr hf)

theorem Part.watchStop_slow {f : Figures} (hs : p.isSlow f) (h0 : (p.arm x).test.slow = 0) :
    p.watchStop x f = p.acts x ((p.arm x).tested { (p.arm x).test with slow := 1 }) 0 [] := by
  obtain ⟨hm, hle⟩ := hs
  have slow : p.slowFrame x f = p.acts x ((p.arm x).tested { (p.arm x).test with slow := 1 }) 0 [] :=
    (if_neg (by omega)).trans ((if_pos h0).trans (Part.updTest_acts _))
  unfold Part.watchStop
  rcases hm with hm | hm <;> rw [hm] <;> exact slow

theorem Part.watchStop_ends {f : Figures} (h : f.drive = .standstill ∨ p.isSlow f ∧ (p.arm x).test.slow ≠ 0) :
    p.watchStop x f = p.endTest x f := by
  unfold Part.watchStop
  rcases h with h | ⟨⟨hm, hle⟩, h0⟩
  · rw [h]
  · have slow : p.slowFrame x f = p.endTest x f := (if_neg (by omega)).trans (if_neg h0)
    rcases hm with hm | hm <;> rw [hm] <;> exact slow

end

/-! ## The obligation -/

/-- TEST is the last reason of a set that holds it alone. -/
theorem Reasons.put_test_eq (r : Reasons) (h : r.test = true) :
    r.put false .test = noReasons ↔ r = { noReasons with test := true } := by
  obtain ⟨host, breach, park, stale, test⟩ := r
  obtain rfl : test = true := h
  simp [Reasons.put, noReasons]

/-- The arm that its test has stopped, without TEST in its set, shows what the spec says of it. -/
theorem ArmPart.stopped_view {d w : ArmPart} (cause : StopCause) (hv : d.view = w.view) (ht : w.test.phase = .idle) :
    ((d.escalated cause).withReason false .test).view =
      ({ w.escalated cause with guard := { (w.escalated cause).guard with
        reasons := { w.guard.reasons with test := false } } } : ArmPart).view := by
  have hw : (w.escalated cause).guard.reasons = w.guard.reasons := by
    unfold ArmPart.escalated
    dsimp only
    rw [if_neg (by rw [ht]; simp)]
  have hcongr := congrArg (fun r : ArmPart => (r.withReason false .test).view)
    (ArmPart.escalated_view_congr (cause := cause) hv)
  refine hcongr.trans ?_
  rw [← hw]
  rfl

theorem ArmPart.stopped_chain (d : ArmPart) (cause : StopCause) (k : Bool) :
    (((d.escalated cause).withReason false .test).due k).chain =
      { d.chain with publishDue := d.chain.publishDue || k } :=
  congrArg (fun c : Chain => { c with publishDue := c.publishDue || k }) (d.escalated_chain cause)

/-- Marks that only the order of the queue reads do not show after TEST has left the set. -/
theorem ArmPart.without_view {d w : ArmPart} (hv : d.view = w.view) :
    (d.without .test).view = (w.without .test).view := by
  have e : ∀ r : ArmPart, (r.without .test).view = (r.view.without .test).view := fun r => by
    unfold ArmPart.without
    by_cases hl : r.guard.state = .held ∧ r.guard.reasons.put false .test = noReasons
    · rw [if_pos hl, if_pos (show r.view.guard.state = .held ∧ r.view.guard.reasons.put false .test = noReasons from hl)]; rfl
    · rw [if_neg hl, if_neg (show ¬ (r.view.guard.state = .held ∧ r.view.guard.reasons.put false .test = noReasons) from hl)]
      rfl
  rw [e, hv, ← e]

section
variable {s : State} {x : Arm} {f : Part → Part} {u : ArmPart} {ops : List MemOp} {flags : Word}

/-- A command that ends a test: the answer, the writes behind it and the view of the arm it leaves. -/
theorem testEnds {w : ArmPart} (h : s.part.steady) (hc : s.part.carries) (he : s.part.engine = .serving)
    (hf : f s.part = s.part.acts x u flags ops) (hd : u.chain.publishDue = true)
    (hb : u.chain.blockQueued = (s.part.arm x).chain.blockQueued) (hv : u.view = w.view) :
    ∃ t, onPart s (fun p => p.step f) = .next t ∧ t.pending = s.pending ∧
      t.part.ops = s.part.ops ++ ops ++ s.part.statusOps x ∧ t.part.view = (s.part.withArm x w flags).view := by
  obtain ⟨t, hex, hpend, htv, hops⟩ := onPart_acts s h hc hf
  exact ⟨t, hex, hpend, hops.trans (congrArg _ (Part.statusOps_due he hd hb)), htv.trans (Part.withArm_view_congr _ _ _ hv)⟩

end

/-- Settles O52. -/
theorem stopTestWatchesAndMeasures : Obligations.StopTestWatchesAndMeasures := by
  unfold Obligations.StopTestWatchesAndMeasures
  intro s x h
  dsimp only
  refine ⟨fun hf => onPart_unchanged s _ h (by simp only [Part.nextFigures, hf]), fun f rest hf => ?_,
    fun hno => onPart_unchanged s _ h (if_neg ?_), fun slot he hc ht hd hq ho hs hr => ?_⟩
  · have hnext := Part.nextFigures_eq hf
    have hx := s.part.acts_arm x { s.part.arm x with figures := rest } 0 []
    refine ⟨fun hg => ?_, fun hg hi => ?_, fun hg hb => ?_⟩
    · refine onPart_withArm (f := fun q => q.nextFigures x) h rfl rfl rfl rfl (hnext.trans ?_)
      exact (if_neg (by rw [Part.acts_guarding, hg]; simp)).trans (Part.withArm_eq_acts ..).symm
    · refine onPart_withArm (f := fun q => q.nextFigures x) h rfl rfl rfl rfl (hnext.trans ?_)
      rw [Part.takeFigures_eq _ (by rw [Part.acts_guarding]; exact hg), hx, if_neg (by rw [hi]; simp), Part.acts_acts,
        Part.withArm_eq_acts]
      rfl
    · rw [Part.takeFigures_eq _ (by rw [Part.acts_guarding]; exact hg), hx, if_pos hb, Part.acts_acts] at hnext
      generalize hr0 : ArmPart.tested _ _ = r0 at hnext
      have hx0 := s.part.acts_arm x r0 (0 ||| 0) ([] ++ [])
      have counts : ∀ n, (s.part.acts x r0 (0 ||| 0) ([] ++ [])).watchStop x f =
          (s.part.acts x r0 (0 ||| 0) ([] ++ [])).acts x (r0.tested { r0.test with slow := n }) 0 [] →
          exec (.frameFigures x) s = .next { s with part := s.part.withArm x (r0.tested { r0.test with slow := n }) 0 } :=
        fun n hw => by
          refine onPart_withArm (f := fun q => q.nextFigures x) h ?_ ?_ ?_ ?_ (hnext.trans (hw.trans ?_))
          any_goals rw [← hr0]; rfl
          rw [Part.acts_acts, Part.withArm_eq_acts]; rfl
      have slow_iff : (s.part.acts x r0 (0 ||| 0) ([] ++ [])).isSlow f ↔
          (f.drive = .moving ∨ f.drive = .holding) ∧ f.speed ≤ s.part.figures.stillSpeed := by
        unfold Part.isSlow; rw [Part.acts_figures]
      refine ⟨fun hns hns' => ?_, fun hsl h0 => ?_, fun slot hend he hc hq ho hst hre => ?_⟩
      · have := counts 0 (by
          rw [Part.watchStop_fast hns (fun hsl => hns' (slow_iff.mp hsl)), hx0])
        rw [← hr0] at this; exact this
      · have := counts 1 (by
          rw [Part.watchStop_slow (slow_iff.mpr hsl) (by rw [hx0, ← hr0]; exact h0), hx0])
        rw [← hr0] at this; exact this
      · rw [Part.watchStop_ends (hend.imp_right fun ⟨hsl, h0⟩ => ⟨slow_iff.mpr hsl, by rw [hx0, ← hr0]; exact h0⟩)] at hnext
        have hm : measuredNat ((s.part.acts x r0 (0 ||| 0) ([] ++ [])).arm x).test
            ((s.part.acts x r0 (0 ||| 0) ([] ++ [])).figures.arm x) f =
            measuredNat (s.part.arm x).test (s.part.figures.arm x) f := by
          rw [hx0, Part.acts_figures, ← hr0]; rfl
        generalize ht : measuredNat (s.part.arm x).test (s.part.figures.arm x) f = t at hm
        obtain ⟨k, hk⟩ := Part.endTest_eq _ x f hm (by rw [hx0, ← hr0]; exact hq) (by rw [Part.acts_engine]; exact he)
          (by rw [hx0, ← hr0]; exact ho) (by rw [hx0, ← hr0]; exact hst) (by rw [hx0, ← hr0]; exact hre)
        rw [hk, hx0, Part.acts_acts, show ∀ w : Word, (0 ||| 0 : Word) ||| w = w from fun w => by
          rw [show (0 ||| 0 : Word) = 0 from rfl]; exact BitVec.zero_or, List.append_nil, List.nil_append,
          Part.acts_now] at hnext
        generalize hd : ((r0.recorded t).due true).replied true = d at hnext
        generalize hw : ({ r0 with
          chain := { r0.chain with answered := true }, test := (r0.recorded t).test } : ArmPart) = w
        have hdw : d.view = w.view := by rw [← hd, ← hw, ArmPart.replied_true]; rfl
        have hdc : d.chain.publishDue = true ∧ d.chain.blockQueued = (s.part.arm x).chain.blockQueued := by
          rw [← hd, ← hr0]; exact ⟨Bool.or_true _, rfl⟩
        have hdef := measuredNat_deficient (s.part.arm x).test (s.part.figures.arm x) f
        rw [ht] at hdef
        by_cases hv : t.verdict = .testDeficient
        · rw [if_pos hv] at hnext
          obtain ⟨v, hex, hpend, hops, hview⟩ := testEnds (f := fun q => q.nextFigures x) h hc he hnext
            (by rw [d.stopped_chain, hdc.1]; exact Bool.true_or k) (by rw [d.stopped_chain]; exact hdc.2)
            ((ArmPart.due_view ..).trans (ArmPart.stopped_view _ hdw (by rw [← hw]; rfl)))
          subst hw hr0 ht
          exact ⟨v, hex, hpend, hops, fun hn => absurd (hdef.mp hv) hn, fun hn => absurd (hdef.mp hv) hn, fun _ => hview⟩
        · rw [if_neg hv] at hnext
          obtain ⟨v, hex, hpend, hops, hview⟩ := testEnds (f := fun q => q.nextFigures x) h hc he hnext
            (by rw [← Bool.true_or k, ← hdc.1, ← (d.without_rest .test).1]; rfl)
            (by rw [← hdc.2, ← (d.without_rest .test).1]; rfl)
            ((ArmPart.due_view ..).trans (ArmPart.without_view hdw))
          have hwr : w.guard = (s.part.arm x).guard := by rw [← hw, ← hr0]; rfl
          have last := Reasons.put_test_eq (s.part.arm x).guard.reasons hre
          refine ⟨v, hex, hpend, ?_, fun _ honly => ?_, fun _ hmore => ?_, fun hdfc => absurd (hdef.mpr ?_) hv⟩
          · subst ht; exact hops
          · rw [ArmPart.without, hwr, if_pos ⟨hst, last.mpr honly⟩] at hview
            subst hw hr0 ht; exact hview
          · rw [ArmPart.without, hwr, if_neg fun hl => hmore (last.mp hl.2)] at hview
            subst hw hr0 ht; exact hview
          · subst ht; exact hdfc
  · rintro ⟨hg, hb, hd⟩
    rcases hno with hno | hno
    · rw [hno] at hb; cases hb
    · rw [hno] at hd; cases hd
  · have hg : s.part.guarding = true := by unfold Part.guarding; rw [he]; rfl
    obtain ⟨k, hk⟩ := s.part.overrunTest_eq x hq he ho hs hr
    have hf : s.part.testWindowExpires x = s.part.overrunTest x := if_pos ⟨hg, ht, hd⟩
    generalize hdd : (((s.part.arm x).recorded (unmeasured .testOverrun .none (s.part.arm x).test.v0 500)).due
      true).replied true = d at hk
    generalize hw : ({ s.part.arm x with
      chain := { (s.part.arm x).chain with answered := true }
      test := ((s.part.arm x).recorded (unmeasured .testOverrun .none (s.part.arm x).test.v0 500)).test } : ArmPart) = w
    have hdw : d.view = w.view := by rw [← hdd, ← hw, ArmPart.replied_true]; rfl
    have hdc : d.chain.publishDue = true ∧ d.chain.blockQueued = (s.part.arm x).chain.blockQueued := by
      rw [← hdd]; exact ⟨Bool.or_true _, rfl⟩
    obtain ⟨v, hex, hpend, hops, hview⟩ := testEnds (f := fun q => q.testWindowExpires x) h hc he (hf.trans hk)
      (by rw [d.stopped_chain, hdc.1]; exact Bool.true_or k) (by rw [d.stopped_chain]; exact hdc.2)
      ((ArmPart.due_view ..).trans (ArmPart.stopped_view _ hdw (by rw [← hw]; rfl)))
    subst hw
    exact ⟨v, hex, hpend, hops, hview⟩

end Sys2Proof.Machine

/-! PROOFS. CELLSTOP (O51). -/

namespace Sys2Proof.Machine

/-! ## What an escalation makes of an arm, whatever its state (R98, R104) -/

section
variable (p : Part) (x : Arm) (c : StopCause)

/-- An arm that an escalation has met. -/
def Part.struckArm : ArmPart :=
  match (p.arm x).guard.state with
  | .running | .held => (((p.arm x).escalated c).due p.marksKept).replied (p.abortReplies x)
  | .admitting =>
    (((p.arm x).admissionEnded ((p.arm x).guard.prior.getD .offline) (some c)).due p.marksKept).replied
      (p.admissionAnswered x)
  | .offline | .stopped => p.arm x

/-- The cause flags of an escalation. -/
def Part.struckFlags : Word :=
  match (p.arm x).guard.state with
  | .running | .held => p.stopFlags x
  | .admitting => causeBit (armCause x)
  | .offline | .stopped => 0

/-- The answers of an escalation. -/
def Part.struckOps : List MemOp :=
  match (p.arm x).guard.state with
  | .running | .held => p.abortOps x c
  | .admitting => p.failOps x (.escalation c)
  | .offline | .stopped => []

theorem Part.escalate_eq_acts : p.escalate x c = p.acts x (p.struckArm x c) (p.struckFlags x) (p.struckOps x c) := by
  unfold Part.escalate Part.struckArm Part.struckFlags Part.struckOps
  cases (p.arm x).guard.state with
  | running => exact p.enterStopped_eq x c
  | held => exact p.enterStopped_eq x c
  | admitting => exact p.failAdmission_eq x (.escalation c)
  | offline => exact (p.acts_self x).symm
  | stopped => exact (p.acts_self x).symm

/-- An escalation of x reads of the part x's share, the engine's state and the counter. -/
theorem Part.struck_congr {p q : Part} {x : Arm} (ha : q.arm x = p.arm x) (he : q.engine = p.engine) (hn : q.now = p.now)
    (c : StopCause) : q.struckArm x c = p.struckArm x c ∧ q.struckFlags x = p.struckFlags x ∧
      q.struckOps x c = p.struckOps x c := by
  have hk : q.marksKept = p.marksKept := by unfold Part.marksKept; rw [he]
  have hans : q.answerable x = p.answerable x := by unfold Part.answerable; rw [ha, he]
  have hops : q.resultOps x = p.resultOps x := by unfold Part.resultOps; rw [hans, hn]
  refine ⟨?_, ?_, ?_⟩
  · unfold Part.struckArm Part.abortReplies Part.admissionAnswered Part.testAnswered
    rw [ha, hk, hans]
  · unfold Part.struckFlags Part.stopFlags
    rw [ha]
  · unfold Part.struckOps Part.abortOps Part.failOps Part.testOps
    rw [ha, hops]

/-- CELLSTOP as the guards take it: an escalation of each arm. -/
theorem Part.cellstopEscalates_both (first : Arm) (hg : p.guarding = true) :
    p.bothArms first Part.cellstopEscalates =
      (p.acts first (p.struckArm first .cellStop) (p.struckFlags first) (p.struckOps first .cellStop)).acts first.other
        (p.struckArm first.other .cellStop) (p.struckFlags first.other) (p.struckOps first.other .cellStop) := by
  unfold Part.bothArms
  rw [show p.cellstopEscalates first = p.escalate first .cellStop from if_pos hg, p.escalate_eq_acts first]
  generalize hq : p.acts first _ _ _ = q
  have hqg : q.guarding = true := by rw [← hq, Part.acts_guarding, hg]
  obtain ⟨e1, e2, e3⟩ := Part.struck_congr (p := p) (q := q) (x := first.other) (by rw [← hq, Part.acts_arm_other])
    (by rw [← hq, Part.acts_engine]) (by rw [← hq, Part.acts_now]) .cellStop
  rw [show q.cellstopEscalates first.other = q.escalate first.other .cellStop from if_pos hqg, q.escalate_eq_acts,
    e1, e2, e3]

/-- Outside SERVING and FAULTED the guards do not act on CELLSTOP. -/
theorem Part.cellstopEscalates_none (first : Arm) (hg : p.guarding = false) :
    p.bothArms first Part.cellstopEscalates = p := by
  have hnone : ∀ x, p.cellstopEscalates x = p := fun x => if_neg (by rw [hg]; simp)
  unfold Part.bothArms
  rw [hnone first, hnone first.other]

/-! ## An escalated arm by the state of its guard -/

variable {p x c}

theorem Part.struck_inService (hs : (p.arm x).guard.state.inService = true) :
    p.struckArm x c = (((p.arm x).escalated c).due p.marksKept).replied (p.abortReplies x) ∧
      p.struckFlags x = p.stopFlags x ∧ p.struckOps x c = p.abortOps x c := by
  unfold Part.struckArm Part.struckFlags Part.struckOps
  cases hst : (p.arm x).guard.state with
  | running => exact ⟨rfl, rfl, rfl⟩
  | held => exact ⟨rfl, rfl, rfl⟩
  | offline => rw [hst] at hs; cases hs
  | stopped => rw [hst] at hs; cases hs
  | admitting => rw [hst] at hs; cases hs

theorem Part.struck_admitting (hs : (p.arm x).guard.state = .admitting) {prior : GuardState}
    (hp : (p.arm x).guard.prior = some prior) :
    p.struckArm x c = (((p.arm x).admissionEnded prior (some c)).due p.marksKept).replied (p.admissionAnswered x) ∧
      p.struckFlags x = causeBit (armCause x) ∧ p.struckOps x c = p.failOps x (.escalation c) := by
  unfold Part.struckArm Part.struckFlags Part.struckOps
  rw [hs, hp]
  exact ⟨rfl, rfl, rfl⟩

theorem Part.struck_resting (hs : (p.arm x).guard.state = .offline ∨ (p.arm x).guard.state = .stopped) :
    p.struckArm x c = p.arm x ∧ p.struckOps x c = [] := by
  unfold Part.struckArm Part.struckOps
  rcases hs with hs | hs <;> rw [hs] <;> exact ⟨rfl, rfl⟩

theorem Part.abortReplies_idle (ht : (p.arm x).test.phase = .idle) : p.abortReplies x = false := by
  unfold Part.abortReplies
  rw [ht]
  rfl

/-- The flags of an escalation hold ARM_x wherever the guard moves. -/
theorem Part.struckFlags_arm (hs : (p.arm x).guard.state.inService = true ∨ (p.arm x).guard.state = .admitting) :
    ∃ w, p.struckFlags x = w ||| causeBit (armCause x) := by
  rcases hs with hs | hs
  · obtain ⟨-, e, -⟩ := Part.struck_inService (c := .cellStop) hs
    exact ⟨_, e.trans (BitVec.or_comm ..)⟩
  · refine ⟨0, ?_⟩
    unfold Part.struckFlags
    rw [hs]
    exact BitVec.zero_or.symm

end

/-! ## CELLSTOP while SERVING: the answers and the status blocks that follow -/

/-- The answers that CELLSTOP gives x's open slot: to its admission, or to its test. -/
def Part.cellstopAnswers (p : Part) (x : Arm) : List MemOp :=
  match (p.arm x).chain.openSlot with
  | none => []
  | some slot =>
    if (p.arm x).guard.state = .admitting then
      answerOps x slot p.now .admitFailed
        (.readmit .offline noReasons 0 ((p.arm x).guard.prior.getD .offline) 6 (p.arm x).guard.count false)
    else if (p.arm x).test.phase = .braking then
      answerOps x slot p.now .testAborted (.test ((p.arm x).test.aborted .cellStop))
    else []

section
variable {p : Part} {x : Arm} (he : p.engine = .serving)
include he

theorem Part.struckOps_fails {slot : Nat} (hs : (p.arm x).guard.state = .admitting)
    (hq : (p.arm x).guard.admissionSlot = some slot) (ho : (p.arm x).chain.openSlot = some slot) :
    p.struckOps x .cellStop = p.cellstopAnswers x := by
  have ha : p.answerable x slot = true := (p.answerable_iff x slot).mpr ⟨he, ho⟩
  unfold Part.struckOps Part.cellstopAnswers Part.failOps Part.resultOps
  rw [hs, hq, ho]
  dsimp only
  rw [ha, if_pos rfl, if_pos rfl]
  rfl

theorem Part.struckOps_aborts {slot : Nat} (hs : (p.arm x).guard.state.inService = true)
    (ht : (p.arm x).test.phase = .braking) (hq : (p.arm x).test.slot = some slot)
    (ho : (p.arm x).chain.openSlot = some slot) : p.struckOps x .cellStop = p.cellstopAnswers x := by
  have ha : p.answerable x slot = true := (p.answerable_iff x slot).mpr ⟨he, ho⟩
  rw [(Part.struck_inService hs).2.2]
  unfold Part.cellstopAnswers Part.abortOps Part.testOps Part.resultOps
  rw [hq, ho, if_pos ht]
  dsimp only
  rw [ha, if_pos rfl, if_neg (fun hadm => by rw [hadm] at hs; cases hs), if_pos ht]
  rfl

omit he in
/-- Without an admission and without a test nothing is answered. -/
theorem Part.struckOps_none (hs : (p.arm x).guard.state ≠ .admitting) (ht : (p.arm x).test.phase ≠ .braking) :
    p.struckOps x .cellStop = p.cellstopAnswers x := by
  have hno : p.struckOps x .cellStop = [] := by
    cases hst : (p.arm x).guard.state with
    | admitting => exact absurd hst hs
    | offline => exact (Part.struck_resting (.inl hst)).2
    | stopped => exact (Part.struck_resting (.inr hst)).2
    | running => exact (Part.struck_inService (by rw [hst]; rfl)).2.2.trans (if_neg ht)
    | held => exact (Part.struck_inService (by rw [hst]; rfl)).2.2.trans (if_neg ht)
  rw [hno]
  unfold Part.cellstopAnswers
  cases (p.arm x).chain.openSlot with
  | none => rfl
  | some slot => exact ((if_neg hs).trans (if_neg ht)).symm

/-- The status block of an arm whose guard has moved follows. -/
theorem Part.struckArm_due (hs : (p.arm x).guard.state.inService = true ∨
      ∃ prior, (p.arm x).guard.state = .admitting ∧ (p.arm x).guard.prior = some prior) :
    (p.struckArm x .cellStop).chain.publishDue = true ∧
      (p.struckArm x .cellStop).chain.blockQueued = (p.arm x).chain.blockQueued := by
  have hk : p.marksKept = true := by simp [Part.marksKept, he]
  rcases hs with hs | ⟨prior, hs, hp⟩
  · rw [(Part.struck_inService hs).1, hk]
    exact ⟨Bool.or_true _, (congrArg Chain.blockQueued (ArmPart.escalated_chain ..) :)⟩
  · rw [(Part.struck_admitting hs hp).1, hk]
    exact ⟨Bool.or_true _, rfl⟩

/-- Every admission and every test that CELLSTOP ends is answered. -/
theorem Part.struckOps_answers
    (hadm : (p.arm x).guard.state = .admitting →
      ((p.arm x).guard.prior = some .offline ∨ (p.arm x).guard.prior = some .stopped) ∧
      (p.arm x).guard.admissionSlot.isSome = true ∧ (p.arm x).guard.admissionSlot = (p.arm x).chain.openSlot ∧
      (p.arm x).test.phase = .idle)
    (hbrk : (p.arm x).test.phase = .braking → (p.arm x).guard.state.inService = true ∧
      (p.arm x).test.slot.isSome = true ∧ (p.arm x).test.slot = (p.arm x).chain.openSlot) :
    p.struckOps x .cellStop = p.cellstopAnswers x := by
  by_cases hs : (p.arm x).guard.state = .admitting
  · obtain ⟨-, hsome, hq, -⟩ := hadm hs
    obtain ⟨slot, hslot⟩ := Option.isSome_iff_exists.mp hsome
    exact Part.struckOps_fails he hs hslot (hq ▸ hslot)
  · by_cases ht : (p.arm x).test.phase = .braking
    · obtain ⟨hin, hsome, hq⟩ := hbrk ht
      obtain ⟨slot, hslot⟩ := Option.isSome_iff_exists.mp hsome
      exact Part.struckOps_aborts he hin ht hslot (hq ▸ hslot)
    · exact Part.struckOps_none hs ht

/-- The status block of every arm that was neither OFFLINE nor STOPPED is due after CELLSTOP. -/
theorem Part.struckArm_blocks (hset : p.settledLaw) (hadm : (p.arm x).guard.state = .admitting →
      (p.arm x).guard.prior = some .offline ∨ (p.arm x).guard.prior = some .stopped) :
    (if p.engine = .serving ∧ (p.struckArm x .cellStop).chain.publishDue = true ∧
      (p.struckArm x .cellStop).chain.blockQueued = false then [MemOp.statusWrite x] else []) =
    if (p.arm x).guard.state = .offline ∨ (p.arm x).guard.state = .stopped then [] else p.statusOps x := by
  have moved : ∀ hs, _ := fun hs => by
    obtain ⟨hdue, hq⟩ := Part.struckArm_due (x := x) he hs
    exact Part.statusOps_due he hdue hq
  by_cases hs : (p.arm x).guard.state = .offline ∨ (p.arm x).guard.state = .stopped
  · rw [(Part.struck_resting hs).1]
    exact (hset.dueOps x).trans (if_pos hs).symm
  · refine Eq.trans (moved ?_) (if_neg hs).symm
    cases hst : (p.arm x).guard.state with
    | offline => exact absurd (.inl hst) hs
    | stopped => exact absurd (.inr hst) hs
    | running => exact .inl rfl
    | held => exact .inl rfl
    | admitting => exact (hadm hst).elim (fun hp => .inr ⟨_, rfl, hp⟩) fun hp => .inr ⟨_, rfl, hp⟩

end

/-! ## The two escalations of one CELLSTOP -/

/-- The part whose guards have come to see an asserted CELLSTOP. -/
def Part.stopSeen (p : Part) : Part := { p with cellstop := true, cellstopPin := true, cellstopFilter := none }

/-- The part with both arms met by a CELLSTOP that the guards have come to see (R98, R101). -/
def Part.struck (p : Part) (first : Arm) : Part :=
  p.stopSeen.bothArms first Part.cellstopEscalates

section
variable {p : Part} (first : Arm) (hg : p.guarding = true)
include hg

theorem Part.struck_eq : p.struck first =
    (p.stopSeen.acts first (p.struckArm first .cellStop) (p.struckFlags first) (p.struckOps first .cellStop)).acts
      first.other (p.struckArm first.other .cellStop) (p.struckFlags first.other) (p.struckOps first.other .cellStop) := by
  have same : ∀ x, p.stopSeen.arm x = p.arm x := fun x => by cases x <;> rfl
  obtain ⟨e1, e2, e3⟩ := Part.struck_congr (q := p.stopSeen) (same first) rfl rfl .cellStop
  obtain ⟨e4, e5, e6⟩ := Part.struck_congr (q := p.stopSeen) (same first.other) rfl rfl .cellStop
  unfold Part.struck
  rw [p.stopSeen.cellstopEscalates_both first hg, e1, e2, e3, e4, e5, e6]

theorem Part.struck_arm (x : Arm) : (p.struck first).arm x = p.struckArm x .cellStop := by
  rw [Part.struck_eq first hg]
  cases first <;> cases x <;> rfl

theorem Part.struck_unit : (p.struck first).unit =
    p.stopSeen.unit := by
  rw [Part.struck_eq first hg, Part.acts_unit, Part.acts_unit]

theorem Part.struck_ops : (p.struck first).ops = p.ops ++ p.struckOps first .cellStop ++ p.struckOps first.other .cellStop := by
  rw [Part.struck_eq first hg]
  cases first <;> simp [Part.ops, Part.acts, Part.withArm, Part.updArm, Part.stopSeen]

theorem Part.struck_inProgress : (p.struck first).inProgress = p.inProgress := by
  rw [Part.struck_eq first hg, Part.acts_inProgress, Part.acts_inProgress]
  rfl

/-- A flag that one of the escalations sets is set. -/
theorem Part.struck_cause {x : Arm} {c : Cause} {w : Word} (h : p.struckFlags x = w ||| causeBit c) :
    (p.struck first).causeSet c = true := by
  have hcause : (p.struck first).cause = p.cause ||| p.struckFlags first ||| p.struckFlags first.other := by
    rw [Part.struck_eq first hg]
    cases first <;> rfl
  by_cases hx : x = first.other
  · subst hx
    exact Part.causeSet_of_or _ _ (p.cause ||| p.struckFlags first ||| w) (by rw [hcause, h, ← BitVec.or_assoc])
  · obtain rfl : x = first := Classical.byContradiction fun hne => hx (Arm.eq_other_of_ne hne)
    refine Part.causeSet_of_or _ _ (p.cause ||| p.struckFlags x.other ||| w) ?_
    rw [hcause, BitVec.or_assoc, BitVec.or_comm (p.struckFlags x), ← BitVec.or_assoc, h, ← BitVec.or_assoc]

end

/-- Out of reset the two CELLSTOP commands are steps (R176). -/
theorem exec_cellstop {s : State} (level : Bool) (first : Arm) (h : s.part.inReset = false) :
    exec (if level = true then .cellstopAsserted first else .cellstopReleased) s =
      onPart s fun p => p.step fun q => if level = true then q.assertCellstop first else q.releaseCellstop := by
  have hn : ¬ s.part.inReset = true := by rw [h]; simp
  cases level
  · exact congrArg (fun q : Part => Host.Outcome.next { s with part := q }) (if_neg hn)
  · exact congrArg (fun q : Part => Host.Outcome.next { s with part := q }) (if_neg hn)

/-- A CELLSTOP that has lasted strikes both arms, and the status blocks that have come due follow. -/
theorem cellstopAsserted_strikes {s : State} (first : Arm) (h : s.part.steady) (hc : s.part.carries)
    (hcs : s.part.cellstop = false) (hp : s.part.cellstopPin = true)
    (hl : timerDue s.part.now s.part.cellstopFilter = true) (hg : s.part.guarding = true) :
    ∃ t, exec (.cellstopAsserted first) s = .next t ∧ t.pending = s.pending ∧ t.part.linesDriven ∧
      t.part.view = (s.part.struck first).view ∧
      t.part.ops = (s.part.struck first).ops ++ (s.part.struck first).dueOps .a ++ (s.part.struck first).dueOps .b := by
  have hassert : s.part.assertCellstop first = s.part.struck first := by
    have hset : s.part.setCellstopPin true = s.part := by
      unfold Part.setCellstopPin
      rw [if_neg (by rw [hcs]; simp), if_pos hp, ← hp]
    unfold Part.assertCellstop
    rw [hset]
    dsimp only
    rw [if_pos (by unfold Part.cellstopLasted; rw [hcs, hp, hl]; rfl)]
    unfold Part.seeCellstop Part.struck Part.stopSeen
    rw [hp]
  have hu := Part.struck_unit first hg
  have hi := Part.struck_inProgress first hg
  generalize s.part.struck first = d at *
  have he : d.engine = s.part.engine := (congrArg (fun u : Part => u.engine) hu :)
  have hcd : d.carries := by
    unfold Part.carries
    rw [hi, show d.busMaster = s.part.busMaster from (congrArg (fun u : Part => u.busMaster) hu :),
      show d.pcieUp = s.part.pcieUp from (congrArg (fun u : Part => u.pcieUp) hu :)]
    exact hc
  obtain ⟨hv, ho⟩ := Part.settle_carries s.part d hcd fun hcl => by
    unfold Part.guarding at hg
    rw [← he, hcl] at hg
    cases hg
  rw [← hassert] at hv ho ⊢
  exact ⟨_, (exec_cellstop true first h.1).trans (onPart_step s (fun q => q.assertCellstop first) h.1), rfl, Part.settle_linesDriven _ _, hv, ho⟩

/-- A timer that has just been started has not expired. -/
theorem timerDue_later (now : Word) (us : Nat) (h0 : 0 < us) (hu : us ≤ 2 ^ 31) :
    timerDue now (some (now + BitVec.ofNat 32 us)) = false := by
  refine decide_eq_false ?_
  have hnow := now.isLt
  rw [BitVec.toNat_sub, BitVec.toNat_add, BitVec.toNat_ofNat]
  omega

/-- A level of CELLSTOP that the guards do not act on is a change of the input and its filter alone. -/
theorem onPart_cellstop {s : State} {f : Part → Part} {level seen : Bool} {filter : Timer} (h : s.part.steady)
    (hf : f s.part = { s.part with cellstopPin := level, cellstop := seen, cellstopFilter := filter }) :
    onPart s (fun p => p.step f) =
      .next { s with part := { s.part with cellstopPin := level, cellstop := seen, cellstopFilter := filter } } :=
  onPart_quiet s h hf h.2.1 h.2.2 rfl id

section
variable {p : Part} (level : Bool)

theorem Part.setCellstopPin_seen (h : p.cellstop = level) : p.setCellstopPin level =
    { p with cellstopPin := level, cellstop := p.cellstop, cellstopFilter := none } := by
  unfold Part.setCellstopPin
  rw [if_pos h]

theorem Part.setCellstopPin_new (h : p.cellstop ≠ level) (hp : p.cellstopPin ≠ level) : p.setCellstopPin level =
    { p with cellstopPin := level, cellstop := p.cellstop, cellstopFilter := some (p.now + 10) } := by
  unfold Part.setCellstopPin
  rw [if_neg h, if_neg hp]
  rfl

theorem Part.setCellstopPin_waits (h : p.cellstop ≠ level) (hp : p.cellstopPin = level) : p.setCellstopPin level = p := by
  unfold Part.setCellstopPin
  rw [if_neg h, if_pos hp, ← hp]

/-- A level that the guards see already, or that has not lasted, stays in the filter. -/
theorem Part.cellstop_waits (first : Arm) (h : (p.setCellstopPin level).cellstopLasted = false) :
    (if level = true then p.assertCellstop first else p.releaseCellstop) = p.setCellstopPin level := by
  have hn : ¬ (p.setCellstopPin level).cellstopLasted = true := by rw [h]; simp
  cases level
  · exact if_neg hn
  · exact if_neg hn

theorem Part.cellstopLasted_iff : p.cellstopLasted = true ↔
    p.cellstop ≠ p.cellstopPin ∧ timerDue p.now p.cellstopFilter = true := by
  simp [Part.cellstopLasted]

end

/-- Settles O51. -/
theorem cellstopStopsBothArms : Obligations.CellstopStopsBothArms := by
  unfold Obligations.CellstopStopsBothArms
  intro s first h
  dsimp only
  have input : ∀ (level : Bool) (q : Part), (if level = true then s.part.assertCellstop first else s.part.releaseCellstop) =
      q → (∃ l c f, q = { s.part with cellstopPin := l, cellstop := c, cellstopFilter := f }) →
      exec (if level = true then .cellstopAsserted first else .cellstopReleased) s = .next { s with part := q } := by
    rintro level q hq ⟨l, c, f, rfl⟩
    exact (exec_cellstop level first h.1).trans (onPart_cellstop
      (f := fun q => if level = true then q.assertCellstop first else q.releaseCellstop) h hq)
  refine ⟨fun level => ⟨fun hc => ?_, fun hc hp => ?_, fun hc hp hl => ?_⟩, fun hc hp hl => ?_, fun hc hp hl hg => ?_,
    fun hc hp hl hg hcar hta htb hprior => ?_, fun hc hp hl he hcar hadm hbrk => ?_⟩
  · have e := Part.setCellstopPin_seen level hc
    refine input level _ ((Part.cellstop_waits level first ?_).trans e) ⟨_, _, _, rfl⟩
    rw [e]; unfold Part.cellstopLasted; rw [hc]; simp
  · have e := Part.setCellstopPin_new level hc hp
    refine input level _ ((Part.cellstop_waits level first ?_).trans e) ⟨_, _, _, rfl⟩
    rw [e]; unfold Part.cellstopLasted
    rw [Bool.and_eq_false_iff]
    exact .inr (timerDue_later _ 10 (by decide) (by decide))
  · have e := Part.setCellstopPin_waits level hc hp
    refine input level s.part ((Part.cellstop_waits level first ?_).trans e) ⟨_, _, _, rfl⟩
    rw [e]; unfold Part.cellstopLasted; rw [hl]; simp
  · refine input false _ ?_ ⟨_, _, _, rfl⟩
    have e := Part.setCellstopPin_waits false (by rw [hc]; simp) hp
    have hlast := Part.cellstopLasted_iff.mpr ⟨by rw [hc, hp]; simp, hl⟩
    show s.part.releaseCellstop = _
    unfold Part.releaseCellstop
    dsimp only
    rw [e, if_pos hlast, Part.seeCellstop, hp]
  · refine input true _ ?_ ⟨_, _, _, rfl⟩
    have e := Part.setCellstopPin_waits true (by rw [hc]; simp) hp
    have hlast := Part.cellstopLasted_iff.mpr ⟨by rw [hc, hp]; simp, hl⟩
    show s.part.assertCellstop first = _
    unfold Part.assertCellstop
    dsimp only
    rw [e, if_pos hlast, Part.seeCellstop, hp]
    exact Part.cellstopEscalates_none _ first hg
  · have harm := Part.struck_arm first hg
    have hunit := Part.struck_unit first hg
    have hcause : ∀ x c w, s.part.struckFlags x = w ||| causeBit c → (s.part.struck first).causeSet c = true :=
      fun x c w hw => Part.struck_cause first hg hw
    obtain ⟨t, hex, hpend, hlines, hv, -⟩ := cellstopAsserted_strikes first h hcar hc hp hl hg
    generalize s.part.struck first = d at *
    have hu := (Part.unit_of_view hv).trans hunit
    have hset : ∀ c, t.part.causeSet c = d.causeSet c := fun c => Part.causeSet_of_view hv c
    have hva : ∀ x, (t.part.arm x).view = (s.part.struckArm x .cellStop).view := fun x => by
      rw [Part.arm_view_of_view hv x, harm]
    have harmflag : ∀ x, (s.part.arm x).guard.state.inService = true ∨ (s.part.arm x).guard.state = .admitting →
        t.part.causeSet (armCause x) = true := fun x hx => by
      obtain ⟨w, hw⟩ := Part.struckFlags_arm hx
      exact (hset _).trans (hcause x _ w hw)
    have hidle : ∀ x, (s.part.arm x).test.phase = .idle := fun x => by cases x; exact hta; exact htb
    refine ⟨t, hex, hpend, (congrArg (fun q : Part => q.cellstop) hu :), (congrArg (fun q : Part => q.cellstopPin) hu :),
      (congrArg (fun q : Part => q.cellstopFilter) hu :), (congrArg (fun q : Part => q.table) hu :),
      (congrArg (fun q : Part => q.hostMem) hu :), (congrArg (fun q : Part => q.engine) hu :), fun x =>
      ⟨fun hs => ⟨(hva x).trans ?_, harmflag x (.inl hs)⟩, fun prior hs hpr => ⟨?_, harmflag x (.inr hs)⟩,
        fun hs => (hva x).trans ?_⟩⟩
    · rw [(Part.struck_inService hs).1, Part.abortReplies_idle (hidle x), ArmPart.replied_false, ArmPart.due_view]
    · have hg' := hlines.guard hv x
      have hline : d.lineReleased x = false := by
        unfold Part.lineReleased
        rw [harm, (Part.struck_admitting hs hpr).1]
        rcases hprior x prior hs hpr with rfl | rfl <;> exact Bool.and_false _
      rw [hg', hline, harm, (Part.struck_admitting hs hpr).1]
      rfl
    · rw [(Part.struck_resting hs).1]
  · have hg : s.part.guarding = true := by unfold Part.guarding; rw [he]; rfl
    have harm := Part.struck_arm first hg
    have hops := Part.struck_ops first hg
    have hunit := Part.struck_unit first hg
    have hcause : ∀ x c w, s.part.struckFlags x = w ||| causeBit c → (s.part.struck first).causeSet c = true :=
      fun x c w hw => Part.struck_cause first hg hw
    obtain ⟨t, hex, hpend, -, hv, ho⟩ := cellstopAsserted_strikes first h hcar hc hp hl hg
    generalize s.part.struck first = d at *
    have hset : ∀ c, t.part.causeSet c = d.causeSet c := fun c => Part.causeSet_of_view hv c
    have hva : ∀ x, (t.part.arm x).view = (s.part.struckArm x .cellStop).view := fun x => by
      rw [Part.arm_view_of_view hv x, harm]
    have harmflag : ∀ x, (s.part.arm x).guard.state.inService = true ∨ (s.part.arm x).guard.state = .admitting →
        t.part.causeSet (armCause x) = true := fun x hx => by
      obtain ⟨w, hw⟩ := Part.struckFlags_arm hx
      exact (hset _).trans (hcause x _ w hw)
    have hans := fun x => Part.struckOps_answers he (hadm x) (hbrk x)
    have hblocks : ∀ x, d.dueOps x = if (s.part.arm x).guard.state = .offline ∨ (s.part.arm x).guard.state = .stopped
        then [] else s.part.statusOps x := fun x => by
      rw [← Part.struckArm_blocks he h.2.1 fun hs => (hadm x hs).1, Part.dueOps, harm,
        show d.engine = s.part.engine from (congrArg (fun q : Part => q.engine) hunit :)]
    refine ⟨t, hex, hpend, ?_, fun x => ⟨fun hs ht => (hva x).trans ?_, fun ht => ⟨(hva x).trans ?_, ?_⟩,
      fun prior hs hpr => (hva x).trans ?_, fun hs => (hva x).trans ?_, harmflag x⟩⟩
    · rw [ho, hops, hans first, hans first.other, hblocks .a, hblocks .b]
      rfl
    · rw [(Part.struck_inService hs).1, Part.abortReplies_idle ht, ArmPart.replied_false, ArmPart.due_view]
    · obtain ⟨hin, hsome, hq⟩ := hbrk x ht
      obtain ⟨slot, hslot⟩ := Option.isSome_iff_exists.mp hsome
      have hrep : s.part.abortReplies x = true := by
        unfold Part.abortReplies Part.testAnswered
        rw [ht, hslot]
        exact (s.part.answerable_iff x slot).mpr ⟨he, hq ▸ hslot⟩
      rw [(Part.struck_inService hin).1, hrep, ArmPart.replied_true]
      exact (congrArg ArmPart.view (ArmPart.escalated_answering (s.part.arm x) .cellStop)).symm
    · obtain ⟨hin, -⟩ := hbrk x ht
      rw [hset]
      refine hcause x _ (causeBit (armCause x)) ((Part.struck_inService (c := .cellStop) hin).2.1.trans ?_)
      exact congrArg (causeBit (armCause x) ||| ·) (if_pos ht)
    · obtain ⟨-, hsome, hq, -⟩ := hadm x hs
      obtain ⟨slot, hslot⟩ := Option.isSome_iff_exists.mp hsome
      have hrep : s.part.admissionAnswered x = true := by
        unfold Part.admissionAnswered
        rw [hslot]
        exact (s.part.answerable_iff x slot).mpr ⟨he, hq ▸ hslot⟩
      rw [(Part.struck_admitting hs hpr).1, hrep, ArmPart.replied_true]
      rfl
    · rw [(Part.struck_resting hs).1]

end Sys2Proof.Machine

/-! PROOFS. Admission success (O49). -/

namespace Sys2Proof.Machine

/-! ## Effects on both arms -/

/-- Effects on x, with its cause flags and operations, and on the other arm, which has become `z`. -/
def Part.pair (p : Part) (x : Arm) (r z : ArmPart) (flags : Word) (ops : List MemOp) : Part :=
  (p.acts x r flags ops).acts x.other z 0 []

section
variable (p : Part) (x : Arm) (r z : ArmPart) (flags : Word) (ops : List MemOp)

theorem Part.pair_arm : (p.pair x r z flags ops).arm x = r := by
  rw [Part.pair, Part.acts_other_arm, Part.acts_arm]

theorem Part.pair_other : (p.pair x r z flags ops).arm x.other = z := by rw [Part.pair, Part.acts_arm]

theorem Part.pair_acts (r' : ArmPart) (flags' : Word) (ops' : List MemOp) :
    (p.pair x r z flags ops).acts x r' flags' ops' = p.pair x r' z (flags ||| flags') (ops ++ ops') := by
  have h0 : flags ||| (0 : Word) ||| flags' = flags ||| flags' := by
    rw [show flags ||| (0 : Word) = flags from BitVec.or_zero]
  rw [Part.pair, Part.acts_swap, h0, List.append_nil]
  rfl

theorem Part.acts_then_other (ops' : List MemOp) :
    (p.acts x r flags ops).acts x.other z 0 ops' = p.pair x r z flags (ops ++ ops') := by
  unfold Part.pair
  cases x <;> simp [Part.acts, Part.withArm, Part.updArm, Arm.other]

theorem Part.pair_engine : (p.pair x r z flags ops).engine = p.engine := by rw [Part.pair, Part.acts_engine, Part.acts_engine]
theorem Part.pair_now : (p.pair x r z flags ops).now = p.now := by rw [Part.pair, Part.acts_now, Part.acts_now]
theorem Part.pair_table : (p.pair x r z flags ops).table = p.table := by rw [Part.pair, Part.acts_table, Part.acts_table]
theorem Part.pair_unit : (p.pair x r z flags ops).unit = p.unit := by rw [Part.pair, Part.acts_unit, Part.acts_unit]
theorem Part.pair_figures : (p.pair x r z flags ops).figures = p.figures := by
  rw [Part.pair, Part.acts_figures, Part.acts_figures]

end

/-- A command that moves the table and both arms: the state it answers. -/
theorem onPart_pair {s : State} {f : Part → Part} {x : Arm} {r z : ArmPart} {flags : Word} {ops : List MemOp}
    {t : CellTable} {k : Bool} (h : s.part.steady) (hc : s.part.carries) (he : s.part.engine = .serving)
    (hf : f s.part = (s.part.setTable t).pair x r z flags ops) (hp : r.chain.publishDue = true)
    (hq : r.chain.blockQueued = (s.part.arm x).chain.blockQueued)
    (hup : z.chain.publishDue = ((s.part.arm x.other).chain.publishDue || k))
    (huq : z.chain.blockQueued = (s.part.arm x.other).chain.blockQueued) :
    ∃ q, onPart s (fun p => p.step f) = .next q ∧ q.pending = s.pending ∧
      q.part.ops = s.part.ops ++ ops ++ s.part.blocksFor x k ∧
      q.part.view = ((s.part.setTable t).pair x r z flags ops).view ∧ q.part.linesDriven := by
  have hstep := onPart_step s f h.1
  rw [hf] at hstep
  generalize hD : (s.part.setTable t).pair x r z flags ops = d at hstep
  have hde : d.engine = .serving := by rw [← hD, Part.pair_engine]; exact he
  have hx : d.arm x = r := by rw [← hD, Part.pair_arm]
  have hy : d.arm x.other = z := by rw [← hD, Part.pair_other]
  have hown : d.dueOps x = s.part.statusOps x := by
    unfold Part.dueOps
    rw [hx, show d.engine = s.part.engine from hde.trans he.symm]
    exact Part.statusOps_due he hp hq
  have hother : d.dueOps x.other = if k = true then s.part.statusOps x.other else [] := by
    have hnone := h.2.1.dueOps x.other
    unfold Part.dueOps at hnone ⊢
    unfold Part.statusOps
    rw [hy, hde, hup, huq]
    rw [he] at hnone
    cases hpd : (s.part.arm x.other).chain.publishDue <;> cases hbq : (s.part.arm x.other).chain.blockQueued <;>
      cases k <;> simp_all
  have hcd : d.carries := by
    rw [← hD]
    unfold Part.carries Part.pair at *
    simpa [Part.setTable] using hc
  obtain ⟨hv, hops⟩ := Part.settle_carries s.part d hcd fun hcl => by rw [hde] at hcl; cases hcl
  refine ⟨_, hstep, rfl, ?_, hv, Part.settle_linesDriven _ _⟩
  have h0 : d.ops = s.part.ops ++ ops := by
    rw [← hD]; simp [Part.pair, Part.ops, Part.setTable]
  refine hops.trans ?_
  rw [h0, List.append_assoc]
  congr 1
  unfold Part.blocksFor
  cases x
  · rw [hown, show d.dueOps .b = _ from hother]; simp [Arm.other]
  · rw [hown, show d.dueOps .a = _ from hother]; simp [Arm.other]

/-! ## The trim of the park claim (R38) -/

section
variable {p : Part} {u : CellTable} {y : Arm} {freed l : List Nat} {n : Nat}

/-- Free cells join y's opponent, after others have become NONE. -/
theorem Part.Shifted.joins (h : p.Shifted u y freed []) (hn : n ≤ 8) (hl : ∀ c ∈ l, u.owner c = none) :
    p.Shifted (u.addAll y.other n l) y freed l := by
  obtain ⟨hw, hx, hy, hother, hown, hentry⟩ := h
  obtain ⟨hw', hx', hy', -, -⟩ := CellTable.addAll_spec y.other n hn l u hw
  obtain ⟨hin, hout⟩ := CellTable.granted_entries hw (x := y.other) hn (l := l) fun c hc hh => by
    rw [hl c hc] at hh; cases hh
  have hout' : ∀ c, c ∉ l → (u.addAll y.other n l).owner c = u.owner c := fun c hc => by
    unfold CellTable.owner; rw [hout c hc]
  have hsome : ∀ c ∈ l, p.table.owner c ≠ some y := fun c hc ho => by
    have := (hown c).mpr ho
    rw [hl c hc] at this
    cases this
  refine ⟨hw', hx'.trans hx, hy'.trans hy, fun c => ?_, fun c => ?_, fun c hc => ?_⟩
  · by_cases hc : c ∈ l
    · exact iff_of_true (hin c hc).1 (.inr hc)
    · rw [hout' c hc, hother]
      simp [hc]
  · by_cases hc : c ∈ l
    · refine iff_of_false (fun hh => ?_) (hsome c hc)
      exact Arm.ne_other y (Option.some.inj ((hin c hc).1.symm.trans hh)).symm
    · rw [hout' c hc]; exact hown c
  · rw [hout c fun hm => hsome c hm hc]
    exact hentry c hc

end

section
variable (p : Part) (x : Arm) (cells : Option CellBox)

/-- The free cells of a cell box: those that join the park claim (R27, R38). -/
def Part.joining : List Nat := (p.table.cellsOf cells).filter fun c => p.table.owner c == none

/-- The cell table with the park claim trimmed to a cell box (R38). -/
def Part.trimmedTable : CellTable :=
  (p.table.removeAll parkNumber (p.parkOutside x cells)).addAll x parkNumber (p.joining cells)

theorem Part.growPark_eq (l : List Nat) : p.growPark x l =
    (p.setTable (p.table.addAll x parkNumber (p.table.freeCells l))).acts x
      (((p.arm x).parking ((p.arm x).parkCount + (p.table.freeCells l).length)).due
        (p.marksKept && !(p.table.freeCells l).isEmpty))
      (if p.table.freeCells l = [] then 0 else causeBit .park) [] := by
  unfold Part.growPark
  dsimp only
  by_cases hg : p.table.freeCells l = []
  · have ht : p.setTable (p.table.addAll x parkNumber []) = p := rfl
    rw [if_pos hg, if_pos hg, hg, ht]
    exact ((congrArg (fun r => p.acts x r 0 []) (by simp [ArmPart.parking])).trans (p.acts_self x)).symm
  · rw [if_neg hg, if_neg hg, Part.setParkCount, Part.updArm_eq_acts, Part.setCause_eq_acts _ x, Part.markDue_eq]
    have he : (p.table.freeCells l).isEmpty = false := by simpa using hg
    have h0 : (0 : Word) ||| causeBit .park = causeBit .park := BitVec.zero_or
    simp only [Part.acts_arm, Part.acts_acts, Part.acts_marksKept, he, Bool.not_false, Bool.and_true, h0, List.append_nil]
    rw [show causeBit Cause.park ||| (0 : Word) = causeBit .park from BitVec.or_zero]
    rfl

end

section
variable {p : Part} {x : Arm} {cells : Option CellBox} (hw : p.table.wf)
  (hb : ∀ b, cells = some b → b.xhi < p.table.nx ∧ b.yhi < p.table.ny)
include hw hb

/-- What the trim lets go of. -/
theorem Part.mem_parkOutside (c : Nat) :
    c ∈ p.parkOutside x cells ↔ p.table.holds x parkNumber c ∧ c ∉ p.table.cellsOf cells := by
  have hin : p.table.inCells c cells = true ↔ c ∈ p.table.cellsOf cells := by
    unfold CellTable.inCells CellTable.cellsOf
    cases cells with
    | none => simp
    | some b =>
      obtain ⟨hx, hy⟩ := hb b rfl
      exact b.containsCell_iff hx hy c
  rw [← hin, Bool.not_eq_true, Part.parkOutside, List.mem_filter, CellTable.mem_parkCells_iff hw]
  simp

theorem Part.trim_held : ∀ c ∈ p.parkOutside x cells, p.table.owner c = some x ∧ parkNumber ∈ (p.table.entry c).holders :=
  fun c hc => ((Part.mem_parkOutside hw hb c).mp hc).1

/-- Cells of the box keep their owner while park cells outside it are let go. -/
theorem Part.trim_owner {c : Nat} (hc : c ∈ p.table.cellsOf cells) :
    (p.table.removeAll parkNumber (p.parkOutside x cells)).owner c = p.table.owner c := by
  obtain ⟨-, hout, -⟩ := CellTable.left_entries hw (Part.trim_held hw hb (x := x))
  unfold CellTable.owner
  rw [hout c fun hm => ((Part.mem_parkOutside hw hb c).mp hm).2 hc]

theorem Part.trim_joins :
    (p.table.removeAll parkNumber (p.parkOutside x cells)).freeCells (p.table.cellsOf cells) = p.joining cells :=
  List.filter_congr fun c hc => by rw [Part.trim_owner hw hb hc]

theorem Part.trim_free : ∀ c ∈ p.joining cells,
    (p.table.removeAll parkNumber (p.parkOutside x cells)).owner c = none := fun c hc => by
  obtain ⟨hin, hno⟩ := List.mem_filter.mp hc
  rw [Part.trim_owner hw hb hin]
  exact beq_iff_eq.mp hno

/-- What the other arm sees of the trim. -/
theorem Part.trim_shifted : p.Shifted (p.trimmedTable x cells) x.other
    ((p.parkOutside x cells).filter fun c => (p.table.entry c).holders == [parkNumber]) (p.joining cells) := by
  have hleft := Part.Shifted.of_left (y := x.other) hw (n := parkNumber) (l := p.parkOutside x cells)
    (by rw [Arm.other_other]; exact Part.trim_held hw hb)
  have hj := hleft.joins (n := parkNumber) (l := p.joining cells) (by decide) (Part.trim_free hw hb)
  rwa [Arm.other_other] at hj

/-- The cells of the trimmed table: those that joined, those let go, and the others. -/
theorem Part.trim_entries :
    (∀ c, c ∈ p.table.cellsOf cells → p.table.owner c = none →
      (p.trimmedTable x cells).entry c = ⟨some x, [parkNumber]⟩) ∧
    (∀ c, c ∉ p.table.cellsOf cells → p.table.holds x parkNumber c → ∀ m,
      m ∈ ((p.trimmedTable x cells).entry c).holders ↔ m ≠ parkNumber ∧ m ∈ (p.table.entry c).holders) ∧
    ∀ c, ¬ (c ∈ p.table.cellsOf cells ∧ p.table.owner c = none) →
      ¬ (c ∉ p.table.cellsOf cells ∧ p.table.holds x parkNumber c) → (p.trimmedTable x cells).entry c = p.table.entry c := by
  obtain ⟨hl, hout, -⟩ := CellTable.left_entries hw (Part.trim_held hw hb (x := x))
  obtain ⟨hw', -, -, -, -⟩ := CellTable.removeAll_spec parkNumber (p.parkOutside x cells) p.table hw
  obtain ⟨-, -, -, -, he⟩ := CellTable.addAll_spec x parkNumber (by decide) (p.joining cells)
    (p.table.removeAll parkNumber (p.parkOutside x cells)) hw'
  have mem : ∀ c, c ∈ p.joining cells ↔ c ∈ p.table.cellsOf cells ∧ p.table.owner c = none := fun c => by
    rw [Part.joining, List.mem_filter, beq_iff_eq]
  have gone := fun c => Part.mem_parkOutside (x := x) hw hb c
  refine ⟨fun c hc ho => ?_, fun c hc hp => ?_, fun c hj hg => ?_⟩
  · have hm := (mem c).mpr ⟨hc, ho⟩
    have hnone := ((CellTable.owner_none_iff _ hw' c).mp (Part.trim_free hw hb c hm))
    unfold Part.trimmedTable
    rw [he c, if_pos hm]
    simp [CellEntry.joined, hnone, holderInsert]
  · unfold Part.trimmedTable
    rw [he c, if_neg fun hm => hc ((mem c).mp hm).1]
    exact hl c ((gone c).mpr ⟨hp, hc⟩)
  · unfold Part.trimmedTable
    rw [he c, if_neg fun hm => hj ((mem c).mp hm)]
    exact hout c fun hm => hg (((gone c).mp hm).symm)

/-- The trim as an effect, up to its re-evaluation. -/
theorem Part.trim_eq (r : ArmPart) : ∃ k flags, (p.acts x r 0 []).trim x cells =
    ((p.setTable (p.trimmedTable x cells)).acts x ((r.parking (r.parkCount - (p.parkOutside x cells).length +
      (p.joining cells).length)).due k) flags []).reevaluateIf
      ((p.parkOutside x cells).filter fun c => (p.table.entry c).holders == [parkNumber]).length := by
  have hout : (p.acts x r 0 []).parkOutside x cells = p.parkOutside x cells := by unfold Part.parkOutside; rw [Part.acts_table]
  have hun := (p.acts x r 0 []).unpark_eq x (p.parkOutside x cells)
  have hgrow := ((p.acts x r 0 []).unpark x (p.parkOutside x cells)).growPark_eq x (p.table.cellsOf cells)
  rw [hun] at hgrow
  simp only [Part.acts_arm, Part.acts_acts, Part.acts_setTable, Part.acts_table, Part.acts_marksKept, List.append_nil] at hgrow
  rw [show (p.setTable (p.table.removeAll parkNumber (p.parkOutside x cells))).table =
    p.table.removeAll parkNumber (p.parkOutside x cells) from rfl, Part.trim_joins hw hb] at hgrow
  have htrim : (p.acts x r 0 []).trim x cells = (((p.acts x r 0 []).unpark x (p.parkOutside x cells)).growPark x
      (p.table.cellsOf cells)).reevaluateIf (p.table.countAlone parkNumber (p.parkOutside x cells)) := by
    unfold Part.trim
    dsimp only
    rw [hout, Part.acts_table]
  rw [hun] at htrim
  simp only [Part.acts_arm, Part.acts_acts, Part.acts_setTable, Part.acts_table, Part.acts_marksKept, List.append_nil] at htrim
  rw [hgrow] at htrim
  generalize (p.marksKept && !(p.parkOutside x cells).isEmpty) = j at htrim
  generalize (Part.marksKept _ && !(p.joining cells).isEmpty) = k at htrim
  generalize (0 ||| 0 ||| _ : Word) = flags at htrim
  refine ⟨j || k, flags, htrim.trans ?_⟩
  have harm : ((((r.parking (r.parkCount - (p.parkOutside x cells).length)).due j).parking
      (r.parkCount - (p.parkOutside x cells).length + (p.joining cells).length)).due k) =
      (r.parking (r.parkCount - (p.parkOutside x cells).length + (p.joining cells).length)).due (j || k) := by
    simp [ArmPart.due, ArmPart.parking, Bool.or_assoc]
  rw [← harm]
  rfl

end

/-! ## Admission success as an effect (R103) -/

theorem Part.admitsArm_due (p : Part) (r : ArmPart) (k : Bool) : p.admitsArm (r.due k) = (p.admitsArm r).due k := by
  unfold Part.admitsArm
  by_cases h : r.guard.reasons = noReasons
  · rw [if_pos h, if_pos (show (r.due k).guard.reasons = noReasons from h)]; rfl
  · rw [if_neg h, if_neg (show ¬ (r.due k).guard.reasons = noReasons from h)]; rfl

/-- The arm that enters service with the park count `n` (R103). -/
def Part.admittedArm (p : Part) (r : ArmPart) (n : Nat) : ArmPart :=
  let u := (r.parking n).withReasons r.guard.reasons.afterAdmission
  p.admitsArm (u.withReasons (p.parkReasons u))

/-- What admission success leaves beside the table: x in service, the other arm's pending RESERVE re-evaluated. -/
theorem Part.admissionSuccess_regrants {p : Part} {x : Arm} {r : ArmPart} {cells : Option CellBox} {slot k : Nat}
    (ht : p.tableLaw) (hb : ∀ b, cells = some b → b.xhi < p.table.nx ∧ b.yhi < p.table.ny) (he : p.engine = .serving)
    (hs : r.guard.state = .admitting) (hq : r.guard.admissionSlot = some slot) (ho : r.chain.openSlot = some slot)
    (hwait : r.waiting = none) (hg : p.grantable x.other k) :
    let gone := p.parkOutside x cells
    let freed := gone.filter fun c => (p.table.entry c).holders == [parkNumber]
    let u := p.admittedArm r (r.parkCount - gone.length + (p.joining cells).length)
    ∃ t z v w, (p.acts x r 0 []).admissionSuccess x cells = (p.setTable t).pair x v z (w ||| causeBit (armCause x))
        (p.regrantOps x.other k freed (p.joining cells) ++ answerOps x slot p.now .admitted u.admittedFigures) ∧
      p.Regrant x.other k freed (p.joining cells) (p.trimmedTable x cells) t z ∧
      v.view = (u.replied true).view ∧ v.chain.publishDue = true ∧ v.chain.blockQueued = r.chain.blockQueued := by
  intro gone freed u
  obtain ⟨j, fl, htrim⟩ := Part.trim_eq (x := x) ht.1 hb r
  obtain ⟨t, z, hre, hrg⟩ := Part.reevaluateIf_regrants (p := p) (y := x.other) (k := k)
    (q := (p.setTable (p.trimmedTable x cells)).acts x ((r.parking (r.parkCount - gone.length +
      (p.joining cells).length)).due j) fl []) (by rw [Arm.other_other, Part.acts_arm]; exact hwait)
    (by rw [Part.acts_arm_other]; cases x <;> rfl) hg (by rw [Part.acts_table]; exact Part.trim_shifted ht.1 hb)
    (ht.claims_length x.other) (by rw [Part.acts_engine]; rfl) (by rw [Part.acts_now]; rfl)
  rw [Part.acts_table] at hrg
  generalize hR : (r.parking (r.parkCount - gone.length + (p.joining cells).length)) = rp at htrim hre
  have hpair := htrim.trans hre
  rw [Part.acts_setTable, Part.acts_then_other, List.nil_append,
    show (p.setTable (p.trimmedTable x cells)).setTable t = p.setTable t from rfl] at hpair
  generalize p.regrantOps x.other k freed (p.joining cells) = rops at hpair
  generalize hU : (rp.withReasons r.guard.reasons.afterAdmission) = ru
  have hreasons : (p.acts x r 0 []).admissionReasons x cells = ((p.setTable t).pair x (ru.due j) z fl rops).compareParkLimit x := by
    unfold Part.admissionReasons
    rw [hpair, Part.updGuard_eq, Part.updArm_eq_acts, Part.pair_arm, Part.pair_acts, List.append_nil,
      show fl ||| (0 : Word) = fl from BitVec.or_zero, ← hU, ← hR]
    rfl
  have hrus : ru.guard.state = .admitting := by rw [← hU, ← hR]; exact hs
  rw [Part.compareParkLimit_staying _ x (by rw [Part.pair_arm]; exact hrus ▸ (by simp)) (by
    rw [Part.pair_arm]; exact hrus ▸ (by simp)), Part.pair_arm, Part.pair_acts, List.append_nil] at hreasons
  have hlimit : Part.parkReasons ((p.setTable t).pair x (ru.due j) z fl rops) (ru.due j) = p.parkReasons ru := by
    unfold Part.parkReasons
    rw [Part.pair_figures]
    rfl
  rw [hlimit] at hreasons
  generalize (Part.marksKept _ && Part.parkMoves _ _) = j2 at hreasons
  generalize (fl ||| _) = fl2 at hreasons
  have hsucc := (p.acts x r 0 []).admissionSuccess_eq x cells
  dsimp only at hsucc
  rw [hreasons, Part.pair_arm, Part.pair_acts, Part.acts_arm, hq] at hsucc
  generalize hQ : Part.pair (p.setTable t) x _ z fl2 rops = Q at hsucc
  have hQx : Q.arm x = ((ru.due j).withReasons (p.parkReasons ru)).due j2 := by rw [← hQ, Part.pair_arm]
  have hQe : Q.engine = .serving := by rw [← hQ, Part.pair_engine]; exact he
  have hQn : Q.now = p.now := by rw [← hQ, Part.pair_now]; rfl
  have hQf : Q.figures = p.figures := by rw [← hQ, Part.pair_figures]; rfl
  have hmark : Q.marksKept = true := by simp [Part.marksKept, hQe]
  have hans : Q.answerable x slot = true := by
    rw [Part.answerable_iff, hQx, ← hU, ← hR]
    exact ⟨hQe, ho⟩
  have hadm : ∀ v, Q.admitsArm v = p.admitsArm v := fun v => by
    unfold Part.admitsArm Part.afterMs
    rw [hQn, hQf]
  have hu : p.admitsArm (ru.withReasons (p.parkReasons ru)) = u := by rw [← hU, ← hR]; rfl
  rw [hadm, Part.admitsArm_due, show (ru.due j).withReasons (p.parkReasons ru) =
    (ru.withReasons (p.parkReasons ru)).due j from rfl, Part.admitsArm_due, hu, hmark, Option.any_some, hans, Part.slotOps,
    Part.resultOps, hans, if_pos rfl, hQn] at hsucc
  have hchain : u.chain = r.chain := by
    rw [← hu, ← hU, ← hR]
    unfold Part.admitsArm
    dsimp only
    split <;> rfl
  refine ⟨t, z, _, fl2, hsucc, hrg, ?_, Bool.or_true _, ?_⟩
  · rfl
  · rw [← hchain]; rfl

/-- The reasons that admission success leaves (R103). -/
def Part.admittedReasons (p : Part) (g : Guard) (n : Nat) : Reasons :=
  { g.reasons with
    breach := false, stale := false, test := false
    park := if p.figures.parkLimit = 255 then g.reasons.park else decide (p.figures.parkLimit < n) }

/-- The arm that enters service: RUNNING, or HELD where reasons are left. -/
theorem Part.admittedArm_eq (p : Part) {r : ArmPart} (n : Nat) (hp : r.guard.phase = .none) (ha : r.guard.ackTimer = none) :
    p.admittedArm r n = { r with
      parkCount := n
      guard := { resetGuard with
        state := if p.admittedReasons r.guard n ≠ noReasons then .held else .running
        reasons := p.admittedReasons r.guard n
        phase := if p.admittedReasons r.guard n ≠ noReasons then .awaiting else .none
        ackTimer := if p.admittedReasons r.guard n ≠ noReasons then
          some (p.now + BitVec.ofNat 32 (p.figures.holdAckWindow * 1000)) else none
        stopAsserted := r.guard.stopAsserted }
      link := (if p.admittedReasons r.guard n ≠ noReasons then { r.link.queueStop .hold with
        repeatTimer := some (p.now + BitVec.ofNat 32 (p.figures.holdRepeat * 1000)) } else r.link).queueSpeed .uncap } := by
  have hr : p.parkReasons ((r.parking n).withReasons r.guard.reasons.afterAdmission) = p.admittedReasons r.guard n := rfl
  unfold Part.admittedArm Part.admitsArm
  dsimp only
  rw [hr]
  generalize p.admittedReasons r.guard n = R
  by_cases h : R = noReasons
  · rw [if_pos (show (ArmPart.withReasons _ R).guard.reasons = noReasons from h), if_neg (Classical.not_not.mpr h), if_neg (Classical.not_not.mpr h),
      if_neg (Classical.not_not.mpr h), if_neg (Classical.not_not.mpr h)]
    simp only [ArmPart.withReasons, ArmPart.parking, hp, ha]
    rfl
  · rw [if_neg (show ¬ (ArmPart.withReasons _ R).guard.reasons = noReasons from h), if_pos h, if_pos h, if_pos h, if_pos h]
    rfl

/-- Cells that join the other arm stand in the way of a grant. -/
theorem Part.joined_not_regranted {p : Part} {y : Arm} {freed joined : List Nat} {c : Nat} (h : c ∈ joined) :
    c ∉ p.regrantedCells y freed joined := fun hc => by
  unfold Part.regrantedCells at hc
  cases hr : p.regranted y freed joined with
  | none => rw [hr] at hc; cases hc
  | some w =>
    rw [hr] at hc
    obtain ⟨-, hno⟩ := Option.filter_eq_some_iff.mp hr
    have hway : c ∈ p.inTheWay y freed joined w := List.mem_filter.mpr ⟨hc, by simp [h]⟩
    rw [Bool.and_eq_true, List.isEmpty_iff] at hno
    rw [hno.2] at hway
    cases hway

/-- A command whose effect is admission success, with whatever it makes of x's monitor. -/
theorem admission_serves {s : State} {x : Arm} {f : Part → Part} {r : ArmPart} {m : Monitor} {cells : Option CellBox}
    {slot k : Nat} (h : s.part.steady) (ht : s.part.tableLaw) (hc : s.part.carries) (he : s.part.engine = .serving)
    (hb : ∀ b, cells = some b → b.xhi < s.part.table.nx ∧ b.yhi < s.part.table.ny) (hs : r.guard.state = .admitting)
    (hph : r.guard.phase = .none) (hack : r.guard.ackTimer = none)
    (hq : r.guard.admissionSlot = some slot) (ho : r.chain.openSlot = some slot) (hw : r.waiting = none)
    (hg : s.part.grantable x.other k) (hbq : r.chain.blockQueued = (s.part.arm x).chain.blockQueued)
    (hf : ∀ t v z w ops, (s.part.acts x r 0 []).admissionSuccess x cells = (s.part.setTable t).pair x v z w ops →
      v.monitor = r.monitor → v.guard.reasons.stale = false → v.notices = r.notices →
      z.monitor = (s.part.arm x.other).monitor →
      f s.part = (s.part.setTable t).pair x { v with monitor := m } z w ops) :
    let gone := s.part.parkOutside x cells
    let freed := gone.filter fun c => (s.part.table.entry c).holders == [parkNumber]
    let joined := s.part.joining cells
    let n := r.parkCount - gone.length + joined.length
    let u := s.part.admittedArm r n
    ∃ q, onPart s (fun p => p.step f) = .next q ∧ q.pending = s.pending ∧
      (q.part.arm x).view = ({ u with monitor := m, chain := { r.chain with answered := true } } : ArmPart).view ∧
      (q.part.arm x).guard = { u.guard with stopAsserted := false } ∧ q.part.causeSet (armCause x) = true ∧
      q.part.hostMem = s.part.hostMem ∧ s.part.regrants q.part x.other k freed joined ∧
      q.part.ops = s.part.ops ++ (s.part.regrantOps x.other k freed joined ++
        answerOps x slot s.part.now .admitted u.admittedFigures) ++
        s.part.blocksFor x (s.part.regranted x.other freed joined).isSome ∧
      ∀ c, c ∉ s.part.regrantedCells x.other freed joined → q.part.table.entry c = (s.part.trimmedTable x cells).entry c := by
  intro gone freed joined n u
  obtain ⟨t, z, v, w, hsucc, ⟨hdue, hqd, hout, hregr⟩, hv, hvd, hvq⟩ :=
    Part.admissionSuccess_regrants ht hb he hs hq ho hw hg
  have hue := s.part.admittedArm_eq n hph hack
  have hzm : z.monitor = (s.part.arm x.other).monitor := by
    obtain ⟨-, hz⟩ := hregr ((s.part.setTable t).pair x v z 0 []) (by rw [Part.pair_other]) (by rw [Part.pair_table]; rfl)
    rw [Part.pair_other] at hz
    exact (congrArg ArmPart.monitor hz :)
  have hfields : v.monitor = r.monitor ∧ v.guard.reasons.stale = false ∧ v.notices = r.notices := by
    exact ⟨(congrArg ArmPart.monitor hv :).trans (congrArg ArmPart.monitor hue :),
      (congrArg (fun a : ArmPart => a.guard.reasons.stale) hv :).trans
        (congrArg (fun a : ArmPart => a.guard.reasons.stale) hue :),
      (congrArg ArmPart.notices hv :).trans (congrArg ArmPart.notices hue :)⟩
  obtain ⟨q, hex, hpend, hops, hview, hlines⟩ := onPart_pair h hc he
    (hf t v z _ _ hsucc hfields.1 hfields.2.1 hfields.2.2 hzm) hvd (hvq.trans hbq) hdue hqd
  have hx := Part.arm_view_of_view hview x
  have hy := Part.arm_view_of_view hview x.other
  rw [Part.pair_arm] at hx
  rw [Part.pair_other] at hy
  have hunit := Part.unit_of_view hview
  rw [Part.pair_unit] at hunit
  have htab : q.part.table = t := (congrArg (fun p : Part => p.table) hunit :)
  refine ⟨q, hex, hpend, hx.trans ?_, ?_, ?_, ?_, hregr q.part hy htab, hops, fun c hc => ?_⟩
  · rw [ArmPart.replied_true, show u.chain = r.chain from (congrArg ArmPart.chain hue :)] at hv
    exact (congrArg (fun a : ArmPart => { a with monitor := m }) hv :)
  · have hvg : { v.guard with stopAsserted := true } = { u.guard with stopAsserted := true } := (congrArg ArmPart.guard hv :)
    have hst : v.guard.state = .running ∨ v.guard.state = .held := by
      rw [show v.guard.state = u.guard.state from (congrArg Guard.state hvg :),
        show u.guard.state = _ from (congrArg (fun a : ArmPart => a.guard.state) hue :)]
      dsimp only
      split
      · exact .inr rfl
      · exact .inl rfl
    have hline : ((s.part.setTable t).pair x { v with monitor := m } z (w ||| causeBit (armCause x))
        (s.part.regrantOps x.other k freed joined ++ answerOps x slot s.part.now .admitted u.admittedFigures)).lineReleased x =
        true := by
      unfold Part.lineReleased Part.guarding
      rw [Part.pair_arm, Part.pair_engine, show (s.part.setTable t).engine = .serving from he]
      rcases hst with hst | hst <;> (show (_ && v.guard.state.inService) = true; rw [hst]; rfl)
    have hgd := hlines.guard hview x
    rw [hline, Part.pair_arm] at hgd
    exact hgd.trans (congrArg (fun a : Guard => { a with stopAsserted := false }) hvg :)
  · rw [Part.causeSet_of_view hview]
    refine Part.causeSet_of_or _ _ (s.part.cause ||| w) ?_
    rw [BitVec.or_assoc]
    cases x <;> exact BitVec.or_zero
  · exact (congrArg (fun p : Part => p.hostMem) hunit :)
  · rw [htab]; exact hout c hc

/-- The half that completes the count finds its partner: admission success (R102, R103). -/
theorem Part.takeHalf_succeeds {p : Part} {x : Arm} {k j : AdmissionHalf} {later : List AdmissionHalf} {d : DriveState}
    {a : Answer} (hu : (p.arm x).guard.unpaired = j :: later) (hj : k.partners j = true)
    (hf : pairedFigures k j = some (d, a)) (hd : d = .holding ∨ d = .standstill) (ha : a.foreign = false)
    (hcount : p.figures.admitCount ≤ (p.arm x).guard.count + 1) : p.takeHalf x k =
      (p.acts x ((p.arm x).guarded ((p.arm x).guard.paired ((p.arm x).guard.count + 1) later)) 0 []).admissionSuccess x
        a.cells := by
  have hafter : countAfter (p.arm x).guard.count d a = (p.arm x).guard.count + 1 := by
    rw [countAfter_eq _ (by rcases hd with rfl | rfl <;> simp), if_neg]
    rcases hd with rfl | rfl <;> simp [ha]
  rw [p.takeHalf_pairs x k (earlier := []) hu (by simp) hj hf, Part.admissionStep_eq]
  dsimp only
  rw [Part.acts_arm, Part.acts_figures, show countAfter ((p.arm x).guarded ((p.arm x).guard.paired (p.arm x).guard.count
    later)).guard.count d a = _ from hafter, if_pos hcount, Part.updGuard_eq, Part.updArm_eq_acts, Part.acts_acts,
    Part.acts_arm]
  rfl

/-- The end of a frame whose freshness is not spent, without both envelopes known: nothing follows it (R71, R76). -/
theorem Part.settleEvaluation_unknown {p : Part} {x : Arm} {v z : ArmPart} {w : Word} {ops : List MemOp}
    (hn : v.notices = []) (h : v.monitor.evaluationOwed = false ∨ (z.monitor.known = false ∧
      timerDue p.now v.monitor.staleTimer = false ∧ timerDue p.now v.monitor.lossTimer = false)) :
    (p.pair x v z w ops).settleEvaluation x =
      p.pair x { v with monitor := { v.monitor with evaluationOwed := false } } z w ops := by
  unfold Part.settleEvaluation
  rw [Part.pair_arm]
  cases ho : v.monitor.evaluationOwed with
  | false =>
    have hv : ({ v with monitor := { v.monitor with evaluationOwed := false } } : ArmPart) = v := by rw [← ho]
    rw [hv]
    exact if_neg fun hh => by cases hh.1
  | true =>
    obtain ⟨hk, hst, hlo⟩ := h.resolve_left (by rw [ho]; simp)
    have h0 : w ||| (0 : Word) = w := BitVec.or_zero
    rw [if_pos ⟨rfl, hn⟩, Part.updMonitor_eq, Part.updArm_eq_acts, Part.pair_arm, Part.pair_acts, h0, List.append_nil]
    rw [Part.expirePassed_fresh _ x (by rw [Part.pair_arm, Part.pair_now]; exact hst) (by
      rw [Part.pair_arm, Part.pair_now]; exact hlo)]
    exact Part.evaluateClearance_unknown (.inr (by rw [Part.pair_other]; exact hk))

/-- An arm whose answers and frame notices are those given. -/
def ArmPart.halving (r : ArmPart) (as : List Answer) (ns : List Notice) : ArmPart := { r with answers := as, notices := ns }

/-- Settles O49. -/
theorem admissionSuccessPutsTheArmInService : Obligations.AdmissionSuccessPutsTheArmInService := by
  unfold Obligations.AdmissionSuccessPutsTheArmInService
  intro s x n a later slot c k h ht
  dsimp only
  intro he hc hlaw hs hq ho hcase hseq htime hd hfor hcount hw hg hb
  have hguard : s.part.guarding = true := by unfold Part.guarding; rw [he]; rfl
  have hph : (s.part.arm x).guard.phase = .none := Classical.byContradiction fun hne => by
    have := hlaw.2.2.1.mpr hne
    rw [hs] at this; cases this
  have hack : (s.part.arm x).guard.ackTimer = none := Option.not_isSome_iff_eq_none.mp fun hsome => by
    have := hlaw.2.2.2.1.mp hsome
    rw [hph] at this; cases this
  suffices hboth : ∃ (as : List Answer) (ns : List Notice) (m : Monitor) (f : Part → Part),
      exec c s = onPart s (fun p => p.step f) ∧
      (∀ t v z w ops, (s.part.acts x (((s.part.arm x).halving as ns).guarded
          ((s.part.arm x).guard.paired ((s.part.arm x).guard.count + 1) later)) 0 []).admissionSuccess x a.cells =
          (s.part.setTable t).pair x v z w ops →
        v.monitor = (s.part.arm x).monitor → v.guard.reasons.stale = false → v.notices = ns →
        z.monitor = (s.part.arm x.other).monitor → f s.part = (s.part.setTable t).pair x { v with monitor := m } z w ops) ∧
      (c = .admissionAnswer x → as = (s.part.arm x).answers.tail ∧ ns = (s.part.arm x).notices ∧
        m = (s.part.arm x).monitor) ∧
      (c = .frameNotice x → as = (s.part.arm x).answers ∧ ns = [] ∧
        m = { (s.part.arm x).monitor with evaluationOwed := false }) by
    obtain ⟨as, ns, m, f, hstep, hf, hanswer, hnotice⟩ := hboth
    generalize hr : ((s.part.arm x).halving as ns).guarded ((s.part.arm x).guard.paired ((s.part.arm x).guard.count + 1)
      later) = r at hf
    have hrf : r.guard.reasons = (s.part.arm x).guard.reasons ∧ r.link = (s.part.arm x).link ∧
        r.parkCount = (s.part.arm x).parkCount ∧ r.claims = (s.part.arm x).claims ∧ r.test = (s.part.arm x).test ∧
        r.answers = as ∧ r.notices = ns := by rw [← hr]; exact ⟨rfl, rfl, rfl, rfl, rfl, rfl, rfl⟩
    obtain ⟨hrr, hrl, hrp, hrc, hrt, hra, hrn⟩ := hrf
    have hrg : r.guard.phase = .none ∧ r.guard.ackTimer = none := by rw [← hr]; exact ⟨hph, hack⟩
    obtain ⟨q, hex, hpend, hview, hgd, hcause, hmem, hregr, hops, hent⟩ := admission_serves (f := f) (m := m)
      (cells := a.cells) (slot := slot) (k := k) h ht hc he hb (by rw [← hr]; exact hs) hrg.1 hrg.2 (by rw [← hr]; exact hq)
      (by rw [← hr]; exact ho) (by rw [← hr]; exact hw) hg (by rw [← hr]; rfl) (by rw [← hr] at hf ⊢; exact hf)
    have hU := s.part.admittedArm_eq (r := r) (r.parkCount - (s.part.parkOutside x a.cells).length +
      (s.part.joining a.cells).length) hrg.1 hrg.2
    generalize hn : r.parkCount - (s.part.parkOutside x a.cells).length + (s.part.joining a.cells).length = m' at *
    have hpark : (q.part.arm x).parkCount = m' := (congrArg ArmPart.parkCount hview :).trans (congrArg ArmPart.parkCount hU :)
    generalize s.part.admittedArm r m' = U at *
    have hR : s.part.admittedReasons r.guard m' = { (s.part.arm x).guard.reasons with
        breach := false, stale := false, test := false
        park := if s.part.figures.parkLimit = 255 then (s.part.arm x).guard.reasons.park
          else decide (s.part.figures.parkLimit < m') } := by
      unfold Part.admittedReasons; rw [hrr]
    rw [hR, hrl] at hU
    refine ⟨q, hstep.trans hex, hpend, ?_⟩
    rw [hpark]
    generalize ({ (s.part.arm x).guard.reasons with
        breach := false, stale := false, test := false
        park := if s.part.figures.parkLimit = 255 then (s.part.arm x).guard.reasons.park
          else decide (s.part.figures.parkLimit < m') } : Reasons) = R at *
    subst hU
    have hmon : (q.part.arm x).monitor = m := (congrArg ArmPart.monitor hview :)
    have hq_as : (q.part.arm x).answers = as := (congrArg ArmPart.answers hview :).trans hra
    have hq_ns : (q.part.arm x).notices = ns := (congrArg ArmPart.notices hview :).trans hrn
    obtain ⟨hjoin, hleft, hkeep⟩ := Part.trim_entries ht.1 hb (x := x)
    refine ⟨hgd, (congrArg ArmPart.link hview :), fun hc => ?_, fun hc => ?_, (congrArg ArmPart.claims hview :).trans hrc,
      (congrArg ArmPart.test hview :).trans hrt, hcause, hmem, s.part.parkOutside x a.cells,
      (s.part.table.parkCells_nodup ht.1 x).sublist (s.part.parkOutside_sublist x _), Part.mem_parkOutside ht.1 hb, ?_⟩
    · obtain ⟨h1, h2, h3⟩ := hanswer hc
      exact ⟨hq_as.trans h1, hq_ns.trans h2, hmon.trans h3⟩
    · obtain ⟨h1, h2, h3⟩ := hnotice hc
      exact ⟨hq_as.trans h1, hq_ns.trans h2, hmon.trans h3⟩
    refine ⟨by rw [← hn, hrp]; rfl, hregr, ?_, fun c hin hown => ?_, fun c hz hin hp => ?_, fun c hz hj hg => ?_⟩
    · rw [hgd, hops, ← List.append_assoc, Part.blocksFor, ← List.append_assoc]
      rfl
    · rw [hent c (Part.joined_not_regranted (List.mem_filter.mpr ⟨hin, beq_iff_eq.mpr hown⟩))]
      exact hjoin c hin hown
    · rw [hent c hz]
      exact hleft c hin hp
    · rw [hent c hz]
      exact hkeep c hj hg
  rcases hcase with ⟨rfl, hans, hun⟩ | ⟨rfl, hnot, hun, heval⟩
  · obtain ⟨rest, hrest⟩ := List.head?_eq_some_iff.mp hans
    have hx := s.part.acts_arm x ((s.part.arm x).answered rest) 0 []
    have htake := Part.takeHalf_succeeds (p := s.part.acts x ((s.part.arm x).answered rest) 0 []) (x := x) (k := .answer a)
      (by rw [hx]; exact hun) ((answer_partners_iff a _).mpr ⟨n, rfl, hseq, htime⟩) rfl hd hfor
      (by rw [hx, Part.acts_figures]; exact hcount)
    rw [hx, Part.acts_acts] at htake
    have hnext := (Part.nextAnswer_eq hrest).trans
      ((if_pos ⟨by rw [Part.acts_guarding]; exact hguard, by rw [hx]; exact hs⟩).trans htake)
    exact ⟨rest, (s.part.arm x).notices, (s.part.arm x).monitor, fun p => p.nextAnswer x, rfl,
      fun t v z w ops hsucc hm _ _ _ => (hnext.trans hsucc).trans (by rw [← hm]),
      fun _ => ⟨by rw [hrest]; rfl, rfl, rfl⟩, fun hc => by cases hc⟩
  · have hx := s.part.acts_arm x ((s.part.arm x).noticing []) 0 []
    have htake := Part.takeHalf_succeeds (p := s.part.noticed x []) (x := x) (k := .notice n)
      (by rw [hx]; exact hun) ((notice_partners_iff n _).mpr ⟨a, rfl, hseq.symm, htime.symm⟩) rfl hd hfor
      (by rw [hx, Part.acts_figures]; exact hcount)
    rw [hx, Part.noticed_acts] at htake
    have hact := (Part.takeNotice_guarding (p := s.part.noticed x []) (by rw [Part.acts_guarding]; exact hguard) x n).trans
      (congrArg (fun q : Part => q.removeReason x .stale) ((Part.actOnNotice_admitting (p := s.part.noticed x []) (x := x)
        (by rw [hx]; exact hs) (by rcases hd with hd | hd <;> rw [hd] <;> simp)).trans htake))
    refine ⟨(s.part.arm x).answers, [], { (s.part.arm x).monitor with evaluationOwed := false }, fun p => p.nextNotice x, rfl,
      fun t v z w ops hsucc hm hst hnt hz => ?_, fun hc => (by cases hc), fun _ => ⟨rfl, rfl, rfl⟩⟩
    have hguards : ((s.part.setTable t).pair x v z w ops).guarding = true := by
      unfold Part.guarding
      rw [Part.pair_engine, show (s.part.setTable t).engine = .serving from he]
      rfl
    have htaken : (s.part.noticed x []).takeNotice x n = (s.part.setTable t).pair x v z w ops := by
      exact hact.trans ((congrArg (fun q : Part => q.removeReason x .stale) hsucc).trans
        (Part.removeReason_absent _ x .stale (by rw [Part.pair_arm]; exact hst)))
    have hnext : s.part.nextNotice x = ((s.part.setTable t).pair x v z w ops).settleEvaluation x := by
      unfold Part.nextNotice
      rw [hnot]
      dsimp only
      rw [Part.updArm_eq_acts, show ({ s.part.arm x with notices := [] } : ArmPart) = (s.part.arm x).noticing [] from rfl,
        htaken, if_pos hguards]
    rw [← hm]
    refine hnext.trans (Part.settleEvaluation_unknown hnt ?_)
    rw [hm, hz]
    exact heval

end Sys2Proof.Machine

/-! PROOFS. The taking of a slot (O21). -/

namespace Sys2Proof.Machine

/-! ## What the dispatch of a request leaves (R146, R157) -/

/-- From p to q operations have joined the queue behind what waits; the engine, the interface and every arm's cursor and
open slot are as they were. -/
structure Part.Adds (p q : Part) : Prop where
  queue : ∃ ops, q.opQueue = p.opQueue ++ ops
  engine : q.engine = p.engine
  running : q.inProgress = p.inProgress
  bus : q.busUp ↔ p.busUp
  place : ∀ y, (q.arm y).place = (p.arm y).place

namespace Part.Adds
variable {p q u : Part} {x : Arm}

theorem refl (p : Part) : p.Adds p := ⟨⟨[], (List.append_nil _).symm⟩, rfl, rfl, Iff.rfl, fun _ => rfl⟩

theorem trans (h : p.Adds q) (h' : q.Adds u) : p.Adds u := by
  obtain ⟨l, hl⟩ := h.queue
  obtain ⟨l', hl'⟩ := h'.queue
  exact ⟨⟨l ++ l', by rw [hl', hl, List.append_assoc]⟩, h'.engine.trans h.engine, h'.running.trans h.running,
    h'.bus.trans h.bus, fun y => (h'.place y).trans (h.place y)⟩

/-- An effect on an arm that leaves its cursor and its open slot. -/
theorem acts (r : ArmPart) (flags : Word) (ops : List MemOp) (h : r.place = (p.arm x).place) :
    p.Adds (p.acts x r flags ops) := by
  refine ⟨⟨ops, by cases x <;> rfl⟩, Part.acts_engine .., Part.acts_inProgress .., Part.acts_busUp, fun y => ?_⟩
  rw [Part.acts_arm_ite]
  by_cases hy : y = x
  · rw [if_pos hy, hy, h]
  · rw [if_neg hy]

theorem setTable (p : Part) (t : CellTable) : p.Adds (p.setTable t) :=
  ⟨⟨[], (List.append_nil _).symm⟩, rfl, rfl, Iff.rfl, fun y => by cases y <;> rfl⟩

theorem updArm (f : ArmPart → ArmPart) (h : (f (p.arm x)).place = (p.arm x).place) : p.Adds (p.updArm x f) := by
  rw [Part.updArm_eq_acts]
  exact acts _ _ _ h

end Part.Adds

section
variable (p : Part) (x : Arm)

theorem Part.adds_markDue : p.Adds (p.markDue x) := by rw [Part.markDue_eq]; exact .acts _ _ _ rfl
theorem Part.adds_markChanged : p.Adds (p.markChanged x) := by rw [Part.markChanged_eq]; exact .acts _ _ _ rfl
theorem Part.adds_guardChanged : p.Adds (p.guardChanged x) := by rw [Part.guardChanged_eq]; exact .acts _ _ _ rfl
theorem Part.adds_setWaiting (w : Option PendingReserve) : p.Adds (p.setWaiting x w) := .updArm _ rfl
theorem Part.adds_setClaim (n : Nat) (c : Claim) : p.Adds (p.setClaim x n c) := .updArm _ rfl

theorem Part.adds_handResult (slot : Nat) (v : Verdict) (f : ResultFigures) : p.Adds (p.handResult x slot v f) := by
  rw [Part.handResult_eq]
  exact .acts _ _ _ rfl

theorem Part.adds_waitingNotice (slot : Nat) (f : ResultFigures) : p.Adds (p.waitingNotice x slot f) := by
  obtain ⟨he, -⟩ | ⟨-, e⟩ := p.waitingNotice_cases x slot f
  · rw [p.waitingNotice_eq x slot f he]
    exact .acts _ _ _ rfl
  · rw [e]; exact .refl p

theorem Part.adds_addReason (q : HoldReason) : p.Adds (p.addReason x q) := by
  obtain ⟨-, e⟩ | ⟨hq, hs, -⟩ | ⟨hq, hs, -⟩ := p.addReason_cases x q
  · rw [e]; exact .refl p
  · rw [p.addReason_running x q hq hs]; exact .acts _ _ _ rfl
  · rw [p.addReason_staying x q hq hs]; exact .acts _ _ _ rfl

theorem Part.adds_removeReason (q : HoldReason) : p.Adds (p.removeReason x q) := by
  cases hq : (p.arm x).guard.reasons.has q with
  | false => rw [p.removeReason_absent x q hq]; exact .refl p
  | true =>
    by_cases hs : (p.arm x).guard.state = .held ∧ (p.arm x).guard.reasons.put false q = noReasons
    · rw [p.removeReason_last x q hq hs.1 hs.2]; exact .acts _ _ _ rfl
    · rw [p.removeReason_staying x q hq hs]; exact .acts _ _ _ rfl

theorem Part.adds_compareParkLimit : p.Adds (p.compareParkLimit x) := by
  obtain ⟨-, e⟩ | ⟨-, -, e⟩ | ⟨-, -, e⟩ := p.compareParkLimit_cases x <;> rw [e]
  · exact .refl p
  · exact p.adds_addReason x .park
  · exact p.adds_removeReason x .park

/-! ### The arbiter -/

theorem Part.adds_fillClaim (n : Nat) (c : Claim) : p.Adds (p.fillClaim x n c) := by
  rw [Part.fillClaim_eq]
  exact (Part.Adds.setTable p _).trans (.acts _ _ _ (by cases x <;> rfl))

theorem Part.adds_endWaiting (v : Verdict) : p.Adds (p.endWaiting x v) := by
  obtain ⟨w, -, e⟩ | ⟨-, e⟩ := p.endWaiting_cases x v <;> rw [e]
  · exact (p.adds_setWaiting x none).trans (Part.adds_handResult _ x _ _ _)
  · exact .refl p

theorem Part.adds_reevaluateArm : p.Adds (p.reevaluateArm x) := by
  obtain ⟨-, e⟩ | ⟨w, n, -, -, -, -, e⟩ | ⟨w, -, -, e⟩ := p.reevaluateArm_cases x <;> rw [e]
  · exact .refl p
  · exact ((p.adds_setWaiting x none).trans (Part.adds_fillClaim _ x _ _)).trans (Part.adds_handResult _ x _ _ _)
  · exact p.adds_setWaiting x _

theorem Part.adds_reevaluateIf (n : Nat) : p.Adds (p.reevaluateIf n) := by
  unfold Part.reevaluateIf
  split
  · exact .refl p
  · unfold Part.reevaluate Part.bothArms
    exact (p.adds_reevaluateArm _).trans (Part.adds_reevaluateArm _ _)

theorem Part.adds_releaseClaim (n : Nat) : p.Adds (p.releaseClaim x n) := by
  rw [Part.releaseClaim_eq]
  exact ((Part.Adds.setTable p _).trans (.acts _ _ _ (by cases x <;> rfl))).trans (Part.adds_reevaluateIf _ _)

theorem Part.adds_unpark (gone : List Nat) : p.Adds (p.unpark x gone) := by
  rw [Part.unpark_eq]
  exact (Part.Adds.setTable p _).trans (.acts _ _ _ (by cases x <;> rfl))

theorem Part.adds_crossingCheck : p.Adds p.crossingCheck := by
  unfold Part.crossingCheck
  split
  · split
    · exact p.adds_endWaiting _ _
    · exact .refl p
  · exact .refl p

/-! ### The requests -/

theorem Part.adds_startWaiting (slot : Nat) (f : SlotFields) (m : ClaimMode) (b : CellBox) (l : List Nat) :
    p.Adds (p.startWaiting x slot f m b l) := by
  unfold Part.startWaiting
  dsimp only
  exact (((p.adds_setWaiting x _).trans (Part.adds_setWaiting _ x.other _)).trans (Part.adds_waitingNotice _ x _ _)).trans
    (Part.adds_crossingCheck _)

theorem Part.adds_evaluateReserve (slot : Nat) (f : SlotFields) (m : ClaimMode) (b : CellBox) (n : Nat) :
    p.Adds (p.evaluateReserve x slot f m b n) := by
  unfold Part.evaluateReserve
  split
  · exact (p.adds_fillClaim x _ _).trans (Part.adds_handResult _ x _ _ _)
  · split
    · exact p.adds_handResult x _ _ _
    · exact p.adds_startWaiting x _ _ _ _ _

theorem Part.adds_reserve (slot : Nat) (f : SlotFields) : p.Adds (p.reserve x slot f) := by
  have hand : ∀ v g, p.Adds (p.handResult x slot v g) := fun v g => p.adds_handResult x slot v g
  unfold Part.reserve
  split
  · exact hand _ _
  split
  · exact hand _ _
  split
  · exact hand _ _
  split
  · exact hand _ _
  split
  · exact hand _ _
  split
  · exact hand _ _
  · exact p.adds_evaluateReserve x _ _ _ _ _

theorem Part.adds_release (slot : Nat) (tag : Half) : p.Adds (p.release x slot tag) := by
  unfold Part.release
  split
  · exact p.adds_handResult x _ _ _
  · dsimp only
    split
    · exact p.adds_handResult x _ _ _
    · split
      · exact ((p.adds_setClaim x _ _).trans (Part.adds_markDue _ x)).trans (Part.adds_handResult _ x _ _ _)
      · exact (p.adds_releaseClaim x _).trans (Part.adds_handResult _ x _ _ _)

theorem Part.adds_readmit (slot : Nat) : p.Adds (p.readmit x slot) := by
  unfold Part.readmit
  dsimp only
  split
  · exact ((Part.Adds.updArm _ rfl).trans (Part.adds_guardChanged _ x)).trans (Part.adds_waitingNotice _ x _ _)
  · exact p.adds_handResult x _ _ _

theorem Part.adds_releasePark (slot : Nat) : p.Adds (p.releasePark x slot) :=
  (((p.adds_unpark x _).trans (Part.adds_compareParkLimit _ x)).trans (Part.adds_reevaluateIf _ _)).trans
    (Part.adds_handResult _ x _ _ _)

theorem Part.adds_stopTest (slot : Nat) : p.Adds (p.stopTest x slot) := by
  unfold Part.stopTest
  dsimp only
  split
  · exact p.adds_handResult x _ _ _
  · split
    · exact p.adds_handResult x _ _ _
    · exact ((Part.Adds.updArm _ rfl).trans (Part.adds_addReason _ x .test)).trans (Part.adds_waitingNotice _ x _ _)

theorem Part.adds_ackBreach (slot : Nat) : p.Adds (p.ackBreach x slot) := by
  have hand : ∀ v g, p.Adds (p.handResult x slot v g) := fun v g => p.adds_handResult x slot v g
  unfold Part.ackBreach
  dsimp only
  split
  · exact hand _ _
  split
  · exact hand _ _
  split
  · exact hand _ _
  · exact (p.adds_removeReason x .breach).trans (Part.adds_handResult _ x _ _ _)

theorem Part.adds_clearWatermarks (slot : Nat) : p.Adds (p.clearWatermarks x slot) :=
  ((Part.Adds.updArm _ rfl).trans (Part.adds_markChanged _ x)).trans (Part.adds_handResult _ x _ _ _)

/-- The dispatch of a request only queues operations, as far as the engine sees. -/
theorem Part.adds_dispatch (slot : Nat) (f : SlotFields) : p.Adds (p.dispatch x slot f) := by
  unfold Part.dispatch
  split
  · exact p.adds_handResult x _ _ _
  split
  · exact p.adds_handResult x _ _ _
  · exact p.adds_reserve x slot f
  · exact p.adds_release x slot f.tag
  · exact p.adds_readmit x slot
  · exact p.adds_releasePark x slot
  · exact p.adds_stopTest x slot
  · exact p.adds_ackBreach x slot
  · exact p.adds_clearWatermarks x slot

end

/-- Settles O21. -/
theorem candidateIsTakenWhenPosted : Obligations.CandidateIsTakenWhenPosted := by
  unfold Obligations.CandidateIsTakenWhenPosted
  intro s x slot data addr bytes limit ab h
  dsimp only
  intro he hb hi
  have harm : s.part.opDone.arm x = s.part.arm x := s.part.opDone_arm x
  have hread : s.part.slotReadDone data = s.part.opDone.takeCandidate x slot (readSlot data) := by
    simp only [Part.slotReadDone, hi, he, if_true]
  have hdue : ¬ (s.part.engine = .serving ∧ (s.part.arm x).chain.publishDue = true ∧
      (s.part.arm x).chain.blockQueued = false) := fun hh => by
    have hno := h.2.1.dueOps x
    unfold Part.dueOps at hno
    rw [if_pos hh] at hno
    cases hno
  have ended : ∀ flags, s.part.opDone.takeCandidate x slot (readSlot data) = s.part.opDone.acts x { s.part.arm x with
        chain := { (s.part.arm x).chain with walk := .none } } flags [] →
      (Part.settle s.part (s.part.slotReadDone data)).ops = s.part.opQueue ∧
        (Part.settle s.part (s.part.slotReadDone data)).view = (s.part.withArm x { s.part.arm x with
          chain := { (s.part.arm x).chain with walk := .none } } flags).view := fun flags e => by
    obtain ⟨hv, ho⟩ := Part.settle_done_acts (x := x) (r := { s.part.arm x with
      chain := { (s.part.arm x).chain with walk := .none } }) (flags := flags) (ops := []) h.2.1 hb (by rw [he]; decide)
    rw [hread, e]
    exact ⟨by rw [ho, if_neg hdue, List.append_nil, List.append_nil], hv⟩
  by_cases hc : s.part.isCursor slot = true
  · refine ⟨_, onPart_step s (fun q => q.slotReadDone data) h.1, rfl, fun _ hw => ended _ ?_,
      fun hno => absurd (hc.symm.trans hno) (by simp), fun hno => absurd (hc.symm.trans hno) (by simp)⟩
    have hend := s.part.opDone.endWalk_chain x (by rw [harm]; exact hw)
    rw [harm] at hend
    exact (if_pos (show s.part.opDone.isCursor slot = true from hc)).trans hend
  · by_cases hf : byteAt data 0 = 1
    · obtain ⟨⟨l, hl⟩, hde, hdi, hdb, hdp⟩ := (s.part.posted x slot).adds_dispatch x slot (readSlot data)
      obtain ⟨hpe, -, -, -, -⟩ := s.part.posted_fields x slot he
      have hpost := s.part.posted_eq x slot he
      have hbus : (s.part.posted x slot).busUp := by rw [hpost]; exact Part.acts_busUp.mpr hb
      have hpq : (s.part.posted x slot).opQueue = s.part.opQueue ++ takingOps x slot s.part.now := by
        rw [hpost]; cases x <;> rfl
      have hpi : (s.part.posted x slot).inProgress = none := by rw [hpost, Part.acts_inProgress]; rfl
      have hplace : (((s.part.posted x slot).dispatch x slot (readSlot data)).arm x).place = (some slot, some slot) :=
        (hdp x).trans (by rw [hpost, Part.acts_arm]; rfl)
      generalize hd : (s.part.posted x slot).dispatch x slot (readSlot data) = d at *
      obtain ⟨t, hex, hpend, hops, hview, -⟩ := slotRead_step h he hi ((Bool.not_eq_true _).mp hc) hf hd (hde.trans hpe)
        (hdb.mpr hbus) (by rw [show (d.arm x).chain.openSlot = some slot from (congrArg Prod.snd hplace :)]; rfl)
      have hops0 : d.ops = s.part.opQueue ++ takingOps x slot s.part.now ++ l := by
        unfold Part.ops
        rw [hdi, hpi, hl, hpq]
        rfl
      have hx := Part.arm_view_of_view hview x
      rw [show (d.withArm x (d.arm x).walked 0).arm x = (d.arm x).walked by cases x <;> rfl] at hx
      refine ⟨t, hex, hpend, fun hyes => absurd hyes hc, fun _ _ hno => absurd hf hno, fun _ _ => ⟨⟨l ++ d.dueOps .a ++
        d.dueOps .b, ?_⟩, ?_, ?_, (congrArg (fun r : ArmPart => r.chain.walk) hx :),
        (congrArg (fun r : ArmPart => r.chain.walkAgain) hx :)⟩⟩
      · rw [hops, hops0]
        simp only [List.append_assoc]
      · exact (congrArg (fun r : ArmPart => r.chain.cursor) hx :).trans (congrArg Prod.fst hplace :)
      · exact (congrArg (fun r : ArmPart => r.chain.openSlot) hx :).trans (congrArg Prod.snd hplace :)
    · refine ⟨_, onPart_step s (fun q => q.slotReadDone data) h.1, rfl, fun hyes => absurd hyes hc, fun _ hw _ =>
        ended _ ?_, fun _ hyes => absurd hyes hf⟩
      have hend := s.part.opDone.endWalk_last x (by rw [harm]; exact hw)
      rw [harm] at hend
      exact (if_neg (show ¬ s.part.opDone.isCursor slot = true from hc)).trans ((if_neg hf).trans hend)

end Sys2Proof.Machine

/-! SUPPORT. Leave evaluation without a release (R33, R34). -/

namespace Sys2Proof.Machine

/-! ## One claim -/

/-- A claim once the report's restart mark has been taken (R33). -/
def Claim.restarted (c : Claim) (report : Report) : Claim :=
  if report.restart = true ∧ c.inForce = true then { c with outside := 0 } else c

/-- A claim once a report that does not release it has been evaluated. -/
def Claim.evaluated (c : Claim) (report : Report) : Claim := if c.inForce = true then c.reported report else c

theorem CellBox.touchedBy_eq (b : CellBox) (o : Option CellBox) : b.touchedBy o = o.any fun d => b.shares d := by
  cases o <;> rfl

theorem Claim.countsOutside_iff {c : Claim} (h : c.inForce = true) :
    c.countsOutside = true ↔ c.state = .leaving ∨ (c.mode = .onLeave ∧ c.entered = true) := by
  unfold Claim.countsOutside
  cases hs : c.state with
  | free => rw [Claim.inForce, hs] at h; cases h
  | leaving => simp
  | granted =>
    cases hm : c.mode with
    | explicit => simp
    | onLeave => cases he : c.entered <;> simp

theorem Claim.restarted_fields (c : Claim) (report : Report) : (c.restarted report).inForce = c.inForce ∧
    (c.restarted report).box = c.box ∧ (c.restarted report).entered = c.entered ∧ (c.restarted report).state = c.state ∧
    (c.restarted report).mode = c.mode ∧
    (c.inForce = true → c.restarted report = { c with outside := if report.restart = true then 0 else c.outside }) := by
  unfold Claim.restarted
  by_cases h : report.restart = true ∧ c.inForce = true
  · rw [if_pos h, if_pos h.1]
    exact ⟨rfl, rfl, rfl, rfl, rfl, fun _ => rfl⟩
  · rw [if_neg h]
    refine ⟨rfl, rfl, rfl, rfl, rfl, fun hf => ?_⟩
    rw [if_neg fun hr => h ⟨hr, hf⟩]

section
variable {q : Part} {x : Arm} {n : Nat} {c : Claim} {report : Report}

theorem ArmPart.withClaim_self (r : ArmPart) (n : Nat) : r.withClaim n (r.claims.getD n freeClaim) = r := by
  unfold ArmPart.withClaim
  rw [show r.claims.set n (r.claims.getD n freeClaim) = r.claims from ?_]
  refine List.ext_getElem? fun m => ?_
  rw [List.getElem?_set]
  by_cases h : n = m
  · subst h
    rw [if_pos rfl]
    by_cases hn : n < r.claims.length
    · simp [hn, List.getD_eq_getElem?_getD]
    · simp [hn]
  · rw [if_neg h]

/-- A claim that the report does not release follows leave evaluation. -/
theorem Part.leaveClaim_counts (hc : q.claim x n = c.restarted report) (hno : ¬ c.leaves report q.figures.leaveCount) :
    ∃ k, q.leaveClaim x report.cells n = q.acts x (((q.arm x).withClaim n (c.evaluated report)).due k) 0 [] := by
  obtain ⟨hf, hb, he, hst, hm, hrest⟩ := c.restarted_fields report
  have hself : (q.arm x).withClaim n (c.restarted report) = q.arm x := by
    rw [← hc]; exact (q.arm x).withClaim_self n
  have same : c.restarted report = c.evaluated report → q =
      q.acts x (((q.arm x).withClaim n (c.evaluated report)).due false) 0 [] := fun e => by
    rw [← e, hself, ArmPart.due_false]
    exact (q.acts_self x).symm
  unfold Part.leaveClaim
  dsimp only
  rw [hc, hf, hb, he]
  by_cases hin : c.inForce = true
  · rw [if_pos hin, CellBox.touchedBy_eq, hrest hin]
    have hev : c.evaluated report = c.reported report := if_pos hin
    by_cases ht : report.cells.any (fun d => c.box.shares d) = true
    · have hre : c.reported report = { c with entered := true, outside := 0 } := if_pos ht
      rw [if_pos ht, hev, hre]
      cases hent : c.entered with
      | true => exact ⟨false, by rw [ArmPart.due_false]; exact Part.setClaim_acts ..⟩
      | false =>
        refine ⟨q.marksKept, ?_⟩
        rw [if_neg (by simp), Part.setClaim_acts, Part.markDue_eq]
        simp only [Part.acts_arm, Part.acts_acts, Part.acts_marksKept, BitVec.or_self, List.append_nil]
    · rw [if_neg ht]
      have hcounts : (c.restarted report).countsOutside = true ↔ c.state = .leaving ∨ (c.mode = .onLeave ∧ c.entered = true) := by
        rw [Claim.countsOutside_iff (hf.trans hin), hst, hm, he]
      rw [hrest hin] at hcounts same
      by_cases hco : c.state = .leaving ∨ (c.mode = .onLeave ∧ c.entered = true)
      · have hre : c.reported report = { c with outside := (if report.restart = true then 0 else c.outside) + 1 } :=
          (if_neg ht).trans (if_pos hco)
        have hlow : ¬ q.figures.leaveCount ≤ (if report.restart = true then 0 else c.outside) + 1 := fun hle =>
          hno ⟨hin, (Bool.not_eq_true _).mp ht, hco, by rw [hre]; exact hle⟩
        refine ⟨false, ?_⟩
        rw [if_pos (hcounts.mpr hco), Part.setClaim_acts, Part.acts_figures, if_neg hlow, hev, hre, ArmPart.due_false]
      · have hre : c.reported report = { c with outside := if report.restart = true then 0 else c.outside } :=
          (if_neg ht).trans (if_neg hco)
        rw [if_neg fun hyes => hco (hcounts.mp hyes)]
        exact ⟨false, same (hre.symm.trans hev.symm)⟩
  · rw [if_neg hin]
    have : c.restarted report = c := if_neg fun h => hin h.2
    exact ⟨false, same (this.trans (if_neg hin).symm)⟩

end

/-! ## All claims of a report -/

/-- The claims of an arm, some of which have been evaluated. -/
def ArmPart.claiming (r : ArmPart) (l : List Claim) : ArmPart := { r with claims := l }

/-- Leave evaluation of claims that the report does not release. -/
theorem Part.leaveClaims_count {x : Arm} {report : Report} {f : Nat → Claim} {k : Nat} : ∀ (l : List Nat) (q : Part),
    l.Nodup → (∀ m ∈ l, m < (q.arm x).claims.length) → (∀ m ∈ l, q.claim x m = (f m).restarted report) →
    (∀ m ∈ l, ¬ (f m).leaves report k) → q.figures.leaveCount = k →
    ∃ cl j, l.foldl (fun u n => u.leaveClaim x report.cells n) q = q.acts x (((q.arm x).claiming cl).due j) 0 [] ∧
      cl.length = (q.arm x).claims.length ∧
      ∀ m, cl.getD m freeClaim = if m ∈ l then (f m).evaluated report else q.claim x m
  | [], q, _, _, _, _, _ => ⟨(q.arm x).claims, false, by rw [ArmPart.due_false]; exact (q.acts_self x).symm, rfl,
      fun m => (if_neg (by simp)).symm⟩
  | n :: l, q, hd, hlt, hq, hno, hk => by
    obtain ⟨hnl, hd⟩ := List.nodup_cons.mp hd
    have hn := hlt n List.mem_cons_self
    obtain ⟨j, hj⟩ := Part.leaveClaim_counts (hq n List.mem_cons_self) (by rw [hk]; exact hno n List.mem_cons_self)
    generalize hu : q.acts x (((q.arm x).withClaim n ((f n).evaluated report)).due j) 0 [] = u at hj
    have hux : u.arm x = ((q.arm x).withClaim n ((f n).evaluated report)).due j := by rw [← hu, Part.acts_arm]
    have hlen : (u.arm x).claims.length = (q.arm x).claims.length := by
      rw [hux]; exact List.length_set
    have hclaim : ∀ m, u.claim x m = if m = n then (f n).evaluated report else q.claim x m := fun m => by
      rw [Part.claim, hux]
      exact getD_set_ite _ _ _ _ hn
    obtain ⟨cl, i, hi, hcl, hget⟩ := Part.leaveClaims_count (f := f) (k := k) l u hd
      (fun m hm => by rw [hlen]; exact hlt m (.tail _ hm))
      (fun m hm => by
        have hne : m ≠ n := fun e => hnl (e ▸ hm)
        rw [hclaim, if_neg hne]
        exact hq m (.tail _ hm))
      (fun m hm => hno m (.tail _ hm)) (by rw [← hu, Part.acts_figures]; exact hk)
    refine ⟨cl, j || i, ?_, hcl.trans hlen, fun m => ?_⟩
    · rw [List.foldl_cons, hj, hi, hux, ← hu, Part.acts_acts]
      have harm : ((((q.arm x).withClaim n ((f n).evaluated report)).due j).claiming cl).due i =
          ((q.arm x).claiming cl).due (j || i) := by
        simp [ArmPart.due, ArmPart.claiming, ArmPart.withClaim, Bool.or_assoc]
      rw [harm]
      rfl
    · rw [hget, hclaim]
      by_cases hm : m ∈ l
      · rw [if_pos hm, if_pos (List.mem_cons_of_mem _ hm)]
      · by_cases hmn : m = n
        · subst hmn
          rw [if_neg hm, if_pos rfl, if_pos List.mem_cons_self]
        · rw [if_neg hm, if_neg hmn, if_neg (by simp [hm, hmn])]

/-- The restart mark of a report, taken for every claim in force. -/
theorem Part.restarts_eq (q : Part) (x : Arm) (report : Report) : ∃ cl,
    (if report.restart then q.updArm x fun a => { a with claims := restartCounts a.claims } else q) =
      q.acts x ((q.arm x).claiming cl) 0 [] ∧ cl.length = (q.arm x).claims.length ∧
      ∀ m, cl.getD m freeClaim = (q.claim x m).restarted report := by
  cases hr : report.restart with
  | false =>
    refine ⟨(q.arm x).claims, (if_neg (by simp)).trans (q.acts_self x).symm, rfl, fun m => ?_⟩
    exact (if_neg fun h => by rw [hr] at h; cases h.1).symm
  | true =>
    refine ⟨restartCounts (q.arm x).claims, (if_pos rfl).trans (Part.updArm_eq_acts ..), by simp [restartCounts], fun m => ?_⟩
    unfold restartCounts Part.claim Claim.restarted
    rw [List.getD_eq_getElem?_getD, List.getElem?_map, List.getD_eq_getElem?_getD]
    cases (q.arm x).claims[m]? with
    | none => simp [freeClaim, Claim.inForce]
    | some c => simp [hr]

theorem claimNumbers_mem (m : Nat) : m ∈ claimNumbers ↔ m < 8 := by
  unfold claimNumbers
  simp only [List.mem_cons, List.not_mem_nil, or_false]
  omega

/-- Leave evaluation of a report that releases no claim. -/
theorem Part.leaveEvaluation_counts {q : Part} {x : Arm} {report : Report} (hlen : (q.arm x).claims.length = 8)
    (hno : ∀ m, m < 8 → ¬ (q.claim x m).leaves report q.figures.leaveCount) : ∃ cl j,
    q.leaveEvaluation x report = q.acts x (((q.arm x).claiming cl).due j) 0 [] ∧
      cl.length = 8 ∧ ∀ m, m < 8 → cl.getD m freeClaim = (q.claim x m).evaluated report := by
  obtain ⟨cl, he, hcl, hget⟩ := q.restarts_eq x report
  have hx := q.acts_arm x ((q.arm x).claiming cl) 0 []
  obtain ⟨cl', j, hfold, hcl', hget'⟩ := Part.leaveClaims_count (f := q.claim x) (k := q.figures.leaveCount) claimNumbers
    (q.acts x ((q.arm x).claiming cl) 0 []) (by decide)
    (fun m hm => by
      rw [hx]; show m < cl.length
      rw [hcl, hlen]; exact (claimNumbers_mem m).mp hm)
    (fun m _ => by rw [Part.claim, hx]; exact hget m) (fun m hm => hno m ((claimNumbers_mem m).mp hm))
    (by rw [Part.acts_figures])
  rw [hx, Part.acts_acts] at hfold
  refine ⟨cl', j, ?_, hcl'.trans (by rw [hx]; exact hcl.trans hlen), fun m hm => ?_⟩
  · unfold Part.leaveEvaluation
    dsimp only
    rw [he, hfold]
    rfl
  · rw [hget', if_pos ((claimNumbers_mem m).mpr hm)]

end Sys2Proof.Machine

/-! SUPPORT. The hold reasons that a report adds and removes (R28, R29). -/

namespace Sys2Proof.Machine

/-! ## Arms whose set of hold reasons changes (R29, R91 to R93) -/

/-- The arm v once its hold-reason set has become R: a RUNNING arm starts to hold, a HELD arm without reasons resumes. -/
def Part.regard (p : Part) (v : ArmPart) (R : Reasons) : ArmPart :=
  if v.guard.reasons = R then v
  else if v.guard.state = .running then (p.holdsArm v .breach).withReasons R
  else if v.guard.state = .held ∧ R = noReasons then (v.resumed .park).withReasons R
  else v.withReasons R

section
variable (p : Part) (v : ArmPart) (R : Reasons)

theorem Part.regard_reasons : (p.regard v R).guard.reasons = R := by
  unfold Part.regard
  split
  · next h => exact h
  · split
    · rfl
    · split <;> rfl

theorem Part.regard_frame : p.regard v R = { v with guard := (p.regard v R).guard, link := (p.regard v R).link } := by
  unfold Part.regard
  split
  · rfl
  · split
    · rfl
    · split <;> rfl

theorem Part.regard_due (k : Bool) : p.regard (v.due k) R = (p.regard v R).due k := by
  unfold Part.regard
  by_cases h : v.guard.reasons = R
  · rw [if_pos h, if_pos (show (v.due k).guard.reasons = R from h)]
  · rw [if_neg h, if_neg (show ¬ (v.due k).guard.reasons = R from h)]
    by_cases hr : v.guard.state = .running
    · rw [if_pos hr, if_pos (show (v.due k).guard.state = .running from hr)]; rfl
    · rw [if_neg hr, if_neg (show ¬ (v.due k).guard.state = .running from hr)]
      by_cases hh : v.guard.state = .held ∧ R = noReasons
      · rw [if_pos hh, if_pos (show (v.due k).guard.state = .held ∧ R = noReasons from hh)]; rfl
      · rw [if_neg hh, if_neg (show ¬ ((v.due k).guard.state = .held ∧ R = noReasons) from hh)]; rfl

/-- No arm comes to RUN with reasons in its set. -/
theorem Part.regard_running (h : R ≠ noReasons) (hs : (p.regard v R).guard.state = .running) :
    v.guard.reasons = R ∧ v.guard.state = .running := by
  unfold Part.regard at hs
  by_cases hR : v.guard.reasons = R
  · rw [if_pos hR] at hs; exact ⟨hR, hs⟩
  · rw [if_neg hR] at hs
    by_cases hr : v.guard.state = .running
    · rw [if_pos hr] at hs; cases hs
    · rw [if_neg hr, if_neg fun hh => h hh.2] at hs
      exact absurd hs hr

/-- Of two changes of the set that leave reasons in it, the second counts. -/
theorem Part.regard_regard {R' : Reasons} (h : R ≠ noReasons) (h' : R' ≠ noReasons)
    (hne : v.guard.reasons ≠ R → v.guard.reasons ≠ R') : p.regard (p.regard v R) R' = p.regard v R' := by
  by_cases hR : v.guard.reasons = R
  · rw [show p.regard v R = v from if_pos hR]
  have hR' := hne hR
  by_cases hr : v.guard.state = .running
  · have e : p.regard v R = (p.holdsArm v .breach).withReasons R := (if_neg hR).trans (if_pos hr)
    have e' : p.regard v R' = (p.holdsArm v .breach).withReasons R' := (if_neg hR').trans (if_pos hr)
    rw [e, e']
    by_cases hRR : R = R'
    · exact (if_pos hRR).trans (by rw [hRR])
    · exact (if_neg hRR).trans ((if_neg (by simp [ArmPart.withReasons, Part.holdsArm])).trans (if_neg fun hh => h' hh.2))
  · have e : p.regard v R = v.withReasons R := (if_neg hR).trans ((if_neg hr).trans (if_neg fun hh => h hh.2))
    have e' : p.regard v R' = v.withReasons R' := (if_neg hR').trans ((if_neg hr).trans (if_neg fun hh => h' hh.2))
    rw [e, e']
    by_cases hRR : R = R'
    · exact (if_pos hRR).trans (by rw [hRR])
    · exact (if_neg hRR).trans ((if_neg hr).trans (if_neg fun hh => h' hh.2))

end

section
variable (p : Part) (x : Arm)

/-- The cause flag of an arm whose set of hold reasons becomes R. -/
def Part.regardFlag (R : Reasons) : Word := if R = (p.arm x).guard.reasons then 0 else causeBit (armCause x)

theorem Part.addReason_regards (q : HoldReason) : ∃ k, p.addReason x q = p.acts x
    ((p.regard (p.arm x) ((p.arm x).guard.reasons.put true q)).due k) (p.regardFlag x ((p.arm x).guard.reasons.put true q)) [] := by
  unfold Part.regardFlag
  cases hq : (p.arm x).guard.reasons.has q with
  | true =>
    have he := Reasons.put_of_has _ _ _ hq
    refine ⟨false, ?_⟩
    rw [p.addReason_present x q hq, he, if_pos rfl, Part.regard, if_pos rfl, ArmPart.due_false]
    exact (p.acts_self x).symm
  | false =>
    have hne : (p.arm x).guard.reasons.put true q ≠ (p.arm x).guard.reasons := fun e => by
      have := congrArg (fun r : Reasons => r.has q) e
      rw [hq] at this
      cases q <;> cases this
    refine ⟨p.marksKept, ?_⟩
    rw [if_neg hne, Part.regard, if_neg (Ne.symm hne)]
    by_cases hs : (p.arm x).guard.state = .running
    · rw [p.addReason_running x q hq hs, if_pos hs]; rfl
    · rw [p.addReason_staying x q hq hs, if_neg hs, if_neg fun hh => by
        have := congrArg (fun r : Reasons => r.has q) hh.2
        cases q <;> cases this]
      rfl

theorem Part.removePark_regards (hp : (p.arm x).guard.reasons.park = true) (hs : (p.arm x).guard.state ≠ .running) :
    ∃ k, p.removeReason x .park = p.acts x ((p.regard (p.arm x) ((p.arm x).guard.reasons.put false .park)).due k)
      (p.regardFlag x ((p.arm x).guard.reasons.put false .park)) [] := by
  have hne : (p.arm x).guard.reasons.put false .park ≠ (p.arm x).guard.reasons := fun e => by
    have := congrArg Reasons.park e
    rw [hp] at this; cases this
  refine ⟨p.marksKept, ?_⟩
  unfold Part.regardFlag
  rw [if_neg hne, Part.regard, if_neg (Ne.symm hne), if_neg hs]
  by_cases hl : (p.arm x).guard.state = .held ∧ (p.arm x).guard.reasons.put false .park = noReasons
  · rw [p.removeReason_last x .park hp hl.1 hl.2, if_pos hl]; rfl
  · rw [p.removeReason_staying x .park hp hl, if_neg hl]; rfl

/-- The comparison with the park limit as a change of the set (R29). -/
theorem Part.compareParkLimit_regards : ∃ w k, p.compareParkLimit x =
      p.acts x (w.due k) (p.regardFlag x (p.parkReasons (p.arm x))) [] ∧ w.guard.reasons = p.parkReasons (p.arm x) ∧
      w = { p.arm x with guard := w.guard, link := w.link } ∧
      (((p.arm x).guard.state = .running → (p.arm x).guard.reasons.park = false) →
        w = p.regard (p.arm x) (p.parkReasons (p.arm x))) := by
  obtain ⟨he, e⟩ | ⟨-, he, e⟩ | ⟨hq, he, e⟩ := p.compareParkLimit_moves x <;> rw [e, he]
  · refine ⟨p.arm x, false, ?_, rfl, rfl, fun _ => (if_pos rfl).symm⟩
    rw [Part.regardFlag, if_pos rfl, ArmPart.due_false]
    exact (p.acts_self x).symm
  · obtain ⟨k, hk⟩ := p.addReason_regards x .park
    exact ⟨_, k, hk, p.regard_reasons _ _, p.regard_frame _ _, fun _ => rfl⟩
  · by_cases hs : (p.arm x).guard.state = .running
    · have hne : (p.arm x).guard.reasons.put false .park ≠ (p.arm x).guard.reasons := fun e => by
        have := congrArg Reasons.park e
        rw [hq] at this; cases this
      refine ⟨(p.arm x).withReason false .park, p.marksKept, ?_, rfl, rfl, fun h => by rw [h hs] at hq; cases hq⟩
      rw [p.removeReason_staying x .park hq fun hh => (by rw [hs] at hh; cases hh.1), Part.regardFlag, if_neg hne]
    · obtain ⟨k, hk⟩ := p.removePark_regards x hq hs
      exact ⟨_, k, hk, p.regard_reasons _ _, p.regard_frame _ _, fun _ => rfl⟩

end

/-! ## Classification (R27 to R30) -/

/-- The hold reasons after a report (R28, R29). -/
def Part.reportReasons (p : Part) (g : Guard) (foreign : Bool) (count : Nat) : Reasons :=
  { g.reasons with
    breach := g.reasons.breach || foreign
    park := if p.figures.parkLimit = 255 then g.reasons.park else decide (p.figures.parkLimit < count) }

/-- A cause flag that both of two changes set, or neither. -/
theorem or_flags {A B C : Prop} [Decidable A] [Decidable B] [Decidable C] {f b a : Word} (h : C ↔ A ∧ B) :
    f ||| (if A then 0 else a) ||| b ||| (if B then 0 else a) = f ||| b ||| (if C then 0 else a) := by
  refine BitVec.eq_of_getLsbD_eq fun i _ => ?_
  simp only [BitVec.getLsbD_or, h]
  by_cases hA : A <;> by_cases hB : B <;> simp [hA, hB]
  all_goals cases a.getLsbD i <;> simp

section
variable (q : Part) (x : Arm) (v : ArmPart)

/-- BREACH and PARK of a report whose cells have joined: x's share was `v` before. -/
theorem Part.reportReasons_regards (f0 : Word) (foreign : Bool) : ∃ w k,
    (if foreign then (Part.addReason (q.acts x v f0 []) x .breach).setCause .breach else q.acts x v f0 []).compareParkLimit x =
      q.acts x (w.due k) (f0 ||| (if foreign then causeBit .breach else 0) |||
        (if q.reportReasons v.guard foreign v.parkCount = v.guard.reasons then 0 else causeBit (armCause x))) [] ∧
      w.guard.reasons = q.reportReasons v.guard foreign v.parkCount ∧ w = { v with guard := w.guard, link := w.link } ∧
      ((v.guard.state = .running → v.guard.reasons = noReasons) →
        w = q.regard v (q.reportReasons v.guard foreign v.parkCount)) := by
  have hz : ∀ w : Word, w ||| 0 = w := fun w => BitVec.or_zero
  have hregard : ∀ (u : ArmPart) (f : Word) (w : ArmPart) (R : Reasons), (q.acts x u f []).regard w R = q.regard w R :=
    fun u f w R => by unfold Part.regard Part.holdsArm; rw [Part.acts_now, Part.acts_figures]
  cases foreign with
  | false =>
    rw [if_neg (by simp), if_neg (by simp), hz]
    obtain ⟨w, k, he, hr, hframe, hw⟩ := (q.acts x v f0 []).compareParkLimit_regards x
    have hR : (q.acts x v f0 []).parkReasons v = q.reportReasons v.guard false v.parkCount := by
      unfold Part.parkReasons Part.reportReasons
      rw [Part.acts_figures, Bool.or_false]
    rw [Part.regardFlag, Part.acts_arm, hR, Part.acts_acts] at he
    rw [Part.acts_arm, hR] at hr hw
    rw [Part.acts_arm] at hframe
    rw [hregard] at hw
    exact ⟨w, k, he, hr, hframe, fun hrun => hw fun hs => by rw [hrun hs]; rfl⟩
  | true =>
    rw [if_pos rfl, if_pos rfl]
    obtain ⟨j, hj⟩ := (q.acts x v f0 []).addReason_regards x .breach
    rw [Part.regardFlag, Part.acts_arm, hregard, Part.acts_acts, List.append_nil] at hj
    generalize hu : q.regard v (v.guard.reasons.put true .breach) = u at hj
    have hur : u.guard.reasons = v.guard.reasons.put true .breach := by rw [← hu]; exact q.regard_reasons _ _
    have huf : u = { v with guard := u.guard, link := u.link } := by rw [← hu]; exact q.regard_frame _ _
    rw [hj, Part.acts_setCause]
    generalize hf : f0 ||| _ ||| causeBit .breach = f1
    obtain ⟨w, k, he, hr, hframe, hw⟩ := (q.acts x (u.due j) f1 []).compareParkLimit_regards x
    have hbr : v.guard.reasons.put true .breach ≠ noReasons := Reasons.put_true_ne _ .breach
    have hR : (q.acts x (u.due j) f1 []).parkReasons (u.due j) = q.reportReasons v.guard true v.parkCount := by
      unfold Part.parkReasons Part.reportReasons
      rw [Part.acts_figures, show (u.due j).guard.reasons = v.guard.reasons.put true .breach from hur,
        show (u.due j).parkCount = v.parkCount from (congrArg ArmPart.parkCount huf :), Bool.or_true]
      rfl
    generalize hRR : q.reportReasons v.guard true v.parkCount = R at hR
    have hRb : R.breach = true := by rw [← hRR]; exact Bool.or_true _
    have hRne : R ≠ noReasons := fun h => by rw [h] at hRb; cases hRb
    rw [Part.regardFlag, Part.acts_arm, hR, Part.acts_acts, List.append_nil] at he
    rw [Part.acts_arm, hR] at hr hw
    rw [Part.acts_arm] at hframe
    rw [hregard] at hw
    have hw' : w = ({ v with guard := w.guard, link := w.link } : ArmPart).due j := by
      rw [huf] at hframe
      exact hframe
    refine ⟨{ v with guard := w.guard, link := w.link }, j || k, ?_, hr, rfl, fun hrun => ?_⟩
    · rw [he, ← hf, show (u.due j).guard.reasons = v.guard.reasons.put true .breach from hur,
        or_flags (C := R = v.guard.reasons) ⟨fun e => ?_, fun e => e.2.trans e.1⟩]
      · generalize hs : ({ v with guard := w.guard, link := w.link } : ArmPart) = s at hw' ⊢
        rw [hw']
        simp [ArmPart.due, Bool.or_assoc]
      · have hb : v.guard.reasons.put true .breach = v.guard.reasons := by
          have : v.guard.reasons.breach = true := by rw [← e]; exact hRb
          rw [Reasons.put, ← this]
        exact ⟨hb, e.trans hb.symm⟩
    · have hwr := hw fun hs => by
        have hrs : (q.regard v (v.guard.reasons.put true .breach)).guard.state = .running := by rw [hu]; exact hs
        obtain ⟨he, hv⟩ := q.regard_running v _ hbr hrs
        exact absurd (he.symm.trans (hrun hv)) hbr
      rw [Part.regard_due, ← hu, q.regard_regard v _ hbr hRne fun h e => h (by
        have : v.guard.reasons.breach = true := by rw [e]; exact hRb
        rw [Reasons.put, ← this])] at hwr
      rw [hwr]
      exact (q.regard_frame v R).symm

end

end Sys2Proof.Machine

/-! SUPPORT. The classification of an envelope report (R26 to R30, R53). -/

namespace Sys2Proof.Machine

/-! ## The RESERVE that a crossing refuses (R50, R53) -/

/-- Where the pending RESERVEs cross over the table t: the younger of them, with its arm. -/
def Part.refusal (p : Part) (t : CellTable) : Option (Arm × PendingReserve) :=
  match p.armA.waiting, p.armB.waiting with
  | some wa, some wb =>
    if (p.setTable t).crossing wa wb then some (if wa.age = .younger then (.a, wa) else (.b, wb)) else none
  | _, _ => none

/-- x's share once a refused RESERVE, if it is x's, has ended. -/
def ArmPart.refusedIn (v : ArmPart) (refused : Option (Arm × PendingReserve)) (x : Arm) : ArmPart :=
  if refused.any (fun e => e.1 == x) = true then { v with waiting := none, chain := { v.chain with answered := true } }
  else v

/-- The writes that answer a refused RESERVE. -/
def refusalOps (refused : Option (Arm × PendingReserve)) (now : Word) : List MemOp :=
  refused.elim [] fun e => answerOps e.1 e.2.slot now .crossed e.2.figures

/-- Pending RESERVEs can be answered and their ages differ. -/
def Part.pendingFit (p : Part) : Prop := ∀ wa wb, p.armA.waiting = some wa → p.armB.waiting = some wb →
  p.engine = .serving ∧ wa.age ≠ wb.age ∧ p.armA.chain.openSlot = some wa.slot ∧ p.armB.chain.openSlot = some wb.slot

section
variable {p : Part} {v : ArmPart} {z : Arm} {w : PendingReserve} {t : CellTable}

theorem ArmPart.refusedIn_none : v.refusedIn none z = v := if_neg (by simp)

theorem ArmPart.refusedIn_same : v.refusedIn (some (z, w)) z = ({ v with waiting := none } : ArmPart).replied true := by
  rw [ArmPart.replied_true]
  exact if_pos (by simp)

theorem ArmPart.refusedIn_other {x : Arm} (h : z ≠ x) : v.refusedIn (some (z, w)) x = v := if_neg (by simp [h])

theorem ArmPart.refusedIn_due {refused : Option (Arm × PendingReserve)} (k : Bool) :
    (v.due k).refusedIn refused z = (v.refusedIn refused z).due k := by
  unfold ArmPart.refusedIn
  split <;> rfl

theorem Part.refusal_congr {q : Part} (h : ∀ z, (q.arm z).waiting = (p.arm z).waiting) : q.refusal t = p.refusal t := by
  unfold Part.refusal
  rw [show q.armA.waiting = p.armA.waiting from h .a, show q.armB.waiting = p.armB.waiting from h .b]
  rfl

/-- What a refused RESERVE was. -/
theorem Part.refusal_some (hf : p.pendingFit) (h : p.refusal t = some (z, w)) :
    (p.arm z).waiting = some w ∧ p.answerable z w.slot = true := by
  unfold Part.refusal at h
  cases ha : p.armA.waiting with
  | none => rw [ha] at h; cases h
  | some wa =>
    cases hb : p.armB.waiting with
    | none => rw [ha, hb] at h; cases h
    | some wb =>
      obtain ⟨he, -, hoa, hob⟩ := hf wa wb ha hb
      rw [ha, hb] at h
      dsimp only at h
      split at h
      · split at h <;> cases h
        · exact ⟨ha, (p.answerable_iff .a _).mpr ⟨he, hoa⟩⟩
        · exact ⟨hb, (p.answerable_iff .b _).mpr ⟨he, hob⟩⟩
      · cases h

theorem Part.crossingCheck_refuses (hf : p.pendingFit) :
    p.crossingCheck = (p.refusal p.table).elim p fun e => p.endWaiting e.1 .crossed := by
  unfold Part.crossingCheck Part.refusal Part.olderArm
  cases ha : p.armA.waiting with
  | none => rfl
  | some wa =>
    cases hb : p.armB.waiting with
    | none => rfl
    | some wb =>
      obtain ⟨-, hne, -⟩ := hf wa wb ha hb
      dsimp only
      rw [show p.setTable p.table = p from rfl]
      by_cases hc : p.crossing wa wb = true
      · rw [if_pos hc, if_pos hc]
        cases hwa : wa.age with
        | younger =>
          have : wb.age = .older := by
            cases hwb : wb.age with
            | older => rfl
            | younger => exact absurd (hwa.trans hwb.symm) hne
          rw [if_pos this, if_pos rfl]; rfl
        | older =>
          rw [if_neg fun h => hne (hwa.trans h.symm), if_neg (by simp)]; rfl
      · rw [if_neg hc, if_neg hc]; rfl

end

/-- The crossing check, where x's share and the other arm's have become `v` and `u`. -/
theorem Part.crossingCheck_pair {p : Part} {x : Arm} {v u : ArmPart} {flags : Word}
    (hf : (p.pair x v u flags []).pendingFit) : (p.pair x v u flags []).crossingCheck =
      p.pair x (v.refusedIn ((p.pair x v u flags []).refusal p.table) x)
        (u.refusedIn ((p.pair x v u flags []).refusal p.table) x.other) flags
        (refusalOps ((p.pair x v u flags []).refusal p.table) p.now) := by
  have hc := Part.crossingCheck_refuses hf
  rw [Part.pair_table] at hc
  rw [hc]
  cases hr : (p.pair x v u flags []).refusal p.table with
  | none => rw [ArmPart.refusedIn_none, ArmPart.refusedIn_none]; rfl
  | some e =>
    obtain ⟨z, w⟩ := e
    obtain ⟨hw, ha⟩ := Part.refusal_some hf hr
    show (p.pair x v u flags []).endWaiting z .crossed = _
    have h0 : flags ||| (0 : Word) = flags := BitVec.or_zero
    have hops : (p.pair x v u flags []).resultOps z w.slot .crossed w.figures =
        answerOps z w.slot p.now .crossed w.figures := by
      unfold Part.resultOps
      rw [if_pos ha, Part.pair_now]
    rw [Part.endWaiting_eq _ z w _ hw, ha, hops]
    show _ = p.pair x _ _ flags (answerOps z w.slot p.now .crossed w.figures)
    by_cases hz : z = x
    · subst hz
      rw [ArmPart.refusedIn_same, ArmPart.refusedIn_other (by simp), Part.pair_arm, Part.pair_acts, h0, List.nil_append]
    · obtain rfl := Arm.eq_other_of_ne hz
      rw [ArmPart.refusedIn_same, ArmPart.refusedIn_other (by simp), Part.pair_other, Part.pair, Part.acts_acts]
      exact Part.acts_then_other ..

/-! ## Classification -/

theorem Part.acts_eq_pair (p : Part) (x : Arm) (r : ArmPart) (flags : Word) (ops : List MemOp) :
    p.acts x r flags ops = p.pair x r (p.arm x.other) flags ops := by
  have h := (p.acts x r flags ops).acts_self x.other
  rw [Part.acts_arm_other] at h
  exact h.symm

/-- An arm whose queue of reports is the one given. -/
def ArmPart.reporting (r : ArmPart) (rs : List Report) : ArmPart := { r with reports := rs }

section
variable (p : Part) (x : Arm) (v : ArmPart) (cells : Option CellBox)

/-- The table once the free cells that a report touches have joined x's park claim (R27). -/
def Part.grownTable : CellTable := p.table.addAll x parkNumber (p.joining cells)

/-- The RESERVE that a report of x refuses: none unless cells have joined. -/
def Part.reportRefusal : Option (Arm × PendingReserve) :=
  if p.joining cells = [] then none else p.refusal (p.grownTable x cells)

/-- The hold reasons of x after a report. -/
def Part.reportedReasons : Reasons := p.reportReasons v.guard (p.table.foreignTouch x (p.table.cellsOf cells))
  (v.parkCount + (p.joining cells).length)

/-- The cause flags of a report. -/
def Part.reportFlags : Word :=
  (if p.joining cells = [] then 0 else causeBit .park) |||
    (if p.table.foreignTouch x (p.table.cellsOf cells) = true then causeBit .breach else 0) |||
    (if p.reportedReasons x v cells = v.guard.reasons then 0 else causeBit (armCause x))

variable {p x v cells}

/-- The classification of a report of an arm, before a crossing is looked for. -/
theorem Part.classify_regards : ∃ w k,
    (let q := (p.acts x v 0 []).growPark x (p.table.cellsOf cells)
     (if p.table.foreignTouch x (p.table.cellsOf cells) then (q.addReason x .breach).setCause .breach
       else q).compareParkLimit x) =
      (p.setTable (p.grownTable x cells)).acts x (w.due k) (p.reportFlags x v cells) [] ∧
      w.guard.reasons = p.reportedReasons x v cells ∧
      w = { v.parking (v.parkCount + (p.joining cells).length) with guard := w.guard, link := w.link } ∧
      ((v.guard.state = .running → v.guard.reasons = noReasons) →
        w = p.regard (v.parking (v.parkCount + (p.joining cells).length)) (p.reportedReasons x v cells)) := by
  have hgrow := (p.acts x v 0 []).growPark_eq x (p.table.cellsOf cells)
  rw [Part.acts_arm, Part.acts_table, Part.acts_setTable, Part.acts_acts] at hgrow
  generalize hj : ((p.acts x v 0 []).marksKept && !(p.table.freeCells (p.table.cellsOf cells)).isEmpty) = j at hgrow
  generalize hn : v.parkCount + (p.joining cells).length = n
  have hgrow' : (p.acts x v 0 []).growPark x (p.table.cellsOf cells) = (p.setTable (p.grownTable x cells)).acts x
      ((v.parking n).due j) (if p.joining cells = [] then 0 else causeBit .park) [] := by
    rw [← hn, hgrow]
    exact congrArg (fun w => Part.acts _ x _ w []) BitVec.zero_or
  generalize hT : p.setTable (p.grownTable x cells) = q at hgrow'
  have hqr : ∀ u R, q.regard u R = p.regard u R := fun u R => by rw [← hT]; rfl
  dsimp only
  rw [hgrow']
  obtain ⟨w, k, he, hr, hframe, hw⟩ := q.reportReasons_regards x ((v.parking n).due j)
    (if p.joining cells = [] then 0 else causeBit .park) (p.table.foreignTouch x (p.table.cellsOf cells))
  have hR : q.reportReasons ((v.parking n).due j).guard (p.table.foreignTouch x (p.table.cellsOf cells))
      ((v.parking n).due j).parkCount = p.reportedReasons x v cells := by
    unfold Part.reportedReasons
    rw [hn, ← hT]
    rfl
  rw [hR] at he hr hw
  rw [hqr, Part.regard_due] at hw
  generalize hs : ({ v.parking n with guard := w.guard, link := w.link } : ArmPart) = s
  have hws : w = s.due j := by rw [← hs]; exact hframe
  have hsg : s.guard = w.guard ∧ s.link = w.link := by rw [← hs]; exact ⟨rfl, rfl⟩
  refine ⟨s, j || k, ?_, by rw [hsg.1]; exact hr, by rw [hsg.1, hsg.2]; exact hs.symm, fun hrun => ?_⟩
  · rw [he, hws]
    simp only [ArmPart.due, Bool.or_assoc]
    rfl
  · have h := hws.symm.trans (hw hrun)
    generalize hu : p.regard (v.parking n) (p.reportedReasons x v cells) = u at h
    have hf := p.regard_frame (v.parking n) (p.reportedReasons x v cells)
    rw [hu] at hf
    rw [hf, ← show s.guard = u.guard from (congrArg ArmPart.guard h :), ← show s.link = u.link from (congrArg ArmPart.link h :),
      hsg.1, hsg.2]
    exact hs.symm

/-- The classification of a report of an arm. -/
theorem Part.classify_pair (hv : v.waiting = (p.arm x).waiting) (hop : v.chain.openSlot = (p.arm x).chain.openSlot)
    (hf : p.pendingFit) : ∃ w k, (p.acts x v 0 []).classify x (p.table.cellsOf cells) =
      (p.setTable (p.grownTable x cells)).pair x ((w.refusedIn (p.reportRefusal x cells) x).due k)
        ((p.arm x.other).refusedIn (p.reportRefusal x cells) x.other) (p.reportFlags x v cells)
        (refusalOps (p.reportRefusal x cells) p.now) ∧
      w.guard.reasons = p.reportedReasons x v cells ∧
      w = { v.parking (v.parkCount + (p.joining cells).length) with guard := w.guard, link := w.link } ∧
      ((v.guard.state = .running → v.guard.reasons = noReasons) →
        w = p.regard (v.parking (v.parkCount + (p.joining cells).length)) (p.reportedReasons x v cells)) := by
  obtain ⟨w, k, he, hr, hframe, hw⟩ := p.classify_regards (x := x) (v := v) (cells := cells)
  refine ⟨w, k, ?_, hr, hframe, hw⟩
  dsimp only at he
  rw [(p.setTable (p.grownTable x cells)).acts_eq_pair x (w.due k), show (p.setTable (p.grownTable x cells)).arm x.other =
    p.arm x.other by cases x <;> rfl] at he
  have hdone : (p.acts x v 0 []).classify x (p.table.cellsOf cells) = if p.joining cells = [] then
      (p.setTable (p.grownTable x cells)).pair x (w.due k) (p.arm x.other) (p.reportFlags x v cells) []
      else ((p.setTable (p.grownTable x cells)).pair x (w.due k) (p.arm x.other) (p.reportFlags x v cells) []).crossingCheck := by
    rw [← he]
    unfold Part.classify
    rw [Part.acts_table]
    rfl
  rw [hdone]
  unfold Part.reportRefusal
  by_cases hj : p.joining cells = []
  · rw [if_pos hj, if_pos hj, ArmPart.refusedIn_none, ArmPart.refusedIn_none]; rfl
  · rw [if_neg hj, if_neg hj]
    have hwait : ∀ z, (((p.setTable (p.grownTable x cells)).pair x (w.due k) (p.arm x.other)
        (p.reportFlags x v cells) []).arm z).waiting = (p.arm z).waiting ∧
        (((p.setTable (p.grownTable x cells)).pair x (w.due k) (p.arm x.other)
        (p.reportFlags x v cells) []).arm z).chain.openSlot = (p.arm z).chain.openSlot := fun z => by
      by_cases hz : z = x
      · subst hz
        rw [Part.pair_arm]
        exact ⟨(congrArg ArmPart.waiting hframe :).trans hv, (congrArg (fun a : ArmPart => a.chain.openSlot) hframe :).trans hop⟩
      · obtain rfl := Arm.eq_other_of_ne hz
        rw [Part.pair_other]
        exact ⟨rfl, rfl⟩
    have hfit : ((p.setTable (p.grownTable x cells)).pair x (w.due k) (p.arm x.other)
        (p.reportFlags x v cells) []).pendingFit := fun wa wb ha hb => by
      obtain ⟨h1, h2, h3, h4⟩ := hf wa wb ((hwait .a).1.symm.trans ha) ((hwait .b).1.symm.trans hb)
      exact ⟨(Part.pair_engine ..).trans h1, h2, (hwait .a).2.trans h3, (hwait .b).2.trans h4⟩
    rw [Part.crossingCheck_pair hfit, Part.refusal_congr (p := p) fun z => (hwait z).1, ArmPart.refusedIn_due]
    rfl

end

end Sys2Proof.Machine

/-! SUPPORT. The effects of a report that releases no claim (R26 to R35). -/

namespace Sys2Proof.Machine

/-! ## A command that moves the table and both arms -/

theorem Part.dueOps_status {p : Part} {x : Arm} {o : MemOp} (h : o ∈ p.dueOps x) : o = .statusWrite x := by
  unfold Part.dueOps at h
  split at h
  · exact List.mem_singleton.mp h
  · cases h

/-- A command that moves the table and both arms: the state it answers, up to status blocks. -/
theorem onPart_both {s : State} {f : Part → Part} {x : Arm} {r z : ArmPart} {flags : Word} {ops : List MemOp}
    {t : CellTable} (h : s.part.steady) (hc : s.part.carries) (hg : s.part.guarding = true)
    (hf : f s.part = (s.part.setTable t).pair x r z flags ops) :
    ∃ q, onPart s (fun p => p.step f) = .next q ∧ q.pending = s.pending ∧
      (∃ blocks, q.part.ops = s.part.ops ++ ops ++ blocks ∧ ∀ o ∈ blocks, o = .statusWrite .a ∨ o = .statusWrite .b) ∧
      q.part.view = ((s.part.setTable t).pair x r z flags ops).view ∧ q.part.linesDriven := by
  have hstep := onPart_step s f h.1
  rw [hf] at hstep
  generalize hD : (s.part.setTable t).pair x r z flags ops = d at hstep
  have hcd : d.carries := by
    rw [← hD]
    unfold Part.carries Part.pair at *
    simpa [Part.setTable] using hc
  have hne : d.engine ≠ .closing := fun he => by
    rw [← hD, Part.pair_engine, show (s.part.setTable t).engine = s.part.engine from rfl] at he
    unfold Part.guarding at hg
    rw [he] at hg
    cases hg
  obtain ⟨hv, hops⟩ := Part.settle_carries s.part d hcd fun hcl => absurd hcl hne
  refine ⟨_, hstep, rfl, ⟨d.dueOps .a ++ d.dueOps .b, ?_, fun o ho => ?_⟩, hv, Part.settle_linesDriven _ _⟩
  · have h0 : d.ops = s.part.ops ++ ops := by
      rw [← hD]; simp [Part.pair, Part.ops, Part.setTable]
    refine hops.trans ?_
    rw [h0, List.append_assoc]
  · rcases List.mem_append.mp ho with ho | ho
    · exact .inl (Part.dueOps_status ho)
    · exact .inr (Part.dueOps_status ho)

/-- The view of a part whose table and arms have moved, from the views of the arms. -/
theorem Part.pair_view (p : Part) (t : CellTable) (x : Arm) {r u : ArmPart} (h : r.view = u.view) (g : ArmPart → ArmPart)
    (flags : Word) (ops : List MemOp) : ((p.setTable t).pair x r (g (p.arm x.other)) flags ops).view =
      ({ (p.withArm x u flags).updArm x.other g with table := t } : Part).view := by
  have h0 : p.cause ||| flags ||| (0 : Word) = p.cause ||| flags := BitVec.or_zero
  cases x <;>
    simp [Part.pair, Part.acts, Part.withArm, Part.updArm, Part.view, Part.setTable, Part.arm, Arm.other, h]

/-! ## A report of an arm in RUNNING, HELD or STOPPED -/

section
variable {p : Part} {x : Arm} {report : Report} {rest : List Report}

theorem Part.nextReport_eq (hr : (p.arm x).reports = report :: rest) :
    p.nextReport x = (p.acts x ((p.arm x).reporting rest) 0 []).takeReport x report := by
  unfold Part.nextReport
  rw [hr]
  dsimp only
  rw [Part.updArm_eq_acts]
  rfl

theorem Part.takeReport_evaluates {q : Part} (hg : q.guarding = true) (hs : (q.arm x).guard.state = .running ∨
    (q.arm x).guard.state = .held ∨ (q.arm x).guard.state = .stopped) :
    q.takeReport x report = (q.classify x (q.table.cellsOf report.cells)).leaveEvaluation x report := by
  unfold Part.takeReport
  rw [if_pos hg]
  rcases hs with hs | hs | hs <;> rw [hs]

/-- A report that releases no claim, as effects on the table and both arms. -/
theorem Part.nextReport_pair (hr : (p.arm x).reports = report :: rest) (hg : p.guarding = true)
    (hs : (p.arm x).guard.state = .running ∨ (p.arm x).guard.state = .held ∨ (p.arm x).guard.state = .stopped)
    (ht : p.tableLaw) (hf : p.pendingFit) (hno : ∀ m, m < 8 → ¬ (p.claim x m).leaves report p.figures.leaveCount) :
    ∃ w cl k, p.nextReport x = (p.setTable (p.grownTable x report.cells)).pair x
        (((w.claiming cl).refusedIn (p.reportRefusal x report.cells) x).due k)
        ((p.arm x.other).refusedIn (p.reportRefusal x report.cells) x.other)
        (p.reportFlags x (p.arm x) report.cells) (refusalOps (p.reportRefusal x report.cells) p.now) ∧
      w.guard.reasons = p.reportedReasons x (p.arm x) report.cells ∧
      w = { ((p.arm x).reporting rest).parking ((p.arm x).parkCount + (p.joining report.cells).length) with
        guard := w.guard, link := w.link } ∧
      (((p.arm x).guard.state = .running → (p.arm x).guard.reasons = noReasons) →
        w = p.regard (((p.arm x).reporting rest).parking ((p.arm x).parkCount + (p.joining report.cells).length))
          (p.reportedReasons x (p.arm x) report.cells)) ∧
      ∀ m, m < 8 → cl.getD m freeClaim = (p.claim x m).evaluated report := by
  have hx := p.acts_arm x ((p.arm x).reporting rest) 0 []
  obtain ⟨w, k, hclass, hwr, hframe, hw⟩ := Part.classify_pair (v := (p.arm x).reporting rest) (cells := report.cells)
    rfl rfl hf
  have htake := (Part.nextReport_eq hr).trans (Part.takeReport_evaluates (x := x) (report := report)
    (by rw [Part.acts_guarding]; exact hg) (by rw [hx]; exact hs))
  rw [Part.acts_table, hclass] at htake
  generalize hq : (p.setTable (p.grownTable x report.cells)).pair x _ _ _ _ = q at htake
  have hqx : q.arm x = (w.refusedIn (p.reportRefusal x report.cells) x).due k := by rw [← hq, Part.pair_arm]
  have hclaims : (q.arm x).claims = (p.arm x).claims := by
    rw [hqx]
    have hwc : w.claims = (p.arm x).claims := (congrArg ArmPart.claims hframe :)
    unfold ArmPart.refusedIn
    split <;> exact hwc
  obtain ⟨cl, j, hev, -, hget⟩ := Part.leaveEvaluation_counts (q := q) (x := x) (report := report)
    (by rw [hclaims]; exact ht.claims_length x) (fun m hm => by
      rw [Part.claim, hclaims, show q.figures = p.figures by rw [← hq, Part.pair_figures]; rfl]
      exact hno m hm)
  refine ⟨w, cl, k || j, ?_, hwr, hframe, hw, fun m hm => ?_⟩
  · rw [htake, hev, hqx, ← hq, Part.pair_acts, List.append_nil]
    have h0 : p.reportFlags x ((p.arm x).reporting rest) report.cells ||| (0 : Word) =
        p.reportFlags x (p.arm x) report.cells := BitVec.or_zero
    rw [h0]
    have harm : (((w.refusedIn (p.reportRefusal x report.cells) x).due k).claiming cl).due j =
        ((w.claiming cl).refusedIn (p.reportRefusal x report.cells) x).due (k || j) := by
      unfold ArmPart.refusedIn
      split <;> simp [ArmPart.due, ArmPart.claiming, Bool.or_assoc]
    rw [harm]
  · rw [hget m hm, Part.claim, hclaims]
    rfl

end

/-! ## What an arm becomes -/

section
variable {p : Part} {v : ArmPart} {R : Reasons}

/-- An arm that neither starts to hold nor resumes. -/
theorem Part.regard_stays (h : v.guard.state = .running → v.guard.reasons = R)
    (h' : v.guard.state = .held → R = noReasons → v.guard.reasons = noReasons) : p.regard v R = v.withReasons R := by
  by_cases hR : v.guard.reasons = R
  · rw [Part.regard, if_pos hR, ← hR]; rfl
  · rw [Part.regard, if_neg hR, if_neg fun hs => hR (h hs), if_neg fun hh => hR ((h' hh.1 hh.2).trans hh.2.symm)]

end

/-! ## The cause flags of a report -/

section
variable (p : Part) (x : Arm) (v : ArmPart) (cells : Option CellBox)

theorem Part.reportFlags_park :
    (p.reportFlags x v cells).getLsbD Cause.park.bit = decide (p.joining cells ≠ []) := by
  unfold Part.reportFlags
  rw [BitVec.getLsbD_or, BitVec.getLsbD_or]
  have h1 : ((if p.table.foreignTouch x (p.table.cellsOf cells) = true then causeBit .breach else 0 : Word)).getLsbD
      Cause.park.bit = false := by split <;> rfl
  have h2 : ((if p.reportedReasons x v cells = v.guard.reasons then 0 else causeBit (armCause x) : Word)).getLsbD
      Cause.park.bit = false := by split <;> cases x <;> rfl
  rw [h1, h2, Bool.or_false, Bool.or_false]
  by_cases hj : p.joining cells = []
  · rw [if_pos hj]; simp [hj]
  · rw [if_neg hj, decide_eq_true hj]; rfl

theorem Part.reportFlags_breach :
    (p.reportFlags x v cells).getLsbD Cause.breach.bit = p.table.foreignTouch x (p.table.cellsOf cells) := by
  unfold Part.reportFlags
  rw [BitVec.getLsbD_or, BitVec.getLsbD_or]
  have h1 : ((if p.joining cells = [] then 0 else causeBit .park : Word)).getLsbD Cause.breach.bit = false := by
    split <;> rfl
  have h2 : ((if p.reportedReasons x v cells = v.guard.reasons then 0 else causeBit (armCause x) : Word)).getLsbD
      Cause.breach.bit = false := by split <;> cases x <;> rfl
  rw [h1, h2, Bool.or_false, Bool.false_or]
  cases p.table.foreignTouch x (p.table.cellsOf cells) <;> rfl

theorem Part.joining_iff : p.joining cells ≠ [] ↔ ∃ c ∈ p.table.cellsOf cells, p.table.owner c = none := by
  rw [Part.joining, ne_eq, List.filter_eq_nil_iff]
  simp

theorem Part.foreignTouch_iff : p.table.foreignTouch x (p.table.cellsOf cells) = true ↔
    ∃ c ∈ p.table.cellsOf cells, p.table.owner c = some x.other := by
  simp [CellTable.foreignTouch]

/-- The cells of a report: those that joined, and the others. -/
theorem Part.grown_entries (h : p.table.wf) :
    (∀ c ∈ p.table.cellsOf cells, p.table.owner c = none → (p.grownTable x cells).entry c = ⟨some x, [parkNumber]⟩) ∧
    ∀ c, c ∉ p.table.cellsOf cells ∨ p.table.owner c ≠ none → (p.grownTable x cells).entry c = p.table.entry c := by
  obtain ⟨-, -, -, -, he⟩ := CellTable.addAll_spec x parkNumber (by decide) (p.joining cells) p.table h
  have mem : ∀ c, c ∈ p.joining cells ↔ c ∈ p.table.cellsOf cells ∧ p.table.owner c = none := fun c => by
    rw [Part.joining, List.mem_filter, beq_iff_eq]
  refine ⟨fun c hc ho => ?_, fun c hc => ?_⟩
  · unfold Part.grownTable
    rw [he c, if_pos ((mem c).mpr ⟨hc, ho⟩)]
    simp [CellEntry.joined, (CellTable.owner_none_iff _ h c).mp ho, holderInsert]
  · unfold Part.grownTable
    rw [he c, if_neg fun hm => ?_]
    obtain ⟨hin, ho⟩ := (mem c).mp hm
    exact hc.elim (fun h => h hin) fun h => h ho

end

end Sys2Proof.Machine

/-! PROOFS. Envelope reports that release no claim (O45). -/

namespace Sys2Proof.Machine

theorem ArmPart.refusedIn_claims (v : ArmPart) (refused : Option (Arm × PendingReserve)) (x : Arm) :
    (v.refusedIn refused x).claims = v.claims ∧ (v.refusedIn refused x).parkCount = v.parkCount ∧
      (v.refusedIn refused x).guard = v.guard := by
  unfold ArmPart.refusedIn
  split <;> exact ⟨rfl, rfl, rfl⟩

/-- Settles O45. -/
theorem reportAnswersOrGrowsThePark : Obligations.ReportAnswersOrGrowsThePark := by
  unfold Obligations.ReportAnswersOrGrowsThePark
  intro s x h p r
  refine ⟨fun hr => ?_, fun report rest hr => ?_⟩
  · exact onPart_unchanged s (fun p => p.nextReport x) h (by unfold Part.nextReport; rw [show (s.part.arm x).reports = [] from hr])
  have hx := p.acts_arm x (r.reporting rest) 0 []
  have hnext := Part.nextReport_eq (p := p) hr
  intro cells
  refine ⟨fun hoff => ?_, fun hg hs => ?_, fun hc ht hg hs hno hfit => ?_⟩
  · refine onPart_withArm (f := fun p => p.nextReport x) (r := r.reporting rest) h rfl rfl rfl rfl (hnext.trans ?_)
    have hsame : (p.acts x (r.reporting rest) 0 []).takeReport x report = p.acts x (r.reporting rest) 0 [] := by
      unfold Part.takeReport
      rw [Part.acts_guarding, hx]
      rcases hoff with hg | hs
      · rw [hg]; exact if_neg (by simp)
      · rw [show (r.reporting rest).guard.state = .offline from hs]; exact ite_self _
    rw [hsame]
    exact (p.withArm_eq_acts x _ 0).symm
  · have hanswer : (p.acts x (r.reporting rest) 0 []).takeReport x report = p.acts x { r with
        reports := rest
        answers := r.answers ++ [⟨p.table.foreignTouch x (p.table.cellsOf report.cells), report.cells, report.seq,
          report.time⟩] } 0 [] := by
      unfold Part.takeReport
      rw [Part.acts_guarding, hx, if_pos hg, show (r.reporting rest).guard.state = .admitting from hs, Part.updArm_eq_acts, hx,
        Part.acts_table]
      exact (p.acts_acts x _ _ _ _ _ _).trans (congrArg (fun f => p.acts x _ f []) BitVec.or_zero)
    exact ⟨_, p.foreignTouch_iff x report.cells, onPart_withArm (f := fun p => p.nextReport x) h rfl rfl rfl rfl
      ((hnext.trans hanswer).trans ((p.withArm_eq_acts x _ 0).symm))⟩
  · obtain ⟨w, cl, k, hnext, hwr, hframe, hw, hcl⟩ := Part.nextReport_pair hr hg hs ht hfit hno
    obtain ⟨t, hex, hpend, hops, hview, -⟩ := onPart_both (f := fun p => p.nextReport x) h hc hg hnext
    refine ⟨t, hex, hpend, ?_⟩
    intro q u foreign joined count crosses refused settled reasons flags becomes
    have htable : q.table = p.grownTable x report.cells := by
      have hunit := Part.unit_of_view hview
      rw [Part.pair_unit] at hunit
      exact (congrArg (fun p : Part => p.table) hunit :)
    have hnz : (p.grownTable x report.cells).nx = p.table.nx ∧ (p.grownTable x report.cells).ny = p.table.ny := by
      obtain ⟨-, hnx, hny, -, -⟩ := CellTable.addAll_spec x parkNumber (by decide) (p.joining report.cells) p.table ht.1
      exact ⟨hnx, hny⟩
    have hcells : ∀ b, (p.grownTable x report.cells).cellsOf b = p.table.cellsOf b := fun b => by
      unfold CellTable.cellsOf
      rw [hnz.1, hnz.2]
    have href : refused = p.reportRefusal x report.cells := by
      dsimp only [refused, crosses]
      unfold Part.reportRefusal Part.refusal
      rw [htable]
      cases p.armA.waiting with
      | none => exact (ite_self _).symm
      | some wa =>
        cases p.armB.waiting with
        | none => exact (ite_self _).symm
        | some wb =>
          dsimp only
          by_cases hj : joined = []
          · rw [if_neg fun hh => hh.1 hj, if_pos (show p.joining report.cells = [] from hj)]
          · rw [if_neg (show ¬ p.joining report.cells = [] from hj)]
            refine ite_congr (propext ?_) (fun _ => rfl) fun _ => rfl
            rw [Part.crossing_iff, show (p.setTable (p.grownTable x report.cells)).table = p.grownTable x report.cells from rfl,
              hcells]
            exact and_iff_right hj
    have hsettled : ∀ z v, settled z v = v.refusedIn (p.reportRefusal x report.cells) z := fun z v => by
      rw [← href]; rfl
    have hreasons : p.reportedReasons x r report.cells = reasons := rfl
    have hud : u.view = (((w.claiming cl).refusedIn (p.reportRefusal x report.cells) x).due k).view := by
      have := Part.arm_view_of_view hview x
      rw [Part.pair_arm] at this
      exact this
    have hu : u.view = ((w.claiming cl).refusedIn (p.reportRefusal x report.cells) x).view := hud
    obtain ⟨hrc, hrp, hrg⟩ := (w.claiming cl).refusedIn_claims (p.reportRefusal x report.cells) x
    have huc : u.claims = cl := (congrArg ArmPart.claims hu :).trans hrc
    have hup : u.parkCount = count := (congrArg ArmPart.parkCount hu :).trans (hrp.trans (congrArg ArmPart.parkCount hframe :))
    have hur : u.guard.reasons = reasons := (congrArg (fun a : ArmPart => a.guard.reasons) hu :).trans
      ((congrArg Guard.reasons hrg :).trans (hwr.trans hreasons))
    have hbecomes : ∀ V : ArmPart, w.claiming u.claims = { V with
        reports := rest
        claims := u.claims
        parkCount := count
        guard := { V.guard with reasons := reasons } } → becomes V := fun V hV => by
      refine ⟨?_, ?_⟩
      · rw [← hV, hsettled, huc]; exact hu
      · rw [htable]
        rw [← hsettled x.other] at hview
        exact hview.trans (Part.pair_view p _ x (u := u) hud.symm (settled x.other) flags _)
    have hcause : q.cause = p.cause ||| flags := by
      refine (congrArg Part.cause hview :).trans ?_
      cases x <;> exact BitVec.or_zero
    obtain ⟨hin, hout⟩ := p.grown_entries x report.cells ht.1
    have hstays : (r.guard.state = .running → r.guard.reasons = noReasons) →
        p.regard ((r.reporting rest).parking count) reasons = ((r.reporting rest).parking count).withReasons reasons →
        becomes r := fun hrun he => hbecomes r (by rw [(hw hrun).trans he]; rfl)
    have hrest : ∀ g, r.guard.state = g → g ≠ .running → r.guard.state = .running → r.guard.reasons = noReasons :=
      fun g hst hne hrun => absurd (hst.symm.trans hrun) hne
    have hjoin : joined = [] ↔ ¬ ∃ c ∈ cells, p.table.owner c = none := by
      rw [← p.joining_iff report.cells, Classical.not_not]; rfl
    have hforeign : foreign = true ↔ ∃ c ∈ cells, p.table.owner c = some x.other := p.foreignTouch_iff x report.cells
    refine ⟨fun c hc ho => ?_, fun c hc => ?_, fun m hm => ?_, ?_, ?_, ?_, fun hlim => ?_, ?_, fun hst hrr hR => ?_,
      fun hst hrr hR => ?_, fun hst hR => ?_, fun hst hrr hR => ?_, fun hst => ?_⟩
    · rw [htable, CellTable.owner, hin c hc ho]
      exact ⟨rfl, rfl⟩
    · rw [htable]; exact hout c hc
    · show u.claims.getD m freeClaim = _
      rw [huc]; exact hcl m hm
    · rw [Part.causeSet, hcause, BitVec.getLsbD_or, Bool.or_eq_true,
        show flags.getLsbD Cause.park.bit = _ from p.reportFlags_park x r report.cells, decide_eq_true_iff, p.joining_iff]
      exact Iff.rfl
    · rw [Part.causeSet, hcause, BitVec.getLsbD_or, Bool.or_eq_true,
        show flags.getLsbD Cause.breach.bit = _ from p.reportFlags_breach x r report.cells, p.foreignTouch_iff]
      exact Iff.rfl
    · rw [hur, ← hforeign]
      exact Bool.or_eq_true_iff
    · rw [hur, hup]
      show (if _ then _ else _) = true ↔ _
      rw [if_neg hlim, decide_eq_true_iff]
    · obtain ⟨blocks, hb, hbs⟩ := hops
      refine ⟨blocks, ?_, hbs⟩
      rw [hb, href]
      cases p.reportRefusal x report.cells with
      | none => rfl
      | some e => rfl
    · exact hstays (fun _ => hrr) (Part.regard_stays (fun _ => hrr.trans hR.symm) fun _ _ => hrr)
    · have he : p.regard ((r.reporting rest).parking count) reasons =
          (p.holdsArm ((r.reporting rest).parking count) .breach).withReasons reasons :=
        (if_neg fun e => hR (e.symm.trans hrr)).trans (if_pos hst)
      exact hbecomes _ (by rw [(hw fun _ => hrr).trans he]; rfl)
    · exact hstays (hrest _ hst (by simp)) (Part.regard_stays (fun hrun => absurd (hst.symm.trans hrun) (by simp))
        fun _ h0 => absurd h0 hR)
    · have he : p.regard ((r.reporting rest).parking count) reasons =
          (((r.reporting rest).parking count).resumed .park).withReasons reasons :=
        (if_neg fun e => hrr (e.trans hR)).trans ((if_neg fun hrun : r.guard.state = .running =>
          (by rw [hst] at hrun; cases hrun)).trans (if_pos ⟨hst, hR⟩))
      exact hbecomes _ (by rw [(hw (hrest _ hst (by simp))).trans he]; rfl)
    · exact hstays (hrest _ hst (by simp)) (Part.regard_stays (fun hrun => absurd (hst.symm.trans hrun) (by simp))
        fun hh => absurd (hst.symm.trans hh) (by simp))

end Sys2Proof.Machine

/-! SUPPORT. The re-evaluation of both pending RESERVEs (R54). -/

namespace Sys2Proof.Machine

/-! ## The re-evaluation of both pending RESERVEs (R54) -/

theorem CellTable.addAll_size (x : Arm) (n : Nat) : ∀ (l : List Nat) (t : CellTable),
    (t.addAll x n l).nx = t.nx ∧ (t.addAll x n l).ny = t.ny
  | [], _ => ⟨rfl, rfl⟩
  | c :: l, t => CellTable.addAll_size x n l (t.addHolder x n c)

theorem Part.reevaluateArm_size (q : Part) (y : Arm) :
    (q.reevaluateArm y).table.nx = q.table.nx ∧ (q.reevaluateArm y).table.ny = q.table.ny := by
  obtain ⟨-, e⟩ | ⟨w, n, -, -, -, -, e⟩ | ⟨w, -, -, e⟩ := q.reevaluateArm_cases y <;> rw [e]
  · exact ⟨rfl, rfl⟩
  · rw [Part.handResult_eq, Part.fillClaim_eq, Part.setWaiting_acts]
    simp only [Part.acts_table]
    exact CellTable.addAll_size ..
  · rw [Part.setWaiting_acts, Part.acts_table]
    exact ⟨rfl, rfl⟩

/-- The conflicts of a zone of x in a table where some cells have come to the other arm. -/
theorem Part.conflictCells_way {p u : Part} {x : Arm} {b : CellBox} {E : Nat → Bool} (hx : u.table.nx = p.table.nx)
    (hy : u.table.ny = p.table.ny)
    (h : ∀ d, u.table.owner d = some x.other ↔ p.table.owner d = some x.other ∨ E d = true) :
    u.conflictCells x b = (p.table.cellsOf (some b)).filter fun d => p.table.owner d == some x.other || E d := by
  have hcells : u.table.cellsOf (some b) = p.table.cellsOf (some b) := by simp only [CellTable.cellsOf, hx, hy]
  unfold Part.conflictCells
  rw [hcells]
  refine List.filter_congr fun d _ => ?_
  rw [Bool.eq_iff_iff, beq_iff_eq, h, Bool.or_eq_true, beq_iff_eq]

/-- The cells of y once its pending RESERVE has been re-evaluated. -/
theorem Part.Regrant.owner {p : Part} {y : Arm} {k : Nat} {freed : List Nat} {u t : CellTable} {z : ArmPart}
    (h : p.Regrant y k freed [] u t z) (hs : p.Shifted u y freed []) (d : Nat) :
    t.owner d = some y ↔ p.table.owner d = some y ∨ (p.regrantedCells y freed []).contains d = true := by
  obtain ⟨-, -, hout, hregr⟩ := h
  obtain ⟨-, -, -, -, hown, -⟩ := hs
  rw [List.contains_iff_mem]
  by_cases hd : d ∈ p.regrantedCells y freed []
  · refine iff_of_true ?_ (.inr hd)
    obtain ⟨hz, -⟩ := hregr ((p.setTable t).acts y z 0 []) (by rw [Part.acts_arm]) (by rw [Part.acts_table]; rfl)
    unfold Part.regrantedCells at hd
    cases hr : p.regranted y freed [] with
    | none => rw [hr] at hd; cases hd
    | some w =>
      rw [hr] at hd hz
      obtain ⟨-, -, -, hc⟩ := hz
      have := (hc d hd).1
      rw [Part.acts_table] at this
      exact this
  · have he : t.owner d = u.owner d := by unfold CellTable.owner; rw [hout d hd]
    rw [he, hown]
    exact (or_iff_left hd).symm

/-- x's pending RESERVE, whose conflicts stand, once cells of x have become NONE. -/
def Part.waitingOn (p : Part) (x : Arm) (freed : List Nat) : Option PendingReserve :=
  if freed = [] then (p.arm x).waiting
  else (p.arm x).waiting.map fun w =>
    let way := (p.table.cellsOf (some w.box)).filter fun d =>
      p.table.owner d == some x.other || (w.age == .younger && (p.regrantedCells x.other freed []).contains d)
    { w with conflicts := way.length, firstConflict := way.head? }

section
variable {p q : Part} {x : Arm} {k : Nat} {freed : List Nat}

theorem Part.regrantedCells_alone (h : (p.arm x).waiting = none) : p.regranted x freed [] = none ∧
    p.regrantedCells x freed [] = [] := by
  have hr : p.regranted x freed [] = none := by unfold Part.regranted; rw [h]; rfl
  refine ⟨hr, ?_⟩
  unfold Part.regrantedCells
  rw [hr]
  rfl

theorem Part.acts_other_pair (u : Part) (z : ArmPart) (ops : List MemOp) :
    u.acts x.other z 0 ops = u.pair x (u.arm x) z 0 ops := by
  have h := u.acts_then_other x (u.arm x) z 0 [] ops
  rw [show u.acts x (u.arm x) 0 [] = u from u.acts_self x] at h
  exact h

/-- x's pending RESERVE, evaluated where its conflicts stand. -/
theorem Part.reevaluateArm_way {u : Part} {v : PendingReserve} (hf : freed ≠ []) (hv : (p.arm x).waiting = some v)
    (hu : (u.arm x).waiting = some v) (hx : u.table.nx = p.table.nx) (hy : u.table.ny = p.table.ny)
    (hc : p.conflictCells x v.box ≠ []) (h : ∀ d, u.table.owner d = some x.other ↔ p.table.owner d = some x.other ∨
      (v.age == .younger && (p.regrantedCells x.other freed []).contains d) = true) :
    u.reevaluateArm x = u.acts x ((u.arm x).awaiting (p.waitingOn x freed)) 0 [] := by
  have hway := Part.conflictCells_way (b := v.box) hx hy h
  have hne : u.conflictCells x v.box ≠ [] := fun h0 => hc (List.filter_eq_nil_iff.mpr fun d hd hd' =>
    List.filter_eq_nil_iff.mp (hway.symm.trans h0) d hd (by rw [Bool.or_eq_true]; exact .inl hd'))
  rw [Part.reevaluateArm_conflicts hu hne, hway, Part.waitingOn, if_neg hf, hv]
  rfl

/-- After cells of x have become NONE, while x's conflicts stand: x's pending RESERVE keeps waiting with new figures, and
the other arm's is granted or keeps waiting. -/
theorem Part.reevaluateIf_both (hw : (q.arm x).waiting = (p.arm x).waiting) (harm : q.arm x.other = p.arm x.other)
    (hg : p.grantable x.other k) (hs : p.Shifted q.table x.other freed []) (hl : (p.arm x.other).claims.length = 8)
    (he : q.engine = p.engine) (hn : q.now = p.now)
    (hc : ∀ w, (p.arm x).waiting = some w → p.conflictCells x w.box ≠ [])
    (hages : ∀ v w, (p.arm x).waiting = some v → (p.arm x.other).waiting = some w → v.age ≠ w.age) :
    ∃ t z, q.reevaluateIf freed.length =
        (q.setTable t).pair x ((q.arm x).awaiting (p.waitingOn x freed)) z 0 (p.regrantOps x.other k freed []) ∧
      p.Regrant x.other k freed [] q.table t z := by
  have hself : (q.arm x).awaiting (p.arm x).waiting = q.arm x := by rw [← hw]; rfl
  by_cases hf : freed = []
  · subst hf
    obtain ⟨hr, hops⟩ := Part.Regrant.unfreed (p := p) (y := x.other) (k := k) (joined := []) (u := q.table)
    refine ⟨_, _, ?_, hr⟩
    rw [hops, Part.waitingOn, if_pos rfl, hself, ← harm]
    exact (q.acts_self x.other).symm.trans (q.acts_other_pair ..)
  have hlen : ¬ freed.length = 0 := by simpa using hf
  obtain ⟨-, hnx, hny, -, hown, -⟩ := id hs
  cases hx : (p.arm x).waiting with
  | none =>
    obtain ⟨t, z, he, hr⟩ := Part.reevaluateArm_regrants hf harm hg hs hl he hn
    refine ⟨t, z, ?_, hr⟩
    rw [Part.reevaluateIf_other (y := x.other) (by rw [Arm.other_other, hw, hx]), if_neg hlen, he, Part.waitingOn,
      if_neg hf, hx, Option.map_none, ← hx, hself]
    exact Part.acts_other_pair ..
  | some v =>
    have hqv := hw.trans hx
    have hcv := hc v hx
    -- x's RESERVE first
    have first : (∀ d, (v.age == .younger && (p.regrantedCells x.other freed []).contains d) = false) →
        q.reevaluateArm x = q.acts x ((q.arm x).awaiting (p.waitingOn x freed)) 0 [] := fun hz =>
      Part.reevaluateArm_way hf hx hqv hnx hny hcv fun d => by rw [hz d, hown d]; simp
    cases hy : (p.arm x.other).waiting with
    | none =>
      obtain ⟨hr, hzone⟩ := Part.regrantedCells_alone (freed := freed) hy
      have hreg := Part.Regrant.waits (k := k) (u := q.table) hr
      rw [Part.stillWaiting, if_neg hf, hy, Option.map_none, ← hy] at hreg
      refine ⟨_, _, ?_, hreg⟩
      rw [Part.reevaluateIf_other (y := x) (by rw [harm, hy]), if_neg hlen, first fun d => by rw [hzone]; simp,
        Part.regrantOps, hr, ← harm]
      generalize (q.arm x).awaiting (p.waitingOn x freed) = r
      have hu := (q.acts x r 0 []).acts_self x.other
      rw [Part.acts_arm_other] at hu
      exact hu.symm
    | some w =>
      have hyw : (q.arm x.other).waiting = some w := by rw [harm]; exact hy
      have hage := hages v w hx hy
      rw [Part.reevaluateIf, if_neg hlen, Part.reevaluate]
      cases hva : v.age with
      | older =>
        have hwa : w.age = .younger := by
          cases hwa : w.age with
          | younger => rfl
          | older => exact absurd (hva.trans hwa.symm) hage
        have ho : q.olderArm = x := by
          have := Part.olderArm_eq (x := x.other) hyw (by rw [Arm.other_other]; exact hqv) hwa hva
          rwa [Arm.other_other] at this
        rw [ho, Part.bothArms, first fun d => by rw [hva]; rfl]
        obtain ⟨t, z, hre, hr⟩ := Part.reevaluateArm_regrants
          (q := q.acts x ((q.arm x).awaiting (p.waitingOn x freed)) 0 []) hf
          (by rw [Part.acts_arm_other]; exact harm) hg (by rw [Part.acts_table]; exact hs) hl
          (by rw [Part.acts_engine]; exact he) (by rw [Part.acts_now]; exact hn)
        rw [Part.acts_table] at hr
        refine ⟨t, z, ?_, hr⟩
        rw [hre, Part.acts_setTable]
        exact Part.acts_then_other ..
      | younger =>
        have hwa : w.age = .older := by
          cases hwa : w.age with
          | older => rfl
          | younger => exact absurd (hva.trans hwa.symm) hage
        obtain ⟨t, z, hre, hr⟩ := Part.reevaluateArm_regrants hf harm hg hs hl he hn
        obtain ⟨htx, hty⟩ := q.reevaluateArm_size x.other
        rw [hre, Part.acts_table] at htx hty
        have howner := hr.owner hs
        rw [Part.olderArm_eq hqv hyw hva hwa, Part.bothArms, Arm.other_other, hre]
        refine ⟨t, z, ?_, hr⟩
        rw [Part.reevaluateArm_way hf hx (by rw [Part.acts_other_arm]; exact hqv)
          (by rw [Part.acts_table]; exact htx.trans hnx) (by rw [Part.acts_table]; exact hty.trans hny) hcv fun d => by
          rw [Part.acts_table, hva]; exact howner d, Part.acts_other_pair, Part.pair_acts, Part.pair_arm, List.append_nil]
        rfl

end

end Sys2Proof.Machine

/-! SUPPORT. The release of a claim by a report (R34). -/

namespace Sys2Proof.Machine

section
variable {q : Part} {x : Arm} {n : Nat} {c : Claim} {report : Report}

theorem Part.releaseClaim_counted (d : Claim) (hn : n < (q.arm x).claims.length) :
    (q.acts x ((q.arm x).withClaim n d) 0 []).releaseClaim x n =
      ((q.setTable (q.table.removeAll n (q.table.cellsOf (some d.box)))).acts x
        (((q.arm x).withClaim n freeClaim).due q.marksKept) 0 []).reevaluateIf
          (q.table.countAlone n (q.table.cellsOf (some d.box))) := by
  have hclaim : (q.acts x ((q.arm x).withClaim n d) 0 []).claim x n = d := by
    rw [Part.claim, Part.acts_arm]
    exact (getD_set_ite _ _ _ _ hn).trans (if_pos rfl)
  have hset : ((q.arm x).withClaim n d).withClaim n freeClaim = (q.arm x).withClaim n freeClaim := by
    simp [ArmPart.withClaim]
  rw [Part.releaseClaim_eq, Part.releaseFrees, hclaim, Part.acts_table, Part.acts_arm, Part.acts_marksKept,
    Part.acts_setTable, Part.acts_acts, hset]
  rfl

/-- A claim that the report releases. -/
theorem Part.leaveClaim_releases (hc : q.claim x n = c.restarted report) (hn : n < (q.arm x).claims.length)
    (h : c.leaves report q.figures.leaveCount) : q.leaveClaim x report.cells n =
      ((q.setTable (q.table.removeAll n (q.table.cellsOf (some c.box)))).acts x
        (((q.arm x).withClaim n freeClaim).due q.marksKept) 0 []).reevaluateIf
          (q.table.countAlone n (q.table.cellsOf (some c.box))) := by
  obtain ⟨hin, htouch, hco, hcount⟩ := h
  obtain ⟨hf, hb, he, hst, hm, hrest⟩ := c.restarted_fields report
  have hcounts : (c.restarted report).countsOutside = true := by
    rw [Claim.countsOutside_iff (hf.trans hin), hst, hm, he]; exact hco
  have hout : q.figures.leaveCount ≤ (c.restarted report).outside + 1 := by
    rw [hrest hin]
    have hre : c.reported report = { c with outside := (if report.restart = true then 0 else c.outside) + 1 } :=
      (if_neg (by rw [htouch]; simp)).trans (if_pos hco)
    rw [hre] at hcount
    exact hcount
  unfold Part.leaveClaim
  dsimp only
  rw [hc, hf, hb, if_pos hin, CellBox.touchedBy_eq, htouch, if_neg (by simp), if_pos hcounts, Part.setClaim_acts,
    Part.acts_figures, if_pos hout, Part.releaseClaim_counted _ hn]

end

theorem Part.acts_pair (p : Part) (x : Arm) (a b z : ArmPart) (flags : Word) (ops : List MemOp) :
    (p.acts x a 0 []).pair x b z flags ops = p.pair x b z flags ops := by
  have h0 : (0 : Word) ||| flags = flags := BitVec.zero_or
  rw [Part.pair, Part.acts_acts, h0, List.nil_append]
  rfl

section
variable {p : Part} {x : Arm} {r : ArmPart} {report : Report} {n k : Nat} (ht : p.tableLaw)
  (hrw : r.waiting = (p.arm x).waiting) (hg : p.grantable x.other k)
  (hc : ∀ w, (p.arm x).waiting = some w → p.conflictCells x w.box ≠ [])
  (hages : ∀ v w, (p.arm x).waiting = some v → (p.arm x.other).waiting = some w → v.age ≠ w.age) (hn : n < 8)
  (hyes : (p.claim x n).leaves report p.figures.leaveCount)
include ht hrw hg hc hages hn hyes

/-- The release of record n, and the re-evaluation that it brings about. -/
theorem Part.leaveClaim_regrants (hlen : r.claims.length = 8)
    (hcl : r.claims.getD n freeClaim = (p.claim x n).restarted report) : ∃ t z j,
      (p.acts x r 0 []).leaveClaim x report.cells n = (p.setTable t).pair x
        (((r.withClaim n freeClaim).due j).awaiting (p.waitingOn x (p.freedBy x n))) z 0
        (p.regrantOps x.other k (p.freedBy x n) []) ∧
      p.Regrant x.other k (p.freedBy x n) [] (p.table.removeAll n (p.table.cellsOf (some (p.claim x n).box))) t z := by
  have hx := p.acts_arm x r 0 []
  have h0 : (0 : Word) ||| 0 = 0 := BitVec.or_zero
  have hrel := Part.leaveClaim_releases (q := p.acts x r 0 []) (x := x) (n := n) (c := p.claim x n) (report := report)
    (by rw [Part.claim, hx]; exact hcl) (by rw [hx, hlen]; exact hn) (by rw [Part.acts_figures]; exact hyes)
  rw [Part.acts_table, hx, Part.acts_setTable, Part.acts_acts, h0, List.append_nil] at hrel
  generalize hT : p.table.removeAll n (p.table.cellsOf (some (p.claim x n).box)) = T at hrel ⊢
  have hax := (p.setTable T).acts_arm x ((r.withClaim n freeClaim).due (p.acts x r 0 []).marksKept) 0 []
  have hheld : ∀ d ∈ p.table.cellsOf (some (p.claim x n).box),
      p.table.owner d = some x.other.other ∧ n ∈ (p.table.entry d).holders := fun d hd => by
    rw [Arm.other_other]
    exact ht.holds hn hyes.1 hd
  obtain ⟨t, z, hboth, hregr⟩ := Part.reevaluateIf_both (p := p)
    (q := (p.setTable T).acts x ((r.withClaim n freeClaim).due (p.acts x r 0 []).marksKept) 0 []) (x := x) (k := k)
    (freed := p.freedBy x n) (by rw [hax]; exact hrw) (by rw [Part.acts_arm_other]; rfl) hg
    (by rw [Part.acts_table]; exact hT ▸ Part.Shifted.of_left ht.1 hheld) (ht.claims_length x.other)
    (by rw [Part.acts_engine]; rfl) (by rw [Part.acts_now]; rfl) hc hages
  rw [Part.acts_table] at hregr
  rw [hax, Part.acts_setTable, Part.acts_pair] at hboth
  exact ⟨t, z, _, hrel.trans hboth, hregr⟩

/-- Leave evaluation of a report that releases record n alone. -/
theorem Part.leaveEvaluation_releases (hrc : r.claims = (p.arm x).claims)
    (hno : ∀ m, m < 8 → m ≠ n → ¬ (p.claim x m).leaves report p.figures.leaveCount) : ∃ t z cl j,
      (p.acts x r 0 []).leaveEvaluation x report = (p.setTable t).pair x
        (((r.awaiting (p.waitingOn x (p.freedBy x n))).claiming cl).due j) z 0
        (p.regrantOps x.other k (p.freedBy x n) []) ∧
      p.Regrant x.other k (p.freedBy x n) [] (p.table.removeAll n (p.table.cellsOf (some (p.claim x n).box))) t z ∧
      cl.getD n freeClaim = freeClaim ∧ ∀ m, m < 8 → m ≠ n → cl.getD m freeClaim = (p.claim x m).evaluated report := by
  have hlen : r.claims.length = 8 := by rw [hrc]; exact ht.claims_length x
  obtain ⟨l₁, l₂, hl⟩ := List.append_of_mem ((claimNumbers_mem n).mpr hn)
  have hnd : (l₁ ++ n :: l₂).Nodup := by rw [← hl]; decide
  obtain ⟨hd₁, hd₂, hdis⟩ := List.nodup_append.mp hnd
  obtain ⟨hn₂, hd₂⟩ := List.nodup_cons.mp hd₂
  have hlt : ∀ m, m ∈ l₁ ∨ m = n ∨ m ∈ l₂ ↔ m < 8 := fun m => by
    rw [← claimNumbers_mem, hl]; simp
  have hn₁ : n ∉ l₁ := fun h => hdis n h n List.mem_cons_self rfl
  have h0 : (0 : Word) ||| 0 = 0 := BitVec.or_zero
  -- the restart mark, and the claims before record n
  obtain ⟨cl₀, hre, hcl₀, hget₀⟩ := (p.acts x r 0 []).restarts_eq x report
  rw [Part.acts_arm] at hcl₀
  rw [Part.acts_arm, Part.acts_acts, h0, List.append_nil] at hre
  have hclaim₀ : ∀ m, (p.acts x (r.claiming cl₀) 0 []).claim x m = (p.claim x m).restarted report := fun m => by
    rw [Part.claim, Part.acts_arm]
    refine (hget₀ m).trans ?_
    rw [Part.claim, Part.acts_arm, hrc]
    rfl
  obtain ⟨cl₁, j₁, hf₁, hcl₁, hget₁⟩ := Part.leaveClaims_count (f := p.claim x) (k := p.figures.leaveCount) l₁
    (p.acts x (r.claiming cl₀) 0 []) hd₁
    (fun m hm => by
      rw [Part.acts_arm]; show m < cl₀.length
      rw [hcl₀, hlen]; exact (hlt m).mp (.inl hm))
    (fun m _ => hclaim₀ m)
    (fun m hm => hno m ((hlt m).mp (.inl hm)) fun e => hn₁ (e ▸ hm))
    (by rw [Part.acts_figures])
  rw [Part.acts_arm, Part.acts_acts, h0, List.append_nil] at hf₁
  have hlen₁ : cl₁.length = 8 := by
    rw [hcl₁, Part.acts_arm]; exact hcl₀.trans hlen
  -- record n
  obtain ⟨t, z, j, hrel, hregr⟩ := Part.leaveClaim_regrants (r := ((r.claiming cl₀).claiming cl₁).due j₁) ht hrw hg hc hages
    hn hyes hlen₁ ((hget₁ n).trans ((if_neg hn₁).trans (hclaim₀ n)))
  -- the claims after record n
  generalize hU : (p.setTable t).pair x _ z 0 (p.regrantOps x.other k (p.freedBy x n) []) = U at hrel
  have hUx : U.arm x = (((((r.claiming cl₀).claiming cl₁).due j₁).withClaim n freeClaim).due j).awaiting
      (p.waitingOn x (p.freedBy x n)) := by rw [← hU, Part.pair_arm]
  have hUc : (U.arm x).claims = cl₁.set n freeClaim := by rw [hUx]; rfl
  have hUm : ∀ m, U.claim x m = if m = n then freeClaim else cl₁.getD m freeClaim := fun m => by
    rw [Part.claim, hUc]
    exact getD_set_ite _ _ _ _ (by rw [hlen₁]; exact hn)
  obtain ⟨cl₂, j₂, hf₂, -, hget₂⟩ := Part.leaveClaims_count (f := p.claim x) (k := p.figures.leaveCount) l₂ U hd₂
    (fun m hm => by rw [hUc, List.length_set, hlen₁]; exact (hlt m).mp (.inr (.inr hm)))
    (fun m hm => by
      have hmn : m ≠ n := fun e => hn₂ (e ▸ hm)
      rw [hUm, if_neg hmn, hget₁, if_neg fun h => hdis m h m (List.mem_cons_of_mem _ hm) rfl]
      exact hclaim₀ m)
    (fun m hm => hno m ((hlt m).mp (.inr (.inr hm))) fun e => hn₂ (e ▸ hm))
    (by rw [← hU, Part.pair_figures]; rfl)
  refine ⟨t, z, cl₂, j₁ || j || j₂, ?_, hregr, ?_, fun m hm hmn => ?_⟩
  · unfold Part.leaveEvaluation
    dsimp only
    rw [hre, hl, List.foldl_append, List.foldl_cons, hf₁, hrel, hf₂, hUx, ← hU, Part.pair_acts, h0, List.append_nil]
    simp [ArmPart.due, ArmPart.claiming, ArmPart.awaiting, ArmPart.withClaim, Bool.or_assoc]
  · rw [hget₂, if_neg hn₂, hUm, if_pos rfl]
  · rw [hget₂, hUm, if_neg hmn, hget₁]
    by_cases h₂ : m ∈ l₂
    · rw [if_pos h₂]
    · rw [if_neg h₂, if_pos ((((hlt m).mpr hm).resolve_right fun h => h.elim hmn h₂))]

end

end Sys2Proof.Machine

/-! PROOFS. Leave evaluation that releases a claim (O46). -/

namespace Sys2Proof.Machine

/-- A report that touches x's own cells alone, with PARK as the limit has it, classifies as nothing (R27 to R30). -/
theorem Part.classify_own {p : Part} {x : Arm} {l : List Nat} (hown : ∀ d ∈ l, p.table.owner d = some x)
    (hpark : p.figures.parkLimit = 255 ∨
      ((p.arm x).guard.reasons.park = true ↔ p.figures.parkLimit < (p.arm x).parkCount)) : p.classify x l = p := by
  have hfree : p.table.freeCells l = [] := List.filter_eq_nil_iff.mpr fun d hd => by rw [hown d hd]; simp
  have hforeign : p.table.foreignTouch x l = false := by
    unfold CellTable.foreignTouch
    rw [List.any_eq_false]
    exact fun d hd => by rw [hown d hd]; simp
  have hlimit : p.compareParkLimit x = p := by
    have hR : p.parkReasons (p.arm x) = (p.arm x).guard.reasons := by
      unfold Part.parkReasons
      rcases hpark with h | h
      · rw [if_pos h]
      · rw [show decide (p.figures.parkLimit < (p.arm x).parkCount) = (p.arm x).guard.reasons.park from
          Bool.eq_iff_iff.mpr (by rw [decide_eq_true_iff, h]), ite_self]
    obtain ⟨-, e⟩ | ⟨hq, he, -⟩ | ⟨hq, he, -⟩ := p.compareParkLimit_moves x
    · exact e
    · rw [← hR, he] at hq; cases hq
    · rw [← hR, he] at hq; cases hq
  unfold Part.classify
  dsimp only
  rw [hfree, if_pos rfl, hforeign, if_neg (by simp), Part.growPark, hfree, if_pos rfl, hlimit]

theorem Part.steady.linesDriven {p : Part} (h : p.steady) : p.linesDriven := fun y => by
  obtain ⟨hreset, -, ha, hb⟩ := h
  unfold Part.stopLineLaw at ha hb
  rw [hreset] at ha hb
  cases y
  · exact ha
  · exact hb

/-- A report that classifies as nothing and releases record n or no record. -/
theorem Part.nextReport_evaluates {p : Part} {x : Arm} {report : Report} {rest : List Report} {n k : Nat} (ht : p.tableLaw)
    (hg : p.guarding = true)
    (hs : (p.arm x).guard.state = .running ∨ (p.arm x).guard.state = .held ∨ (p.arm x).guard.state = .stopped)
    (hr : (p.arm x).reports = report :: rest) (hown : ∀ d ∈ p.table.cellsOf report.cells, p.table.owner d = some x)
    (hpark : p.figures.parkLimit = 255 ∨
      ((p.arm x).guard.reasons.park = true ↔ p.figures.parkLimit < (p.arm x).parkCount))
    (hgr : p.grantable x.other k) (hcon : ∀ w, (p.arm x).waiting = some w → p.conflictCells x w.box ≠ [])
    (hages : ∀ v w, (p.arm x).waiting = some v → (p.arm x.other).waiting = some w → v.age ≠ w.age) (hn : n < 8)
    (hno : ∀ m, m < 8 → m ≠ n → ¬ (p.claim x m).leaves report p.figures.leaveCount) :
    ∃ t z w cl j ops, p.nextReport x =
      (p.setTable t).pair x ((((p.arm x).reporting rest).awaiting w).claiming cl |>.due j) z 0 ops ∧
      (∀ m, m < 8 → ¬ (p.claim x m).leaves report p.figures.leaveCount →
        cl.getD m freeClaim = (p.claim x m).evaluated report) ∧
      (¬ (p.claim x n).leaves report p.figures.leaveCount →
        t = p.table ∧ z = p.arm x.other ∧ w = (p.arm x).waiting) ∧
      ((p.claim x n).leaves report p.figures.leaveCount →
        cl.getD n freeClaim = freeClaim ∧ w = p.waitingOn x (p.freedBy x n) ∧
        ops = p.regrantOps x.other k (p.freedBy x n) [] ∧
        p.Regrant x.other k (p.freedBy x n) []
          (p.table.removeAll n (p.table.cellsOf (some (p.claim x n).box))) t z) := by
  have hx := p.acts_arm x ((p.arm x).reporting rest) 0 []
  have hnext : p.nextReport x = (p.acts x ((p.arm x).reporting rest) 0 []).leaveEvaluation x report := by
    refine (Part.nextReport_eq hr).trans ((Part.takeReport_evaluates (x := x) (report := report)
      (by rw [Part.acts_guarding]; exact hg) (by rw [hx]; exact hs)).trans ?_)
    rw [Part.acts_table, Part.classify_own (by rw [Part.acts_table]; exact hown) (by rw [Part.acts_figures, hx]; exact hpark)]
  by_cases hl : (p.claim x n).leaves report p.figures.leaveCount
  · obtain ⟨t, z, cl, j, he, hre, hcn, hcm⟩ := Part.leaveEvaluation_releases (r := (p.arm x).reporting rest) ht rfl
      hgr hcon hages hn hl rfl hno
    refine ⟨t, z, _, cl, j, _, hnext.trans he, fun m hm hml => ?_, fun hnl => absurd hl hnl, fun _ => ⟨hcn, rfl, rfl, hre⟩⟩
    exact hcm m hm fun e => hml (e ▸ hl)
  · obtain ⟨cl, j, he, -, hget⟩ := Part.leaveEvaluation_counts
      (q := p.acts x ((p.arm x).reporting rest) 0 []) (x := x) (report := report)
      (by rw [hx]; exact ht.claims_length x) (fun m hm => by
        rw [Part.claim, hx, Part.acts_figures]
        by_cases hmn : m = n
        · rw [hmn]; exact hl
        · exact hno m hm hmn)
    rw [hx, Part.acts_acts, show (0 : Word) ||| 0 = 0 from BitVec.or_zero, List.append_nil] at he
    refine ⟨p.table, p.arm x.other, (p.arm x).waiting, cl, j, [],
      (hnext.trans he).trans (p.acts_eq_pair x _ 0 []), fun m hm _ => ?_,
      fun _ => ⟨rfl, rfl, rfl⟩, fun hyes => absurd hyes hl⟩
    rw [hget m hm, Part.claim, hx]
    rfl

/-- Settles O46. -/
theorem leaveEvaluationCountsAndReleases : Obligations.LeaveEvaluationCountsAndReleases := by
  unfold Obligations.LeaveEvaluationCountsAndReleases
  intro s x report rest n k h hc ht
  dsimp only
  intro hg hs hr hown hpark hgr hcon hages hn hno
  obtain ⟨t, z, w, cl, j, ops, hf, hclaims, hnone, hsome⟩ :=
    Part.nextReport_evaluates ht hg hs hr hown hpark hgr hcon hages hn hno
  obtain ⟨q, hex, hpend, ⟨blocks, hops, hblocks⟩, hview, hlines⟩ := onPart_both (f := fun p => p.nextReport x) h hc hg hf
  refine ⟨q, hex, hpend, ?_⟩
  have hvx := Part.arm_view_of_view hview x
  have hvy := Part.arm_view_of_view hview x.other
  rw [Part.pair_arm] at hvx
  rw [Part.pair_other] at hvy
  have hunit := Part.unit_of_view hview
  rw [Part.pair_unit] at hunit
  have htab : q.part.table = t := (congrArg (fun p : Part => p.table) hunit :)
  have hqc : (q.part.arm x).claims = cl := (congrArg ArmPart.claims hvx :)
  have hqw : (q.part.arm x).waiting = w := (congrArg ArmPart.waiting hvx :)
  refine ⟨fun m hm hml => ?_, fun hnl => ?_, fun hl => ?_, ?_, (congrArg ArmPart.parkCount hvx :),
    (congrArg ArmPart.reports hvx :), ?_⟩
  · rw [Part.claim, hqc]
    exact hclaims m hm hml
  · obtain ⟨h1, h2, h3⟩ := hnone hnl
    exact ⟨htab.trans h1, by rw [← h2]; exact hvy, hqw.trans h3⟩
  · obtain ⟨hcn, hwe, hoe, hreg⟩ := hsome hl
    obtain ⟨-, -, hout, hregr⟩ := hreg
    refine ⟨by rw [Part.claim, hqc]; exact hcn, hregr q.part hvy htab, ⟨blocks, by rw [hops, hoe]; rfl, hblocks⟩,
      hqw.trans hwe, fun d hd => ?_⟩
    have hheld : ∀ d ∈ s.part.table.cellsOf (some (s.part.claim x n).box),
        s.part.table.owner d = some x ∧ n ∈ (s.part.table.entry d).holders := fun d hd => ht.holds hn hl.1 hd
    obtain ⟨hin, hrest, howner⟩ := CellTable.left_entries ht.1 hheld
    have he := hout d hd
    rw [← htab] at he
    refine ⟨fun hdc => ⟨?_, fun m => by rw [he]; exact hin d hdc m⟩, fun hdc => he.trans (hrest d hdc)⟩
    have ho : q.part.table.owner d = if (s.part.table.entry d).holders = [n] then none else some x := by
      rw [← howner d hdc, CellTable.owner, he]; rfl
    rw [ho]
    split
    · next hh => exact iff_of_true rfl hh
    · next hh => exact iff_of_false (by simp) hh
  · refine hlines.guard_same h.linesDriven ?_ (congrArg ArmPart.guard hvx :)
    rw [Part.shown hview (fun u => u.guarding) fun _ => rfl]
    unfold Part.guarding
    rw [Part.pair_engine]
    rfl
  · refine (congrArg Part.cause hview :).trans ?_
    have h0 : s.part.cause ||| (0 : Word) ||| 0 = s.part.cause := by
      rw [show s.part.cause ||| (0 : Word) = s.part.cause from BitVec.or_zero]; exact BitVec.or_zero
    cases x <;> exact h0

end Sys2Proof.Machine
